-- ==== Sys2Proof/Word.lean ====
section
/-! DEFINITION. The plain words of the part (bytes, the session clock, badge codes), the numbers that name its records
(00 section 4), and the table of fixed size in which each kind of record is held. -/

namespace Sys2Proof

/-- One byte of a frame. -/
abbrev Byte := BitVec 8

/-- A field of two bytes (11 section 11.2). -/
abbrev Half := BitVec 16

/-- The session clock and the tags taken from it: 32 bits, one count per 100 ms (00 section 4). -/
abbrev Clock := BitVec 32

/-- A badge code (02 section 2.1). -/
abbrev Badge := BitVec 32

/-! Record numbers. Sections, walls, floors, booths, seats and voice slots are numbered from 1 by the spec; the number is
`val + 1`. Ports, wall lines, listen slots and channels are numbered from 0; the number is `val`. -/

abbrev SectionId := Fin 12
abbrev WallId := Fin 16
abbrev LineId := Fin 16
abbrev FloorId := Fin 6
abbrev SlotId := Fin 16
abbrev ChannelId := Fin 32
abbrev ListenSlot := Fin 16
abbrev BoothId := Fin 12
abbrev SeatId := Fin 256
abbrev PortId := Fin 4
/-- Ring A is 0 and ring B is 1 (11 R185, the attention subjects). -/
abbrev RingId := Fin 2
/-- A language code that names a language: 0 to 250. EMPTY and NONE are `none` of `Option Lang`. -/
abbrev Lang := Fin 251

/-- A table of exactly `n` records, as plain data. -/
structure Tbl (α : Type) (n : Nat) where
  rows : List α
  size : rows.length = n
deriving DecidableEq, Repr

namespace Tbl

variable {α β γ : Type} {n : Nat}

/-- The record at a position. -/
def get (t : Tbl α n) (i : Fin n) : α :=
  t.rows[i.val]'(by rw [t.size]; exact i.isLt)

/-- The table with one record replaced. -/
def set (t : Tbl α n) (i : Fin n) (a : α) : Tbl α n :=
  ⟨t.rows.set i.val a, by rw [List.length_set]; exact t.size⟩

/-- The table with one record changed by a function. -/
def upd (t : Tbl α n) (i : Fin n) (f : α → α) : Tbl α n :=
  t.set i (f (t.get i))

/-- The table whose every record is the same. -/
def fill (n : Nat) (a : α) : Tbl α n :=
  ⟨List.replicate n a, List.length_replicate⟩

/-- Each record mapped, with its position. -/
def imap (f : Fin n → α → β) (t : Tbl α n) : Tbl β n :=
  ⟨List.zipWith f (List.finRange n) t.rows, by simp [t.size]⟩

/-- Two tables joined record by record. -/
def zip (f : α → β → γ) (t : Tbl α n) (u : Tbl β n) : Tbl γ n :=
  ⟨List.zipWith f t.rows u.rows, by simp [t.size, u.size]⟩

/-- Whether some record satisfies a test. -/
def some? (p : α → Bool) (t : Tbl α n) : Bool :=
  t.rows.any p

/-- The lowest position whose record satisfies a test. -/
def lowest (p : α → Bool) (t : Tbl α n) : Option (Fin n) :=
  ((List.finRange n).zip t.rows).findSome? fun x => if p x.2 then some x.1 else none

/-- The positions whose records satisfy a test, in ascending order. -/
def positions (p : α → Bool) (t : Tbl α n) : List (Fin n) :=
  ((List.finRange n).zip t.rows).filterMap fun x => if p x.2 then some x.1 else none

@[simp] theorem get_set_self (t : Tbl α n) (i : Fin n) (a : α) : (t.set i a).get i = a := by
  simp [get, set]

theorem get_set (t : Tbl α n) (i j : Fin n) (a : α) :
    (t.set i a).get j = if i = j then a else t.get j := by
  simp [get, set, List.getElem_set, Fin.ext_iff]

theorem get_set_ne (t : Tbl α n) {i j : Fin n} (a : α) (h : i ≠ j) : (t.set i a).get j = t.get j := by
  simp [get_set, h]

@[simp] theorem get_upd_self (t : Tbl α n) (i : Fin n) (f : α → α) : (t.upd i f).get i = f (t.get i) := by
  simp [upd]

@[simp] theorem get_fill (i : Fin n) (a : α) : (fill n a).get i = a := by
  simp [get, fill]

@[simp] theorem get_imap (f : Fin n → α → β) (t : Tbl α n) (i : Fin n) : (t.imap f).get i = f i (t.get i) := by
  simp [get, imap]

@[simp] theorem get_zip (f : α → β → γ) (t : Tbl α n) (u : Tbl β n) (i : Fin n) :
    (t.zip f u).get i = f (t.get i) (u.get i) := by
  simp [get, zip]

/-- Two tables with equal records are equal. -/
theorem ext_get {t u : Tbl α n} (h : ∀ i, t.get i = u.get i) : t = u := by
  cases t with
  | mk r hr =>
    cases u with
    | mk q hq =>
      have e : r = q := by
        apply List.ext_getElem (by rw [hr, hq])
        intro k h1 h2
        exact h ⟨k, by rw [← hr]; exact h1⟩
      subst e
      rfl

theorem get_eq_getElem (t : Tbl α n) (i : Fin n) : t.get i = t.rows[i.val]'(by rw [t.size]; exact i.isLt) := rfl

theorem some?_iff (p : α → Bool) (t : Tbl α n) : t.some? p = true ↔ ∃ i, p (t.get i) = true := by
  unfold some?
  rw [List.any_eq_true]
  constructor
  · rintro ⟨x, hx, hp⟩
    obtain ⟨k, hk, rfl⟩ := List.mem_iff_getElem.mp hx
    exact ⟨⟨k, by rw [← t.size]; exact hk⟩, hp⟩
  · rintro ⟨i, hp⟩
    exact ⟨t.get i, List.getElem_mem _, hp⟩

end Tbl

end Sys2Proof
end

