-- ==== Sys2Proof/Syntax.lean ====
section
/-! DEFINITION. The commands of the part: one constructor for each row of spec/opcode_table.json, with the row's operands.
Operands of host requests are the bytes and two-byte fields of 11 R185 as they arrive, so that an argument outside its range
can be sent and is refused by the meaning. Operands of the part's own events (expiries, ticks, frames) name the record whose
event it is. -/

namespace Sys2Proof

/-- The two outputs of a booth (07 section 7.2). -/
inductive Out where
  | a
  | b
deriving DecidableEq, Repr

/-- The kinds of unit (02 section 2.1). -/
inductive UnitKind where
  | delegateUnit
  | chairUnit
  | deskUnit
deriving DecidableEq, Repr

/-- A key event of a REPLY (11 R186). RELAY carries its argument byte. -/
inductive KeyEvent where
  | mic
  | cancel
  | priorityDown
  | priorityUp
  | next
  | deskOn
  | deskOff
  | outA
  | outB
  | relay (arg : Byte)
deriving DecidableEq, Repr

/-- The contents of a well-formed REPLY frame (09 section 9.3, 11 R186). -/
structure Reply where
  address : Byte
  seqBit : Bool
  kind : UnitKind
  slot : ListenSlot
  events : List KeyEvent
  badge : Option Badge
deriving DecidableEq, Repr

/-- One item of BANK_WRITE: a field number and a value (11 R185). -/
structure BankItem where
  field : Byte
  value : Half
deriving DecidableEq, Repr

/-- The two kinds of key of SEAT_FIND (02 R38). -/
inductive FindKey where
  | place (port address : Byte)
  | card (code : Badge)
deriving DecidableEq, Repr

/-- The commands: requests of the host, events of lines and timers, frames of the chains, events of the Host Port. -/
inductive Instr where
  -- Layout Unit (chapter 1)
  | layoutOpen (key : Half)
  | layoutConfirm (key : Half)
  | layoutClose
  | armWindowExpiry
  | idleTimerExpiry
  | sectionSet (sec active : Byte)
  | wallDefine (wall secA secB source line polarity settle policy : Byte)
  | wallRemove (wall : Byte)
  | wallSet (wall pos : Byte)
  | wallRead (wall : Byte)
  | mergeConfirm (wall : Byte)
  | mergeRefuse (wall : Byte)
  | wallLineChange (line : LineId) (high : Bool)
  | settleTimerExpiry (wall : WallId)
  -- Seat Table (chapter 2)
  | seatPlace (seat : Half) (sec : Byte)
  | seatRole (seat : Half) (role : Byte)
  | seatRead (seat : Half)
  | seatFind (key : FindKey)
  | seatRetire (seat : Half)
  | maskSet (role keys : Byte)
  | rosterChanges
  -- Floor Table (chapter 3)
  | floorOpen (floor anchor precedence : Byte)
  | floorClose (floor : Byte)
  | floorSet (floor precedence : Byte)
  | floorRead (floor : Byte)
  | bankWrite (floor : Byte) (items : List BankItem)
  | bankRead (floor bank : Byte)
  | bankSwapNormal (floor : Byte)
  | bankSwapForce (floor : Byte)
  | bankCancel (floor : Byte)
  -- Speech Arbiter (chapter 4)
  | grant (floor : Byte) (seat : Half) (displace : Byte)
  | closeMic (seat : Half)
  | queueInsert (floor : Byte) (seat : Half) (position : Byte)
  | queueRemove (seat : Half)
  | queueClear (floor : Byte)
  | floorPriorityOn (floor : Byte)
  | floorPriorityOff (floor : Byte)
  | speakersRead (floor : Byte)
  | queueRead (floor first : Byte)
  -- Interpretation Unit (chapter 7) and Channel Allocator (chapter 6)
  | boothAssign (booth floor : Byte)
  | boothOutput (booth output language channel : Byte)
  | boothOutputClear (booth output : Byte)
  | boothAddDesk (booth : Byte) (seat : Half)
  | boothRemoveDesk (booth : Byte) (seat : Half)
  | boothSet (booth policy delay : Byte)
  | boothRelease (booth : Byte)
  | boothRead (booth : Byte)
  | channelRead (channel : Byte)
  -- Route Output (chapter 6)
  | routeFrameDone
  | holdActive
  | holdInactive
  -- Turn Timer Bank (chapter 5)
  | sessionTick
  | turnTimerZeroCut (seat : SeatId)
  | turnTimerZeroWarn (seat : SeatId)
  | flashEnd (seat : SeatId)
  | clockRead
  -- Chain Controller (chapter 9), with the grace and fallback timers
  | poll (port : PortId)
  | reply (port : PortId) (r : Reply)
  | pollMiss (port : PortId) (frame : List Byte)
  | graceExpiry (seat : SeatId)
  | fallbackDelayExpiry (booth : BoothId) (output : Out)
  | chainConfig (ring value : Byte)
  | enrollFull (target : Byte)
  | enrollExtend (target : Byte)
  | enrollAbort (target : Byte)
  | chainSeatRetire (port : PortId)
  | assignStep (port : PortId)
  | assignAck (port : PortId) (address : Byte) (kind : UnitKind)
  | assignReturned (ring : RingId)
  | assignBadAnswer (port : PortId) (frame : List Byte)
  | assignTimeout (port : PortId)
  | chainReset (target : Byte)
  | chainRead (target first : Byte)
  | ringTest (target : Byte)
  | periodicLoopTest (ring : RingId)
  | loopArrival (ring : RingId) (number : Byte)
  | loopTimeout (ring : RingId)
  -- Host Port (chapter 10)
  | answerRead (bytes : Nat)
  | requestFrameRefused (bytes : List Byte)
  | writeDiscarded
  | readAttention
  | attentionMask (kinds : Half)
  | hallReset (confirmation : Half)
  | hallResetFloorClose
  | hallResetSeatRefresh
  | hallResetRouteRefill
  | hallResetAttentionClear
  | identify
  | deviceReset
  | chipSelectAsserted
deriving DecidableEq, Repr

end Sys2Proof
end

