-- ==== Sys2Proof/Records.lean ====
section
/-! DEFINITION. The records of the ten blocks (00 section 2) as plain data: layout, seats, floors and banks, speech, timers,
channels and routes, booths, chains, attention, answers. Enumerated values stand in the order in which the spec lists them,
which is the order of their codes (11 R185). -/

namespace Sys2Proof

/-! ## Layout Unit (chapter 1) -/

/-- A set of sections, bit `val` for section `val + 1`. -/
abbrev SecSet := BitVec 12

inductive WallPos where
  | opened
  | closed
deriving DecidableEq, Repr

inductive Polarity where
  | openWhenHigh
  | openWhenLow
deriving DecidableEq, Repr

/-- The source of a wall's sensed state; line and polarity are present for LINE (01 section 1.4). -/
inductive WallSource where
  | line (line : LineId) (polarity : Polarity)
  | request
deriving DecidableEq, Repr

inductive MergePolicy where
  | auto
  | held
deriving DecidableEq, Repr

/-- The merge state NONE, PENDING or REFUSED. -/
inductive MergeState where
  | idle
  | pending
  | refused
deriving DecidableEq, Repr

/-- A defined wall (01 section 1.4). `settle` is in half-seconds; `settleLeft` is the running settle timer in ticks. -/
structure Wall where
  secA : SectionId
  secB : SectionId
  source : WallSource
  settle : Nat
  policy : MergePolicy
  sensed : WallPos
  applied : WallPos
  merge : MergeState
  settleLeft : Option Nat
deriving DecidableEq, Repr

/-- The layout lock with its stored key and its running timer in ticks (01 R1 to R3). -/
inductive Lock where
  | locked
  | armed (key : Half) (left : Nat)
  | opened (key : Half) (left : Nat)
deriving DecidableEq, Repr

inductive LockState where
  | locked
  | armed
  | opened
deriving DecidableEq, Repr

/-- What the Layout Unit holds, with the levels of the wall lines W0 to W15 (true is high). -/
structure Layout where
  active : SecSet
  walls : Tbl (Option Wall) 16
  pendingWalls : Tbl (Option WallPos) 16
  lock : Lock
  lines : Tbl Bool 16
deriving DecidableEq, Repr

/-! ## Seat Table (chapter 2) -/

inductive Role where
  | delegate
  | chair
  | desk
deriving DecidableEq, Repr

/-- The end of a ring from which a unit is polled. -/
inductive Reach where
  | primary
  | secondary
deriving DecidableEq, Repr

/-- Link state; LOST_GRACE holds the grace timer in ticks (02 section 2.8). -/
inductive Link where
  | reachable
  | lostGrace (left : Nat)
  | gone
deriving DecidableEq, Repr

/-- The ten indicator states in their fixed order (02 section 2.6). -/
inductive Indicator where
  | refused
  | muted
  | overrun
  | lastPeriod
  | speaking
  | deskLive
  | deskHeld
  | next
  | waiting
  | off
deriving DecidableEq, Repr

inductive RelaySrc where
  | floor
  | output (booth : BoothId) (out : Out)
deriving DecidableEq, Repr

/-- Desk state (LIVE or OFF), selected output and relay source of a desk seat (02 section 2.1). -/
structure DeskFields where
  live : Bool
  selected : Out
  relay : RelaySrc
deriving DecidableEq, Repr

/-- The causes with which a turn ends (04 section 4.4). -/
inductive TurnCause where
  | released
  | revoked
  | timeUp
  | overridden
  | nextClosed
  | priorityClose
  | linkLost
  | badgeRemoved
  | mergeExcess
  | splitDark
  | floorClosed
  | bankForced
  | noBadge
  | chainReset
  | seatRetired
deriving DecidableEq, Repr

/-- The causes with which a queue entry is removed (04 R62). -/
inductive RemovalCause where
  | cancelled
  | removed
  | cleared
  | queueTrimmed
  | mergeOverflow
  | noBadge
  | badgeRemoved
  | linkLost
  | splitDark
  | chainReset
  | seatRetired
deriving DecidableEq, Repr

/-- The two causes of a seat's retirement (02 R35). -/
inductive RetireCause where
  | chainReset
  | seatRetired
deriving DecidableEq, Repr

/-- The causes with which a key is refused (02 R25, 04 section 4.6, 07 section 7.4). -/
inductive KeyRefusal where
  | noVoiceSlot
  | floorFull
  | queueFull
  | poolEmpty
  | relayLoop
  | sourceInvalid
  | deskBusy
  | unplaced
  | floorDark
  | noBadge
  | notAccepted
  | chairOnly
  | priorityActive
  | noBooth
  | outputUnused
  | outputHeld
deriving DecidableEq, Repr

structure LastTurn where
  cause : TurnCause
  floor : FloorId
  duration : Nat
  overrun : Nat
deriving DecidableEq, Repr

/-- A seat record (02 section 2.1). `flash` is the refused flash of 05 R99 in ticks. -/
structure Seat where
  port : PortId
  address : Nat
  reach : Reach
  kind : UnitKind
  role : Role
  place : Option SectionId
  link : Link
  badge : Option Badge
  slot : ListenSlot
  tuned : Option ChannelId
  indicator : Indicator
  desk : Option DeskFields
  lastTurn : Option LastTurn
  lastRefusal : Option KeyRefusal
  flash : Option Nat
deriving DecidableEq, Repr

/-- A position of the Seat Table: free, reserved for an enrolment, or holding a record (02 R20). -/
inductive SeatPos where
  | free
  | reserved
  | held (seat : Seat)
deriving DecidableEq, Repr

/-! ## Floor Table, Speech Arbiter and Turn Timer Bank (chapters 3, 4 and 5) -/

inductive Mode where
  | opened
  | request
  | override
  | chairOnly
deriving DecidableEq, Repr

inductive PriorityAction where
  | muteWhileHeld
  | closeAll
  | closeAndClear
deriving DecidableEq, Repr

inductive TurnMode where
  | cut
  | warn
deriving DecidableEq, Repr

/-- A setup bank (03 section 3.5). A listen entry `none` is EMPTY. -/
structure Bank where
  mode : Mode
  limit : Nat
  cap : Nat
  autoAdvance : Bool
  badgeRequired : Bool
  action : PriorityAction
  turnLimit : Nat
  turnMode : TurnMode
  lead : Nat
  listen : Tbl (Option Lang) 16
deriving DecidableEq, Repr

inductive BankId where
  | a
  | b
deriving DecidableEq, Repr

inductive FloorState where
  | closed
  | live
  | folded (carrier : FloorId)
deriving DecidableEq, Repr

/-- The fields of a floor record that are absent when it is CLOSED (03 section 3.1). -/
structure Session where
  anchor : SectionId
  precedence : Nat
  original : ChannelId
  bankA : Bank
  bankB : Bank
  current : BankId
deriving DecidableEq, Repr

/-- Where an adopted language stands: in a listen slot, SHORT, or served by the host's own entry (06 R109, 03 R59). -/
inductive AdoptedAt where
  | slot (k : ListenSlot)
  | short
  | served
deriving DecidableEq, Repr

structure Adopted where
  lang : Lang
  floor : FloorId
  place : AdoptedAt
deriving DecidableEq, Repr

inductive Phase where
  | normal
  | lastPeriod
  | overrun
deriving DecidableEq, Repr

/-- A turn timer (05 section 5.2); `running` is the run state RUNNING. -/
structure Timer where
  loaded : Nat
  remaining : Nat
  ticks : Nat
  mode : TurnMode
  lead : Nat
  phase : Phase
  overrun : Nat
  running : Bool
deriving DecidableEq, Repr

inductive SpeakerKind where
  | delegate
  | chair
deriving DecidableEq, Repr

/-- A speaker entry (04 section 4.1). -/
structure Speaker where
  seat : SeatId
  kind : SpeakerKind
  slot : SlotId
  start : Clock
  priorityMute : Bool
  linkMute : Bool
  timer : Option Timer
deriving DecidableEq, Repr

inductive Origin where
  | press
  | hostInsert
  | returned
deriving DecidableEq, Repr

/-- A queue entry (04 section 4.2). -/
structure Waiting where
  seat : SeatId
  arrival : Clock
  origin : Origin
  remaining : Option Nat
  unreachable : Bool
deriving DecidableEq, Repr

/-- A floor record (03 section 3.1) with the lists the Speech Arbiter keeps for it (04). -/
structure Floor where
  state : FloorState
  sess : Option Session
  members : SecSet
  home : SecSet
  swapPending : Bool
  holders : List SeatId
  requestHolds : Bool
  adopted : Option (List Adopted)
  speakers : List Speaker
  queue : List Waiting
  lastRemoval : Option (SeatId × RemovalCause)
deriving DecidableEq, Repr

/-- A HELD voice slot; a FREE one is `none` (04 section 4.3). -/
structure HeldSlot where
  seat : SeatId
  floor : FloorId
  gateOpen : Bool
deriving DecidableEq, Repr

/-! ## Channel Allocator and Route Output (chapter 6) -/

inductive ChanOrigin where
  | original
  | output (booth : BoothId) (out : Out)
deriving DecidableEq, Repr

inductive ChanHold where
  | owned
  | lent (carrier : FloorId)
  | reserved
deriving DecidableEq, Repr

/-- The fields of a channel that is not FREE (06 section 6.1). -/
structure ChanUse where
  hold : ChanHold
  owner : FloorId
  lang : Option Lang
  origin : ChanOrigin
deriving DecidableEq, Repr

inductive Content where
  | silence
  | floorMix (floor : FloorId)
  | desk (seat : SeatId)
deriving DecidableEq, Repr

/-- A channel record: FREE when `use` is absent. -/
structure Channel where
  use : Option ChanUse
  content : Content
deriving DecidableEq, Repr

/-- A route update: its target with the value it carries (06 section 6.8). -/
inductive RouteUpdate where
  | slot (n : SlotId) (value : Option HeldSlot)
  | channel (n : ChannelId) (value : Content)
deriving DecidableEq, Repr

/-! ## Interpretation Unit (chapter 7) -/

inductive BoothPolicy where
  | lockout
  | handover
deriving DecidableEq, Repr

/-- The causes recorded as last release (07 section 7.2). -/
inductive ReleaseCause where
  | deskOff
  | takenOver
  | moved
  | linkLost
  | deskRemoved
  | outputCleared
  | boothReleased
  | outputHeld
  | chainReset
  | seatRetired
deriving DecidableEq, Repr

/-- The states of an output that has a language; SILENT holds the fallback delay in ticks. -/
inductive OutState where
  | silent (left : Nat)
  | live (desk : SeatId) (gateOpen : Bool)
  | fallback
  | held
deriving DecidableEq, Repr

structure OutUse where
  lang : Lang
  chan : ChannelId
  state : OutState
deriving DecidableEq, Repr

/-- An output: UNUSED when `use` is absent. -/
structure Output where
  use : Option OutUse
  lastRelease : Option (SeatId × ReleaseCause)
deriving DecidableEq, Repr

/-- A booth (07 section 7.1): UNASSIGNED when `floor` is absent. `delay` is in seconds. -/
structure Booth where
  floor : Option FloorId
  policy : BoothPolicy
  delay : Nat
  desks : List SeatId
  outA : Output
  outB : Output
deriving DecidableEq, Repr

/-! ## Chain Controller (chapter 9) -/

inductive PortState where
  | idle
  | enrolling
  | running
  | resetting
deriving DecidableEq, Repr

/-- A poll entry (09 table of state). -/
structure PollEntry where
  address : Nat
  seat : SeatId
  missPrimary : Nat
  missSecondary : Nat
  reported : Bool
  lastBit : Bool
deriving DecidableEq, Repr

inductive EnrolKind where
  | full
  | extend
deriving DecidableEq, Repr

inductive EnrolResult where
  | done
  | full
  | seatTableFull
  | aborted
  | ringOpen
deriving DecidableEq, Repr

/-- The last enrolment record of a port (09 R169). -/
structure EnrolRecord where
  kind : EnrolKind
  result : EnrolResult
  made : Nat
  first : Option Nat
  last : Option Nat
  clock : Clock
deriving DecidableEq, Repr

/-- How far an enrolment has come (09 R167, R168): waiting to send RELEASE_ALL, retiring seats, in the loop test of an
EXTEND, at an assignment step, in the 2 ms window or probing with a reservation, or polling after an address. -/
inductive EnrolStage where
  | releasing
  | retiring
  | looping
  | assigning
  | window (seat : SeatId)
  | probing (seat : SeatId)
  | polling (after : Nat)
deriving DecidableEq, Repr

structure Enrolment where
  kind : EnrolKind
  nextAddr : Nat
  made : Nat
  first : Option Nat
  last : Option Nat
  stage : EnrolStage
  aborting : Bool
deriving DecidableEq, Repr

/-- An open exchange: a POLL whose reply window has not closed. -/
structure Exchange where
  address : Nat
  via : Reach
  forTest : Bool
deriving DecidableEq, Repr

/-- A port record. On a paired ring the record of the primary port stands for both ends. -/
structure PortRec where
  state : PortState
  lastEnrol : Option EnrolRecord
  entries : List PollEntry
  enrol : Option Enrolment
  wait : Option Exchange
  cursor : Nat
  retry : Option Nat
  releasePending : Bool
deriving DecidableEq, Repr

inductive RingState where
  | linear
  | untested
  | closed
  | opened
deriving DecidableEq, Repr

/-- One seat's row of a ring test: whether it answered from each end, absent while not polled. -/
structure RingTestRow where
  address : Nat
  seat : SeatId
  viaPrimary : Option Bool
  viaSecondary : Option Bool
deriving DecidableEq, Repr

/-- The last ring test record (09 R166). -/
structure RingTestRecord where
  loopPassed : Option Bool
  clock : Clock
  rows : List RingTestRow
  abandoned : Bool
deriving DecidableEq, Repr

/-- A ring test in progress: the loop result once known, and the rows polled so far. -/
structure RingRun where
  loopPassed : Option Bool
  rows : List RingTestRow
deriving DecidableEq, Repr

structure RingRec where
  state : RingState
  testNo : Byte
  inFlight : Bool
  periodic : Option Nat
  lastLoop : Option (Bool × Clock)
  lastTest : Option RingTestRecord
  run : Option RingRun
deriving DecidableEq, Repr

/-- What the Chain Controller holds. `sent` is the model's own: the bytes of the last down frame of each port. -/
structure Chain where
  ports : Tbl PortRec 4
  rings : Tbl RingRec 2
  sent : Tbl (List Byte) 4
deriving DecidableEq, Repr

/-! ## Attention (chapter 10) -/

/-- The attention items (10 section 10.3). -/
inductive AttnItem where
  | queueChanged (floor : FloorId)
  | speakersChanged (floor : FloorId)
  | swapDone (floor : FloorId)
  | foldChanged (floor : FloorId)
  | adoptShort (floor : FloorId)
  | mergePending (wall : WallId)
  | layoutExpired
  | enrollDone (port : PortId)
  | ringChanged (ring : RingId)
  | unitLost (port : PortId)
  | boothFallback (booth : BoothId)
  | rosterChanged
deriving DecidableEq, Repr

/-! ## Answers (chapter 10) -/

/-- The statuses, coded 0 to 24 in this order (11 R185). -/
inductive Status where
  | ok
  | accepted
  | badFrame
  | unknownRequest
  | badLength
  | badArgument
  | notFound
  | wrongState
  | busy
  | layoutLocked
  | layoutBusy
  | badKey
  | sectionInUse
  | wrongSource
  | noChannel
  | noVoiceSlot
  | floorFull
  | queueFull
  | poolEmpty
  | swapPending
  | languageTaken
  | relayLoop
  | sourceInvalid
  | seatBusy
  | deskBusy
deriving DecidableEq, Repr

/-- The parts of a roster entry for a number with a seat record (02 R37). -/
structure RosterFields where
  port : PortId
  address : Nat
  reach : Reach
  kind : UnitKind
  role : Role
  place : Option SectionId
  link : Link
  badgePresent : Bool
  tuned : Option ChannelId
deriving DecidableEq, Repr

/-- One entry of ROSTER_CHANGES; `fields` is absent for a vacant number (02 R37). -/
structure RosterEntry where
  number : SeatId
  fields : Option RosterFields
deriving DecidableEq, Repr

/-- One desk of BOOTH_READ (07 R125). -/
structure DeskReport where
  seat : SeatId
  desk : Option DeskFields
  link : Option Link
deriving DecidableEq, Repr

/-- One output of BOOTH_READ, with the whole seconds of fallback delay remaining for a SILENT output. -/
structure OutputReport where
  output : Output
  delaySecs : Option Nat
deriving DecidableEq, Repr

/-- One poll entry of CHAIN_READ (09 R172). -/
structure EntryReport where
  entry : PollEntry
  reach : Option Reach
  tested : Option (Option Bool × Option Bool)
deriving DecidableEq, Repr

/-- The ring part of CHAIN_READ. -/
structure RingReport where
  state : RingState
  inFlight : Bool
  lastLoop : Option (Bool × Clock)
  lastTest : Option (Option Bool × Clock × Bool)
deriving DecidableEq, Repr

/-- The capacities IDENTIFY carries (10 R182). -/
structure Capacities where
  seats : Nat
  sections : Nat
  walls : Nat
  floors : Nat
  voiceSlots : Nat
  channels : Nat
  booths : Nat
  poolEntries : Nat
  chainPorts : Nat
deriving DecidableEq, Repr

/-- The payload of an answer, by what it carries. SEAT_READ carries the seat record, the whole seconds of grace remaining
for a LOST seat (02 R38) and the code of the last key refusal (11 R185). -/
inductive Payload where
  | empty
  | wall (number : WallId) (wall : Option Wall) (pending : Option WallPos) (settleSecs : Option Nat)
      (lineHigh : Option Bool) (lock : LockState) (active : SecSet)
  | seat (number : SeatId) (record : Seat) (graceSecs : Option Nat) (refusalCode : Option Byte)
  | seatAt (number : SeatId)
  | seatsWithBadge (numbers : List SeatId) (count : Nat)
  | roster (entries : List RosterEntry) (more : Bool)
  | floorOpened (channel : ChannelId) (members : SecSet)
  | floorClosed
  | floor (number : FloorId) (state : FloorState) (anchor : SectionId) (precedence : Nat) (sections : SecSet)
      (folded : List FloorId) (original : ChannelId) (current : BankId) (swapPending : Bool) (holders : List SeatId)
      (requestHolds : Bool) (adopted : Option (List Adopted)) (delegates chairs queueLength : Nat)
  | bank (bank : Bank) (which : BankId) (isCurrent swapPending : Bool) (adopted : List (ListenSlot × FloorId))
  | granted (slot : SlotId)
  | speakers (carrier : Option FloorId) (entries : List Speaker)
  | queue (carrier : Option FloorId) (entries : List Waiting) (more : Bool) (firstReachable : Option Nat)
      (length cap free : Nat) (lastRemoval : Option (SeatId × RemovalCause))
  | outputChannel (channel : ChannelId)
  | booth (floor serving : Option FloorId) (policy : BoothPolicy) (delay : Nat) (desks : List DeskReport)
      (outA outB : OutputReport)
  | channel (number : ChannelId) (record : Channel) (map : Option FloorId) (updatePending inFlight : Bool)
  | channels (rows : List (Option (ChanHold × FloorId × Option Lang))) (free routeQueue : Nat)
  | clock (value : Clock)
  | chain (state : PortState) (ring : Option RingReport) (seats : Nat) (enrolment : Option (EnrolKind × Nat × Nat))
      (lastEnrol : Option EnrolRecord) (entries : List EntryReport)
  | attention (items : List AttnItem)
  | mask (kinds : BitVec 12)
  | identity (partCode : Half) (issue : Byte) (capacities : Capacities) (clock : Clock)
deriving DecidableEq, Repr

/-- An answer frame before its bytes: status, echo of the request code, payload (10 section 10.2). -/
structure Answer where
  status : Status
  echo : Byte
  payload : Payload
deriving DecidableEq, Repr

/-! ## Host Port (chapter 10) -/

inductive PortPhase where
  | idle
  | receiving
  | executing
deriving DecidableEq, Repr

/-- Chip select: released, asserted in a transaction the port follows, or asserted in one it does not take
(10 R175, R183). -/
inductive ChipSelect where
  | released
  | asserted
  | ignored
deriving DecidableEq, Repr

inductive Buffer where
  | empty
  | unread (answer : Answer)
  | read (answer : Answer)
deriving DecidableEq, Repr

/-- How far a hall reset in execution has come (10 R181). -/
inductive HallStage where
  | none
  | closing
  | refreshed
  | refilled
deriving DecidableEq, Repr

/-- What the Host Port holds. Two fields are the model's own: `readOut`, the bytes shifted out in the last transaction that had
a byte, and `discards`, which counts the discarded writes whose bytes are not given (log entries 30 and 37). -/
structure HostPort where
  phase : PortPhase
  cs : ChipSelect
  buffer : Buffer
  ready : Bool
  attn : Bool
  mask : BitVec 12
  hall : HallStage
  readOut : List Byte
  discards : Nat
deriving DecidableEq, Repr

/-! ## The whole -/

/-- What the floor blocks share: seats, floors, slots, channels, booths, routes and the attention set. `link` is the
model's own: the bytes of the last frame begun on the Route Output link. -/
structure Hall where
  seats : Tbl SeatPos 256
  maskDelegate : BitVec 2
  maskChair : BitVec 4
  maskDesk : BitVec 5
  marks : Tbl Bool 256
  cursor : Nat
  floors : Tbl Floor 6
  slots : Tbl (Option HeldSlot) 16
  channels : Tbl Channel 32
  booths : Tbl Booth 12
  routeQueue : List RouteUpdate
  inFlight : Option RouteUpdate
  hold : Bool
  link : List Byte
  attention : Tbl Bool 70
deriving DecidableEq, Repr

/-- Everything but the Host Port and the command queue. -/
structure World where
  clock : Clock
  layout : Layout
  hall : Hall
  chain : Chain
deriving DecidableEq, Repr

end Sys2Proof
end

