-- ==== Sys2Proof/Config.lean ====
section
/-! DEFINITION. What the spec leaves open and nothing in Lean may evaluate: the hardware issue of the part, the order of the
fields of a payload with the fields whose coding no rule states, the length of a discarded write, and the bytes of a POLL for
which the spec gives no value. -/

namespace Sys2Proof.Config

/-- The hardware issue carried by IDENTIFY (10 R182 gives no value; log entry 10). -/
opaque hardwareIssue : Byte

/-- The order in which the stated fields of a payload of several fields stand; 11 R185 fixes none (log entry 9). -/
opaque fieldOrder (p : Payload) (n : Nat) : Equiv.Perm (Fin n)

/-- The bytes before the `k`-th of those fields, or after the last: the fields of the payload to which the rules give no
coding (log entry 9). -/
opaque openFields : Payload → Nat → List Byte

/-- How many bytes follow the first of a discarded write: WRITE_DISCARDED carries none of them (10 R175; log entry 37). Its
argument counts such writes. -/
opaque discardedBytes : Nat → Nat

/-- The output state byte of the desk display of a desk in no booth (09 R160 gives none; log entry 20). -/
opaque noOutputState : Byte

/-- The indicator byte of the probing POLL to an address that has no seat yet (09 R168 gives none; log entry 19). -/
opaque probeIndicator : Byte

/-- The tuned channel byte of the probing POLL (09 R168 gives none; log entry 19). -/
opaque probeTuned : Byte

end Sys2Proof.Config
end

