-- ==== Sys2Proof/WellFormed.lean ====
section
/-! DEFINITION. Which commands the part can be sent: the length of a BANK_WRITE (11 R185), the number of key events in a
REPLY (09 section 9.3, 11 R186), and the language of BOOTH_OUTPUT, whose code NONE makes it BOOTH_OUTPUT_CLEAR (07 R121,
R122). Every other operand fits its bytes by its type. -/

namespace Sys2Proof

/-- A BANK_WRITE carries 1 to 15 items: 4 to 46 argument bytes (11 R185). -/
def bankItemsFit (items : List BankItem) : Bool :=
  1 ≤ items.length && items.length ≤ 15

/-- A REPLY carries at most four key events (09 section 9.3). -/
def replyFits (r : Reply) : Bool :=
  r.events.length ≤ 4

/-- The language code NONE clears an output and is the other row (07 R121). -/
def languageNamed (language : Byte) : Bool :=
  language != 0xFF#8

/-- The checks on a command as syntax. -/
def Instr.wellFormed : Instr → Bool
  | .bankWrite _ items => bankItemsFit items
  | .reply _ r => replyFits r
  | .boothOutput _ _ language _ => languageNamed language
  | _ => true

end Sys2Proof
end

