-- ==== Sys2Proof/Decode.lean ====
section
/-! DEFINITION. Words and frames. The rows of spec/opcode_table.json give no bits, so no word spells a command
(`decodeTableWord`). What the spec does give is the frames: the check byte (11 R184), host request frames with their codes,
lengths and arguments (11 R185) and the frames that come up a chain (11 R186). -/

namespace Sys2Proof

/-- No row of the table gives bits, so no word is a command. -/
def decodeTableWord (_nbits _w : Nat) : Option Instr :=
  none

/-! ## The check byte (11 R184) -/

/-- One shift of the register: 0x9B is combined in when the bit shifted out was 1. -/
def crcShift (r : Byte) : Byte :=
  if r.msb then (r <<< 1) ^^^ 0x9B#8 else r <<< 1

/-- One byte taken into the register. -/
def crcByte (r b : Byte) : Byte :=
  crcShift (crcShift (crcShift (crcShift (crcShift (crcShift (crcShift (crcShift (r ^^^ b))))))))

/-- The check byte over the bytes before it, from the seed 0xB4. -/
def checkByte (bytes : List Byte) : Byte :=
  bytes.foldl crcByte 0xB4#8

/-- The frame with its check byte. -/
def sealed (bytes : List Byte) : List Byte :=
  bytes ++ [checkByte bytes]

/-- The bytes before a good check byte. -/
def unsealed (bytes : List Byte) : Option (List Byte) :=
  match bytes.getLast? with
  | some c => if checkByte bytes.dropLast = c then some bytes.dropLast else none
  | none => none

/-- Two bytes as a field, most significant first (11 introduction). -/
def half (hi lo : Byte) : Half :=
  hi ++ lo

/-- Four bytes as a field. -/
def word (a b c d : Byte) : BitVec 32 :=
  (a ++ b) ++ (c ++ d)

def hiByte (h : Half) : Byte :=
  h.extractLsb' 8 8

def loByte (h : Half) : Byte :=
  h.extractLsb' 0 8

/-- The two bytes of a field, most significant first. -/
def halfBytes (h : Half) : List Byte :=
  [hiByte h, loByte h]

/-- The four bytes of a field, most significant first. -/
def wordBytes (w : BitVec 32) : List Byte :=
  [w.extractLsb' 24 8, w.extractLsb' 16 8, w.extractLsb' 8 8, w.extractLsb' 0 8]

/-- The idle filler (11 R185). -/
def filler : Byte := 0xFF#8

/-! ## Host request frames (11 R185) -/

/-- What a request code with its arguments is: no code of the part, a length the code does not admit, an enumerated
argument beyond its last value where the value chooses the row, or a request. -/
inductive Parsed where
  | unknown
  | badLength
  | undefinedKind
  | request (i : Instr)
deriving DecidableEq, Repr

def args0 (i : Instr) : List Byte → Parsed
  | [] => .request i
  | _ => .badLength

def args1 (f : Byte → Instr) : List Byte → Parsed
  | [a] => .request (f a)
  | _ => .badLength

def args2 (f : Byte → Byte → Instr) : List Byte → Parsed
  | [a, b] => .request (f a b)
  | _ => .badLength

def args3 (f : Byte → Byte → Byte → Instr) : List Byte → Parsed
  | [a, b, c] => .request (f a b c)
  | _ => .badLength

/-- One two-byte argument. -/
def argsHalf (f : Half → Instr) : List Byte → Parsed
  | [a, b] => .request (f (half a b))
  | _ => .badLength

/-- A two-byte argument and a byte. -/
def argsHalfByte (f : Half → Byte → Instr) : List Byte → Parsed
  | [a, b, c] => .request (f (half a b) c)
  | _ => .badLength

/-- A byte and a two-byte argument. -/
def argsByteHalf (f : Byte → Half → Instr) : List Byte → Parsed
  | [a, b, c] => .request (f a (half b c))
  | _ => .badLength

/-- A byte, a two-byte argument and a byte. -/
def argsByteHalfByte (f : Byte → Half → Byte → Instr) : List Byte → Parsed
  | [a, b, c, d] => .request (f a (half b c) d)
  | _ => .badLength

/-- A byte and an enumerated argument that chooses between two rows: code 0 and code 1. -/
def argsKind (zero one : Byte → Instr) : List Byte → Parsed
  | [a, k] => if k = 0#8 then .request (zero a) else if k = 1#8 then .request (one a) else .undefinedKind
  | _ => .badLength

def argsWall : List Byte → Parsed
  | [w, a, b, src, line, pol, settle, policy] => .request (.wallDefine w a b src line pol settle policy)
  | _ => .badLength

def argsFind : List Byte → Parsed
  | [p, a] => .request (.seatFind (.place p a))
  | [a, b, c, d] => .request (.seatFind (.card (word a b c d)))
  | _ => .badLength

/-- BOOTH_OUTPUT: language 0xFF is NONE, and the channel byte is then disregarded. -/
def argsOutput : List Byte → Parsed
  | [b, o, l, c] => if l = 0xFF#8 then .request (.boothOutputClear b o) else .request (.boothOutput b o l c)
  | _ => .badLength

/-- BANK_WRITE items of three bytes each. -/
def bankItems : List Byte → Option (List BankItem)
  | [] => some []
  | f :: a :: b :: rest => (bankItems rest).map fun items => ⟨f, half a b⟩ :: items
  | _ => none

/-- BANK_WRITE: one byte and 1 to 15 items. -/
def argsBank : List Byte → Parsed
  | [] => .badLength
  | f :: rest =>
    match bankItems rest with
    | some items => if bankItemsFit items then .request (.bankWrite f items) else .badLength
    | none => .badLength

/-- The request codes with the arguments each admits (11 R185, the table of request codes). -/
def requestTable : List (Byte × (List Byte → Parsed)) :=
  [(0x10#8, argsHalf .layoutOpen), (0x11#8, argsHalf .layoutConfirm), (0x12#8, args0 .layoutClose),
   (0x13#8, args2 .sectionSet), (0x14#8, argsWall), (0x15#8, args1 .wallRemove), (0x16#8, args2 .wallSet),
   (0x17#8, args1 .wallRead), (0x18#8, args1 .mergeConfirm), (0x19#8, args1 .mergeRefuse),
   (0x20#8, argsHalfByte .seatPlace), (0x21#8, argsHalf .seatRead), (0x22#8, argsFind),
   (0x23#8, argsHalfByte .seatRole), (0x24#8, argsHalf .seatRetire), (0x25#8, args2 .maskSet),
   (0x26#8, args0 .rosterChanges)] ++
  [(0x30#8, args3 .floorOpen), (0x31#8, args1 .floorClose), (0x32#8, args2 .floorSet), (0x33#8, args1 .floorRead),
   (0x34#8, argsBank), (0x35#8, args2 .bankRead), (0x36#8, argsKind .bankSwapNormal .bankSwapForce),
   (0x37#8, args1 .bankCancel)] ++
  [(0x40#8, argsByteHalfByte .grant), (0x41#8, argsHalf .closeMic), (0x42#8, argsByteHalfByte .queueInsert),
   (0x43#8, argsHalf .queueRemove), (0x44#8, args1 .queueClear),
   (0x45#8, argsKind .floorPriorityOff .floorPriorityOn), (0x46#8, args1 .speakersRead), (0x47#8, args2 .queueRead)] ++
  [(0x50#8, args2 .boothAssign), (0x51#8, argsOutput), (0x52#8, argsByteHalf .boothAddDesk),
   (0x53#8, argsByteHalf .boothRemoveDesk), (0x54#8, args3 .boothSet), (0x55#8, args1 .boothRelease),
   (0x56#8, args1 .boothRead), (0x57#8, args1 .channelRead)] ++
  [(0x60#8, args2 .chainConfig), (0x61#8, argsKind .enrollFull .enrollExtend), (0x62#8, args1 .enrollAbort),
   (0x63#8, args1 .chainReset), (0x64#8, args2 .chainRead), (0x65#8, args1 .ringTest)] ++
  [(0x70#8, args0 .readAttention), (0x71#8, argsHalf .attentionMask), (0x72#8, argsHalf .hallReset),
   (0x73#8, args0 .clockRead), (0x74#8, args0 .identify)]

/-- A request code with its arguments. -/
def parseRequest (code : Byte) (args : List Byte) : Parsed :=
  match requestTable.lookup code with
  | some f => f args
  | none => .unknown

/-- What the bytes of a write are (10 R176): a frame refused by check 1, 2 or 3, a frame whose kind argument has no defined
value, or a request handed to its owner. -/
inductive FrameVerdict where
  | badFrame
  | unknownRequest
  | badLength
  | undefinedKind
  | request (i : Instr)
deriving DecidableEq, Repr

/-- The checks of 10 R176 in their order. -/
def judgeFrame (bytes : List Byte) : FrameVerdict :=
  if bytes.length < 3 then .badFrame
  else match unsealed bytes with
    | some (code :: len :: args) =>
      if len.toNat ≤ 48 && args.length == len.toNat then
        match parseRequest code args with
        | .unknown => .unknownRequest
        | .badLength => .badLength
        | .undefinedKind => .undefinedKind
        | .request i => .request i
      else .badFrame
    | _ => .badFrame

/-- The code and argument bytes of a request, written from the same table; absent for a command that is no request. -/
def requestArgs : Instr → Option (Byte × List Byte)
  | .layoutOpen k => some (0x10#8, halfBytes k)
  | .layoutConfirm k => some (0x11#8, halfBytes k)
  | .layoutClose => some (0x12#8, [])
  | .sectionSet s a => some (0x13#8, [s, a])
  | .wallDefine w a b src line pol settle policy => some (0x14#8, [w, a, b, src, line, pol, settle, policy])
  | .wallRemove w => some (0x15#8, [w])
  | .wallSet w p => some (0x16#8, [w, p])
  | .wallRead w => some (0x17#8, [w])
  | .mergeConfirm w => some (0x18#8, [w])
  | .mergeRefuse w => some (0x19#8, [w])
  | .seatPlace n s => some (0x20#8, halfBytes n ++ [s])
  | .seatRead n => some (0x21#8, halfBytes n)
  | .seatFind (.place p a) => some (0x22#8, [p, a])
  | .seatFind (.card c) => some (0x22#8, wordBytes c)
  | .seatRole n r => some (0x23#8, halfBytes n ++ [r])
  | .seatRetire n => some (0x24#8, halfBytes n)
  | .maskSet r k => some (0x25#8, [r, k])
  | .rosterChanges => some (0x26#8, [])
  | .floorOpen f a p => some (0x30#8, [f, a, p])
  | .floorClose f => some (0x31#8, [f])
  | .floorSet f p => some (0x32#8, [f, p])
  | .floorRead f => some (0x33#8, [f])
  | .bankWrite f items => some (0x34#8, f :: items.flatMap fun it => it.field :: halfBytes it.value)
  | .bankRead f b => some (0x35#8, [f, b])
  | .bankSwapNormal f => some (0x36#8, [f, 0#8])
  | .bankSwapForce f => some (0x36#8, [f, 1#8])
  | .bankCancel f => some (0x37#8, [f])
  | .grant f n d => some (0x40#8, f :: halfBytes n ++ [d])
  | .closeMic n => some (0x41#8, halfBytes n)
  | .queueInsert f n p => some (0x42#8, f :: halfBytes n ++ [p])
  | .queueRemove n => some (0x43#8, halfBytes n)
  | .queueClear f => some (0x44#8, [f])
  | .floorPriorityOn f => some (0x45#8, [f, 1#8])
  | .floorPriorityOff f => some (0x45#8, [f, 0#8])
  | .speakersRead f => some (0x46#8, [f])
  | .queueRead f p => some (0x47#8, [f, p])
  | .boothAssign b f => some (0x50#8, [b, f])
  | .boothOutput b o l c => some (0x51#8, [b, o, l, c])
  | .boothOutputClear b o => some (0x51#8, [b, o, 0xFF#8, 0#8])
  | .boothAddDesk b n => some (0x52#8, b :: halfBytes n)
  | .boothRemoveDesk b n => some (0x53#8, b :: halfBytes n)
  | .boothSet b p d => some (0x54#8, [b, p, d])
  | .boothRelease b => some (0x55#8, [b])
  | .boothRead b => some (0x56#8, [b])
  | .channelRead c => some (0x57#8, [c])
  | .chainConfig r v => some (0x60#8, [r, v])
  | .enrollFull t => some (0x61#8, [t, 0#8])
  | .enrollExtend t => some (0x61#8, [t, 1#8])
  | .enrollAbort t => some (0x62#8, [t])
  | .chainReset t => some (0x63#8, [t])
  | .chainRead t a => some (0x64#8, [t, a])
  | .ringTest t => some (0x65#8, [t])
  | .readAttention => some (0x70#8, [])
  | .attentionMask k => some (0x71#8, halfBytes k)
  | .hallReset c => some (0x72#8, halfBytes c)
  | .clockRead => some (0x73#8, [])
  | .identify => some (0x74#8, [])
  | _ => none

/-- The request frame of a code and its arguments. -/
def requestFrame (code : Byte) (args : List Byte) : List Byte :=
  sealed (code :: BitVec.ofNat 8 args.length :: args)

/-! ## Frames up a chain (11 R186) -/

inductive UpFrame where
  | reply (r : Reply)
  | assignAck (address : Byte) (kind : UnitKind)
  | loop (number : Byte)
deriving DecidableEq, Repr

def unitKindOf (b : Byte) : Option UnitKind :=
  match b.toNat with
  | 0 => some .delegateUnit
  | 1 => some .chairUnit
  | 2 => some .deskUnit
  | _ => none

/-- A key event from its kind byte and argument byte. -/
def keyEventOf (kind arg : Byte) : Option KeyEvent :=
  match kind.toNat with
  | 1 => some .mic
  | 2 => some .cancel
  | 3 => some .priorityDown
  | 4 => some .priorityUp
  | 5 => some .next
  | 6 => some .deskOn
  | 7 => some .deskOff
  | 8 => some .outA
  | 9 => some .outB
  | 10 => some (.relay arg)
  | _ => none

/-- `n` key events of two bytes each, and the bytes after them. -/
def keyEvents : Nat → List Byte → Option (List KeyEvent × List Byte)
  | 0, rest => some ([], rest)
  | n + 1, k :: a :: rest =>
    match keyEventOf k a, keyEvents n rest with
    | some e, some (es, tail) => some (e :: es, tail)
    | _, _ => none
  | _ + 1, _ => none

/-- The badge part of a REPLY: four bytes when flagged, none otherwise. -/
def badgePart (flagged : Bool) (bytes : List Byte) : Option (Option Badge) :=
  match flagged, bytes with
  | true, [a, b, c, d] => some (some (word a b c d))
  | false, [] => some none
  | _, _ => none

/-- The body of a REPLY after its type byte; absent when malformed (11 R186). -/
def replyBody : List Byte → Option Reply
  | address :: flags :: kind :: slot :: count :: rest =>
    if h : slot.toNat < 16 then
      if count.toNat ≤ 4 then
        match unitKindOf kind, keyEvents count.toNat rest with
        | some k, some (events, tail) =>
          (badgePart (flags.getLsbD 1) tail).map fun badge =>
            { address := address, seqBit := flags.getLsbD 0, kind := k, slot := ⟨slot.toNat, h⟩, events := events,
              badge := badge }
        | _, _ => none
      else none
    else none
  | _ => none

/-- A frame arriving at a port: absent when its check byte is bad or it is malformed, which count alike (11 R186). -/
def decodeUp (bytes : List Byte) : Option UpFrame :=
  match unsealed bytes with
  | some (type :: body) =>
    match type.toNat, body with
    | 0x81, _ => (replyBody body).map .reply
    | 0x82, [address, kind] => (unitKindOf kind).map (.assignAck address)
    | 0x04, [number] => some (.loop number)
    | _, _ => none
  | _ => none

end Sys2Proof
end

