-- ==== Sys2Proof/Machine/Wire.lean ====
section
/-! DEFINITION. The frames the part sends on the chains and on the Route Output link, laid out byte by byte (11 R186), each
with its check byte (11 R184). -/

namespace Sys2Proof

/-! ## Codes -/

def tunedByte : Option ChannelId → Byte
  | some c => BitVec.ofNat 8 c.val
  | none => 0xFF#8

def langByte : Option Lang → Byte
  | some l => BitVec.ofNat 8 l.val
  | none => 0xFF#8

/-- The indicator codes 0 to 9 in the order of the indicator table. -/
def indicatorByte : Indicator → Byte
  | .refused => 0#8
  | .muted => 1#8
  | .overrun => 2#8
  | .lastPeriod => 3#8
  | .speaking => 4#8
  | .deskLive => 5#8
  | .deskHeld => 6#8
  | .next => 7#8
  | .waiting => 8#8
  | .off => 9#8

def outBit : Out → Bool
  | .a => false
  | .b => true

/-- The output states coded from 0 in the order UNUSED, SILENT, LIVE, FALLBACK, HELD (07 section 7.2). -/
def outputStateByte : Option OutUse → Byte
  | none => 0#8
  | some u =>
    match u.state with
    | .silent _ => 1#8
    | .live _ _ => 2#8
    | .fallback => 3#8
    | .held => 4#8

/-- 0 for FLOOR, otherwise booth number × 16 + output. -/
def relayByte : RelaySrc → Byte
  | .floor => 0#8
  | .output b o => BitVec.ofNat 8 ((b.val + 1) * 16 + (outBit o).toNat)

def seatHalf (n : SeatId) : Half :=
  BitVec.ofNat 16 (n.val + 1)

def floorByte (f : FloorId) : Byte :=
  BitVec.ofNat 8 (f.val + 1)

/-! ## Down frames -/

/-- The desk display of a POLL to a DESK seat (09 R160). -/
structure DeskDisplay where
  live : Bool
  selected : Out
  lang : Option Lang
  state : Byte
  relay : RelaySrc
  relayLang : Option Lang
deriving DecidableEq, Repr

def deskDisplayBytes (d : DeskDisplay) : List Byte :=
  [BitVec.ofNat 8 (d.live.toNat + 2 * (outBit d.selected).toNat), langByte d.lang, d.state, relayByte d.relay,
   langByte d.relayLang]

/-- POLL: address, flags, indicator, tuned channel, and the desk display when present. -/
def pollFrame (address : Nat) (ack : Bool) (indicator tuned : Byte) (display : Option DeskDisplay) : List Byte :=
  sealed ([0x01#8, BitVec.ofNat 8 address, BitVec.ofNat 8 (ack.toNat + 2 * display.isSome.toNat), indicator, tuned] ++
    match display with
    | some d => deskDisplayBytes d
    | none => [])

def assignFrame (address : Nat) : List Byte :=
  sealed [0x02#8, BitVec.ofNat 8 address]

def releaseAllFrame : List Byte :=
  sealed [0x03#8]

def loopFrame (number : Byte) : List Byte :=
  sealed [0x04#8, number]

/-! ## Route frames -/

def contentBytes : Content → List Byte
  | .silence => [0#8, 0#8, 0#8]
  | .floorMix f => [1#8, 0#8, floorByte f]
  | .desk n => 2#8 :: halfBytes (seatHalf n)

/-- A route frame: a FREE slot sends seat, floor and gate as 0; gate OPEN is 0 and GATED is 1. -/
def routeFrame : RouteUpdate → List Byte
  | .slot n none => sealed [0xC1#8, BitVec.ofNat 8 (n.val + 1), 0#8, 0#8, 0#8, 0#8, 0#8]
  | .slot n (some v) =>
    sealed ([0xC1#8, BitVec.ofNat 8 (n.val + 1), 1#8] ++ halfBytes (seatHalf v.seat) ++
      [floorByte v.floor, BitVec.ofNat 8 (!v.gateOpen).toNat])
  | .channel n v => sealed ([0xC2#8, BitVec.ofNat 8 n.val] ++ contentBytes v)

end Sys2Proof
end

