-- ==== Sys2Proof/Machine/Payloads.lean ====
section
/-! DEFINITION. Answer frames (11 R185): the codes of payload fields, the fields of each payload whose bytes the rules state,
how they are laid out, and the frame with its check byte. -/

namespace Sys2Proof

/-! ## Codes -/

/-- The status codes 0 to 24. -/
def statusByte : Status → Byte
  | .ok => 0#8
  | .accepted => 1#8
  | .badFrame => 2#8
  | .unknownRequest => 3#8
  | .badLength => 4#8
  | .badArgument => 5#8
  | .notFound => 6#8
  | .wrongState => 7#8
  | .busy => 8#8
  | .layoutLocked => 9#8
  | .layoutBusy => 10#8
  | .badKey => 11#8
  | .sectionInUse => 12#8
  | .wrongSource => 13#8
  | .noChannel => 14#8
  | .noVoiceSlot => 15#8
  | .floorFull => 16#8
  | .queueFull => 17#8
  | .poolEmpty => 18#8
  | .swapPending => 19#8
  | .languageTaken => 20#8
  | .relayLoop => 21#8
  | .sourceInvalid => 22#8
  | .seatBusy => 23#8
  | .deskBusy => 24#8

/-- The code of a key refusal cause in SEAT_READ (11 R185): 32 to 40 for the causes that stand in seat records only, the
status code of the same name for the others. -/
def keyRefusalByte : KeyRefusal → Byte
  | .noVoiceSlot => statusByte .noVoiceSlot
  | .floorFull => statusByte .floorFull
  | .queueFull => statusByte .queueFull
  | .poolEmpty => statusByte .poolEmpty
  | .relayLoop => statusByte .relayLoop
  | .sourceInvalid => statusByte .sourceInvalid
  | .deskBusy => statusByte .deskBusy
  | .unplaced => 32#8
  | .floorDark => 33#8
  | .noBadge => 34#8
  | .notAccepted => 35#8
  | .chairOnly => 36#8
  | .priorityActive => 37#8
  | .noBooth => 38#8
  | .outputUnused => 39#8
  | .outputHeld => 40#8

/-- The two bytes of an attention item: the kind 1 to 12 and the subject (11 R185). -/
def attentionBytes : AttnItem → List Byte
  | .queueChanged f => [1#8, floorByte f]
  | .speakersChanged f => [2#8, floorByte f]
  | .swapDone f => [3#8, floorByte f]
  | .foldChanged f => [4#8, floorByte f]
  | .adoptShort f => [5#8, floorByte f]
  | .mergePending w => [6#8, BitVec.ofNat 8 (w.val + 1)]
  | .layoutExpired => [7#8, 0#8]
  | .enrollDone p => [8#8, BitVec.ofNat 8 p.val]
  | .ringChanged r => [9#8, BitVec.ofNat 8 r.val]
  | .unitLost p => [10#8, BitVec.ofNat 8 p.val]
  | .boothFallback b => [11#8, BitVec.ofNat 8 (b.val + 1)]
  | .rosterChanged => [12#8, 0#8]

/-- One byte: a number or a code that fits it. For a number that is no argument of a request the width is the model's choice
(log entry 42). -/
def oneByte (k : Nat) : List Byte :=
  [BitVec.ofNat 8 k]

/-- OFF 0 and ON 1. -/
def onByte (on : Bool) : List Byte :=
  oneByte on.toNat

/-- A field listed as yes or no: yes 0, no 1, the order in which its table lists them (log entry 36). -/
def yesByte (yes : Bool) : List Byte :=
  oneByte (!yes).toNat

/-- A field listed as present or absent: present 0, absent 1, in that order (log entry 36). -/
def presentByte (present : Bool) : List Byte :=
  oneByte (!present).toNat

def seatBytes (n : SeatId) : List Byte :=
  halfBytes (seatHalf n)

/-- A section, wall, booth or voice slot, numbered from 1. -/
def numberByte {n : Nat} (i : Fin n) : List Byte :=
  oneByte (i.val + 1)

/-- A port or channel, numbered from 0. -/
def indexByte {n : Nat} (i : Fin n) : List Byte :=
  oneByte i.val

/-- The fields of a part that may be absent; an absence without a stated code gives none. -/
def ofSome {α : Type} (f : α → List (List Byte)) (x : Option α) : List (List Byte) :=
  x.elim [] f

def posByte : WallPos → List Byte
  | .opened => oneByte 0
  | .closed => oneByte 1

def polarityByte : Polarity → List Byte
  | .openWhenHigh => oneByte 0
  | .openWhenLow => oneByte 1

def mergePolicyByte : MergePolicy → List Byte
  | .auto => oneByte 0
  | .held => oneByte 1

def mergeStateByte : MergeState → List Byte
  | .idle => oneByte 0
  | .pending => oneByte 1
  | .refused => oneByte 2

def lockByte : LockState → List Byte
  | .locked => oneByte 0
  | .armed => oneByte 1
  | .opened => oneByte 2

def reachByte : Reach → List Byte
  | .primary => oneByte 0
  | .secondary => oneByte 1

def unitKindByte : UnitKind → List Byte
  | .delegateUnit => oneByte 0
  | .chairUnit => oneByte 1
  | .deskUnit => oneByte 2

def roleByte : Role → List Byte
  | .delegate => oneByte 0
  | .chair => oneByte 1
  | .desk => oneByte 2

def linkByte : Link → List Byte
  | .reachable => oneByte 0
  | .lostGrace _ => oneByte 1
  | .gone => oneByte 2

def outByte : Out → List Byte
  | .a => oneByte 0
  | .b => oneByte 1

/-- The causes of a turn end in the order of the table of 04 section 4.4. -/
def turnCauseByte : TurnCause → List Byte
  | .released => oneByte 0
  | .revoked => oneByte 1
  | .timeUp => oneByte 2
  | .overridden => oneByte 3
  | .nextClosed => oneByte 4
  | .priorityClose => oneByte 5
  | .linkLost => oneByte 6
  | .badgeRemoved => oneByte 7
  | .mergeExcess => oneByte 8
  | .splitDark => oneByte 9
  | .floorClosed => oneByte 10
  | .bankForced => oneByte 11
  | .noBadge => oneByte 12
  | .chainReset => oneByte 13
  | .seatRetired => oneByte 14

/-- The causes of a queue removal in the order of the table of 04 section 4.2. -/
def removalCauseByte : RemovalCause → List Byte
  | .cancelled => oneByte 0
  | .removed => oneByte 1
  | .cleared => oneByte 2
  | .queueTrimmed => oneByte 3
  | .mergeOverflow => oneByte 4
  | .noBadge => oneByte 5
  | .badgeRemoved => oneByte 6
  | .linkLost => oneByte 7
  | .splitDark => oneByte 8
  | .chainReset => oneByte 9
  | .seatRetired => oneByte 10

/-- The causes of a last release in the order of the table of 07 section 7.2. -/
def releaseCauseByte : ReleaseCause → List Byte
  | .deskOff => oneByte 0
  | .takenOver => oneByte 1
  | .moved => oneByte 2
  | .linkLost => oneByte 3
  | .deskRemoved => oneByte 4
  | .outputCleared => oneByte 5
  | .boothReleased => oneByte 6
  | .outputHeld => oneByte 7
  | .chainReset => oneByte 8
  | .seatRetired => oneByte 9

def floorStateByte : FloorState → List Byte
  | .closed => oneByte 0
  | .live => oneByte 1
  | .folded _ => oneByte 2

def bankIdByte : BankId → List Byte
  | .a => oneByte 0
  | .b => oneByte 1

/-- Swap pending: NONE 0, NORMAL 1. -/
def swapByte (pending : Bool) : List Byte :=
  oneByte pending.toNat

def modeByte : Mode → List Byte
  | .opened => oneByte 0
  | .request => oneByte 1
  | .override => oneByte 2
  | .chairOnly => oneByte 3

def actionByte : PriorityAction → List Byte
  | .muteWhileHeld => oneByte 0
  | .closeAll => oneByte 1
  | .closeAndClear => oneByte 2

def turnModeByte : TurnMode → List Byte
  | .cut => oneByte 0
  | .warn => oneByte 1

def phaseByte : Phase → List Byte
  | .normal => oneByte 0
  | .lastPeriod => oneByte 1
  | .overrun => oneByte 2

def speakerKindByte : SpeakerKind → List Byte
  | .delegate => oneByte 0
  | .chair => oneByte 1

def originByte : Origin → List Byte
  | .press => oneByte 0
  | .hostInsert => oneByte 1
  | .returned => oneByte 2

/-- FREE 0, OWNED 1, LENT 2, RESERVED 3 (06 section 6.1). -/
def holdByte : Option ChanHold → List Byte
  | none => oneByte 0
  | some .owned => oneByte 1
  | some (.lent _) => oneByte 2
  | some .reserved => oneByte 3

/-- UNASSIGNED 0, ASSIGNED 1. -/
def boothStateByte (floor : Option FloorId) : List Byte :=
  oneByte floor.isSome.toNat

/-- ORIGINAL 0, or 1 with a booth and output, in the order in which 06 section 6.1 lists them (log entry 36). -/
def chanOriginFields : ChanOrigin → List (List Byte)
  | .original => [oneByte 0]
  | .output b o => [oneByte 1, numberByte b, outByte o]

/-- OPEN 0, GATED 1. -/
def gateByte (gateOpen : Bool) : List Byte :=
  oneByte (!gateOpen).toNat

def policyByte : BoothPolicy → List Byte
  | .lockout => oneByte 0
  | .handover => oneByte 1

def portStateByte : PortState → List Byte
  | .idle => oneByte 0
  | .enrolling => oneByte 1
  | .running => oneByte 2
  | .resetting => oneByte 3

def ringStateByte : RingState → List Byte
  | .linear => oneByte 0
  | .untested => oneByte 1
  | .closed => oneByte 2
  | .opened => oneByte 3

def enrolKindByte : EnrolKind → List Byte
  | .full => oneByte 0
  | .extend => oneByte 1

def enrolResultByte : EnrolResult → List Byte
  | .done => oneByte 0
  | .full => oneByte 1
  | .seatTableFull => oneByte 2
  | .aborted => oneByte 3
  | .ringOpen => oneByte 4

/-! ## The fields of each payload whose bytes are stated -/

def wallFields (x : Wall) : List (List Byte) :=
  [numberByte x.secA, numberByte x.secB] ++
    (match x.source with
      | .line n p => [oneByte 0, indexByte n, polarityByte p]
      | .request => [oneByte 1]) ++
    [oneByte x.settle, mergePolicyByte x.policy, posByte x.sensed, posByte x.applied, mergeStateByte x.merge]

/-- A desk's state, selected output and relay source, the last by the code that 11 R186 gives it (log entry 36). -/
def deskFields (d : DeskFields) : List (List Byte) :=
  [onByte d.live, outByte d.selected, [relayByte d.relay]]

def seatFields (n : SeatId) (s : Seat) : List (List Byte) :=
  [seatBytes n, indexByte s.port, oneByte s.address, reachByte s.reach, unitKindByte s.kind, roleByte s.role] ++
    ofSome (fun x => [numberByte x]) s.place ++ [linkByte s.link] ++ ofSome (fun c => [wordBytes c]) s.badge ++
    [indexByte s.slot, [tunedByte s.tuned], [indicatorByte s.indicator]] ++ ofSome deskFields s.desk ++
    ofSome (fun t => [turnCauseByte t.cause, [floorByte t.floor]]) s.lastTurn

def rosterFields (x : RosterEntry) : List (List Byte) :=
  seatBytes x.number ::
    ofSome (fun r =>
      [indexByte r.port, oneByte r.address, reachByte r.reach, unitKindByte r.kind, roleByte r.role] ++
        ofSome (fun p => [numberByte p]) r.place ++ [linkByte r.link, presentByte r.badgePresent, [tunedByte r.tuned]])
      x.fields

def bankFields (b : Bank) : List (List Byte) :=
  [modeByte b.mode, oneByte b.limit, oneByte b.cap, onByte b.autoAdvance, onByte b.badgeRequired, actionByte b.action,
   turnModeByte b.turnMode] ++ b.listen.rows.map fun l => [langByte l]

def speakerFields (e : Speaker) : List (List Byte) :=
  [seatBytes e.seat, speakerKindByte e.kind, numberByte e.slot, wordBytes e.start, yesByte e.priorityMute,
   yesByte e.linkMute] ++ ofSome (fun t => [phaseByte t.phase]) e.timer

def waitingFields (e : Waiting) : List (List Byte) :=
  [seatBytes e.seat, wordBytes e.arrival, originByte e.origin, yesByte e.unreachable]

def removalFields (x : SeatId × RemovalCause) : List (List Byte) :=
  [seatBytes x.1, removalCauseByte x.2]

def contentFields : Content → List (List Byte)
  | .silence => [oneByte 0]
  | .floorMix f => [oneByte 1, [floorByte f]]
  | .desk n => [oneByte 2, seatBytes n]

/-- The floor that a LENT channel is lent to. -/
def lentFields : ChanHold → List (List Byte)
  | .lent x => [[floorByte x]]
  | _ => []

/-- The owner, language, origin and lent-to floor of a channel that is not FREE (06 R110). -/
def useFields (u : ChanUse) : List (List Byte) :=
  [floorByte u.owner] :: (ofSome (fun l => [[langByte (some l)]]) u.lang ++ chanOriginFields u.origin ++ lentFields u.hold)

/-- An adopted entry of FLOOR_READ: its language, its floor, and the listen slot that holds it; SHORT and a language that the
host's own entry serves have no stated code (log entry 9). -/
def adoptedFields (a : Adopted) : List (List Byte) :=
  [[langByte (some a.lang)], [floorByte a.floor]] ++
    match a.place with
    | .slot k => [indexByte k]
    | _ => []

def outputFields (x : OutputReport) : List (List Byte) :=
  [[outputStateByte x.output.use]] ++
    ofSome (fun u =>
      [[langByte (some u.lang)], indexByte u.chan] ++
        match u.state with
        | .live n gateOpen => [seatBytes n, gateByte gateOpen]
        | _ => []) x.output.use ++
    ofSome (fun k => [oneByte k]) x.delaySecs ++
    ofSome (fun r => [seatBytes r.1, releaseCauseByte r.2]) x.output.lastRelease

def deskReportFields (x : DeskReport) : List (List Byte) :=
  seatBytes x.seat :: (ofSome deskFields x.desk ++ ofSome (fun l => [linkByte l]) x.link)

def enrolRecordFields (r : EnrolRecord) : List (List Byte) :=
  [enrolKindByte r.kind, enrolResultByte r.result, oneByte r.made, wordBytes r.clock] ++
    ofSome (fun a => [oneByte a]) r.first ++ ofSome (fun a => [oneByte a]) r.last

def entryFields (x : EntryReport) : List (List Byte) :=
  [oneByte x.entry.address, seatBytes x.entry.seat, oneByte x.entry.missPrimary, oneByte x.entry.missSecondary,
   yesByte x.entry.reported, oneByte x.entry.lastBit.toNat] ++ ofSome (fun r => [reachByte r]) x.reach

def ringFields (r : RingReport) : List (List Byte) :=
  ringStateByte r.state ::
    (ofSome (fun t => [wordBytes t.2]) r.lastLoop ++ ofSome (fun t => [wordBytes t.2.1]) r.lastTest)

/-- The fields of a payload whose coding the rules state, in the order in which the rules name them. 11 R185 gives a width to
the arguments of requests and to a few kinds of field; a number or code that stands in payloads only (a queue length, a cap,
free pool entries, speaker and miss counts, capacities, seconds remaining) takes one byte, and the session clock and what is
taken from it four (log entry 42). -/
def statedFields : Payload → List (List Byte)
  | .empty => []
  | .clock c => [wordBytes c]
  | .attention items => [oneByte items.length ++ items.flatMap attentionBytes]
  | .mask kinds => [halfBytes (kinds.setWidth 16)]
  | .granted slot => [numberByte slot]
  | .outputChannel c => [indexByte c]
  | .seatAt n => [seatBytes n]
  | .floorClosed => [floorStateByte .closed]
  | .wall i x pending settle _ lock _ =>
    numberByte i :: yesByte x.isSome ::
      (ofSome wallFields x ++ ofSome (fun p => [posByte p]) pending ++ ofSome (fun k => [oneByte k]) settle ++
        [lockByte lock])
  | .seat n s grace refusal => seatFields n s ++ ofSome (fun k => [oneByte k]) grace ++ ofSome (fun c => [[c]]) refusal
  | .seatsWithBadge ns _ => ns.map seatBytes
  | .roster entries more => entries.flatMap rosterFields ++ [yesByte more]
  | .floorOpened c _ => [indexByte c]
  | .floor f st anchor precedence _ folded original current pending holders _ adopted delegates chairs queue =>
    [[floorByte f], floorStateByte st, numberByte anchor, oneByte precedence] ++
      (match st with
        | .folded x => [[floorByte x]]
        | _ => []) ++
      folded.map (fun x => [floorByte x]) ++ [indexByte original, bankIdByte current, swapByte pending] ++
      holders.map seatBytes ++ (adopted.getD []).flatMap adoptedFields ++
      [oneByte delegates, oneByte chairs, oneByte queue]
  | .bank b which _ pending adopted =>
    bankFields b ++ [bankIdByte which, swapByte pending] ++
      adopted.flatMap fun a => [indexByte a.1, [floorByte a.2]]
  | .speakers carrier entries => ofSome (fun f => [[floorByte f]]) carrier ++ entries.flatMap speakerFields
  | .queue carrier entries more first length cap free removal =>
    ofSome (fun f => [[floorByte f]]) carrier ++ entries.flatMap waitingFields ++ [yesByte more] ++
      ofSome (fun k => [oneByte k]) first ++ [oneByte length, oneByte cap, oneByte free] ++ ofSome removalFields removal
  | .booth floor serving policy delay desks outA outB =>
    boothStateByte floor ::
      (ofSome (fun f => [[floorByte f]]) floor ++ ofSome (fun f => [[floorByte f]]) serving ++
        [policyByte policy, oneByte delay] ++ desks.flatMap deskReportFields ++ outputFields outA ++ outputFields outB)
  | .channel c record map _ _ =>
    indexByte c :: holdByte (record.use.map (·.hold)) ::
      (ofSome useFields record.use ++ contentFields record.content ++ ofSome (fun f => [[floorByte f]]) map)
  | .channels rows free queue =>
    rows.flatMap (fun r =>
      holdByte (r.map (·.1)) ::
        ofSome (fun x => [floorByte x.2.1] :: ofSome (fun l => [[langByte (some l)]]) x.2.2) r) ++
      [oneByte free, oneByte queue]
  | .chain st ring seats enrolment lastEnrol entries =>
    portStateByte st ::
      (ofSome ringFields ring ++ [oneByte seats] ++
        ofSome (fun e => [enrolKindByte e.1, oneByte e.2.1, oneByte e.2.2]) enrolment ++
        ofSome enrolRecordFields lastEnrol ++ entries.flatMap entryFields)
  | .identity code issue caps clock =>
    [halfBytes code, [issue], oneByte caps.sections, oneByte caps.walls, oneByte caps.floors, oneByte caps.voiceSlots,
     oneByte caps.channels, oneByte caps.booths, oneByte caps.poolEntries, oneByte caps.chainPorts, wordBytes clock]

/-- A payload of one field, whose bytes are that field's; the others leave the order of their fields open. -/
def isOneField : Payload → Bool
  | .empty | .clock _ | .attention _ | .mask _ | .granted _ | .outputChannel _ | .seatAt _ | .floorClosed => true
  | _ => false

/-! ## Layout -/

/-- Some fields in the order that the spec leaves open (log entry 9). -/
def arranged (p : Payload) (fields : List (List Byte)) : List (List Byte) :=
  (List.finRange fields.length).map fun i => fields.get (Config.fieldOrder p fields.length i)

/-- The payload bytes: the stated fields in an open order, with the bytes of the fields without a coding before, between and
after them, never more than 200 bytes (log entry 9). -/
def payloadBytes (p : Payload) : List Byte :=
  if isOneField p then (statedFields p).flatten
  else
    ((((arranged p (statedFields p)).zipIdx.flatMap fun x => Config.openFields p x.2 ++ x.1) ++
      Config.openFields p (statedFields p).length)).take 200

/-- An answer frame: status, request code echo, payload length, payload, check byte. -/
def answerFrame (a : Answer) : List Byte :=
  sealed ([statusByte a.status, a.echo, BitVec.ofNat 8 (payloadBytes a.payload).length] ++ payloadBytes a.payload)

end Sys2Proof
end

