-- ==== Sys2Proof/Machine/State.lean ====
section
/-! DEFINITION. The state of the part, the reasons a step can stop, and the state right after device reset. -/

namespace Sys2Proof.Machine

/-- The part's records, its Host Port, and the model's queue of commands waiting to be taken, first in first out. -/
structure State where
  world : World
  port : HostPort
  pending : List Instr
deriving DecidableEq, Repr

/-- No rule of the spec stops the part, so there is no fault. -/
inductive Fault where
deriving DecidableEq, Repr

/-- The reasons for which the model refuses a command. -/
inductive Refusal where
  /-- Raised by an arm of `exec` whose command has no meaning yet; safe, since nothing is claimed of it. -/
  | notModelled (mnemonic : String)
deriving DecidableEq, Repr

end Sys2Proof.Machine

namespace Sys2Proof

/-- 01 R1, R5, R6; the lines are pulled up (log entry 7). -/
def Layout.reset : Layout where
  active := 0#12
  walls := Tbl.fill 16 none
  pendingWalls := Tbl.fill 16 none
  lock := .locked
  lines := Tbl.fill 16 true

/-- A CLOSED floor (03 R40) with its empty lists (04 R61, R62). -/
def Floor.reset : Floor where
  state := .closed
  sess := none
  members := 0#12
  home := 0#12
  swapPending := false
  holders := []
  requestHolds := false
  adopted := none
  speakers := []
  queue := []
  lastRemoval := none

/-- An UNUSED output with no last release (07 R117). -/
def Output.reset : Output where
  use := none
  lastRelease := none

/-- 07 R117. -/
def Booth.reset : Booth where
  floor := none
  policy := .lockout
  delay := 3
  desks := []
  outA := Output.reset
  outB := Output.reset

/-- 06 R101. -/
def Channel.reset : Channel where
  use := none
  content := .silence

/-- The 48 targets in the order of 06 R115, with FREE and SILENCE. -/
def routeRefill : List RouteUpdate :=
  (List.finRange 16).map (fun n => .slot n none) ++ (List.finRange 32).map (fun n => .channel n .silence)

/-- 09 R156. -/
def PortRec.reset : PortRec where
  state := .idle
  lastEnrol := none
  entries := []
  enrol := none
  wait := none
  cursor := 0
  retry := none
  releasePending := false

/-- 09 R156. -/
def RingRec.reset : RingRec where
  state := .linear
  testNo := 0#8
  inFlight := false
  periodic := none
  lastLoop := none
  lastTest := none
  run := none

def Chain.reset : Chain where
  ports := Tbl.fill 4 PortRec.reset
  rings := Tbl.fill 2 RingRec.reset
  sent := Tbl.fill 4 []

/-- 02 R19, 03 R40, 04 R61 to R64, 06 R101, R115, 07 R117, 10 R183; HOLD stands INACTIVE, so the first refill frame is in
flight (log entry 8). -/
def Hall.reset : Hall where
  seats := Tbl.fill 256 .free
  maskDelegate := BitVec.allOnes 2
  maskChair := BitVec.allOnes 4
  maskDesk := BitVec.allOnes 5
  marks := Tbl.fill 256 false
  cursor := 0
  floors := Tbl.fill 6 Floor.reset
  slots := Tbl.fill 16 none
  channels := Tbl.fill 32 Channel.reset
  booths := Tbl.fill 12 Booth.reset
  routeQueue := routeRefill.tail
  inFlight := routeRefill.head?
  hold := false
  link := routeFrame (.slot 0 none)
  attention := Tbl.fill 70 false

/-- 05 R89: the clock is 0. -/
def World.reset : World where
  clock := 0#32
  layout := Layout.reset
  hall := Hall.reset
  chain := Chain.reset

/-- 10 R183; chip select stands released (log entry 6). -/
def HostPort.reset : HostPort where
  phase := .idle
  cs := .released
  buffer := .empty
  ready := false
  attn := false
  mask := BitVec.allOnes 12
  hall := .none
  readOut := []
  discards := 0

end Sys2Proof

namespace Sys2Proof.Machine

/-- The part right after device reset. -/
def State.reset : State where
  world := World.reset
  port := HostPort.reset
  pending := []

end Sys2Proof.Machine
end

