-- ==== Sys2Proof/Machine/Operands.lean ====
section
/-! DEFINITION. Every operand form: record numbers, enumerated codes, languages, channels, chain targets and bank fields from
the bytes of 11 R185. A code beyond the last value, or a number outside its range, is absent. -/

namespace Sys2Proof

/-- A record numbered from 1 to `n` (00 section 4). -/
def numbered (n k : Nat) : Option (Fin n) :=
  if h : 1 ≤ k ∧ k ≤ n then some ⟨k - 1, by omega⟩ else none

/-- A record numbered from 0 to `n - 1`. -/
def indexed (n k : Nat) : Option (Fin n) :=
  if h : k < n then some ⟨k, h⟩ else none

/-- An enumerated argument with two values, coded 0 and 1 in the order in which they are listed. -/
def twoValued {α : Type} (zero one : α) (code : Byte) : Option α :=
  if code = 0#8 then some zero else if code = 1#8 then some one else none

/-- Active 0, inactive 1: the order of SECTION_SET (01 R5; log entry 12). -/
def activeOf (code : Byte) : Option Bool :=
  twoValued true false code

/-- OPEN 0, CLOSED 1 (01 section 1.4). -/
def wallPosOf (code : Byte) : Option WallPos :=
  twoValued .opened .closed code

def polarityOf (code : Byte) : Option Polarity :=
  twoValued .openWhenHigh .openWhenLow code

def mergePolicyOf (code : Byte) : Option MergePolicy :=
  twoValued .auto .held code

/-- LINE 0 with its line and polarity, REQUEST 1, for which line and polarity are ignored (01 R7). -/
def wallSourceOf (source line polarity : Byte) : Option WallSource :=
  if source = 0#8 then
    match indexed 16 line.toNat, polarityOf polarity with
    | some l, some p => some (.line l p)
    | _, _ => none
  else if source = 1#8 then some .request
  else none

/-- A settle time in half-seconds, 1 to 20, with 0 selecting 2.0 s (11 R185). -/
def settleOf (code : Byte) : Option Nat :=
  if code.toNat = 0 then some 4 else if code.toNat ≤ 20 then some code.toNat else none

/-- The section of SEAT_PLACE: 0 is none. -/
def placeOf (code : Byte) : Option (Option SectionId) :=
  if code.toNat = 0 then some none else (numbered 12 code.toNat).map some

def roleOf (code : Byte) : Option Role :=
  match code.toNat with
  | 0 => some .delegate
  | 1 => some .chair
  | 2 => some .desk
  | _ => none

/-- A language code: 0 to 250, or 0xFF for NONE and EMPTY; 251 to 254 are invalid (00 section 4). -/
def langOf (code : Nat) : Option (Option Lang) :=
  if code = 255 then some none else (indexed 251 code).map some

/-- The channel of BOOTH_OUTPUT: 0 to 31, or 0xFF for LOWEST. -/
def outputChannelOf (code : Byte) : Option (Option ChannelId) :=
  if code = 0xFF#8 then some none else (indexed 32 code.toNat).map some

def outOf (code : Byte) : Option Out :=
  twoValued .a .b code

def boothPolicyOf (code : Byte) : Option BoothPolicy :=
  twoValued .lockout .handover code

/-- The seat of GRANT: 0 is HEAD. -/
def grantSeatOf (code : Half) : Option (Option SeatId) :=
  if code.toNat = 0 then some none else (numbered 256 code.toNat).map some

/-- YES 0, NO 1: the order of GRANT's displace argument (04 R79; log entry 12). -/
def displaceOf (code : Byte) : Option Bool :=
  twoValued true false code

/-- Bank A 0, B 1, CURRENT 2 (03 R50). -/
inductive BankName where
  | named (bank : BankId)
  | current
deriving DecidableEq, Repr

def bankNameOf (code : Byte) : Option BankName :=
  match code.toNat with
  | 0 => some (.named .a)
  | 1 => some (.named .b)
  | 2 => some .current
  | _ => none

/-- OFF 0, ON 1 wherever they appear (11 R185). -/
def onOffOf (code : Nat) : Option Bool :=
  match code with
  | 0 => some false
  | 1 => some true
  | _ => none

/-- The fields of a setup bank by number, and the listen slots (11 R185). -/
inductive BankField where
  | mode
  | limit
  | cap
  | autoAdvance
  | badgeRequired
  | action
  | turnLimit
  | turnMode
  | lead
  | listen (k : ListenSlot)
deriving DecidableEq, Repr

def bankFieldOf (code : Byte) : Option BankField :=
  match code.toNat with
  | 0 => some .mode
  | 1 => some .limit
  | 2 => some .cap
  | 3 => some .autoAdvance
  | 4 => some .badgeRequired
  | 5 => some .action
  | 6 => some .turnLimit
  | 7 => some .turnMode
  | 8 => some .lead
  | n => if 16 ≤ n then (indexed 16 (n - 16)).map .listen else none

def modeOf (code : Nat) : Option Mode :=
  match code with
  | 0 => some .opened
  | 1 => some .request
  | 2 => some .override
  | 3 => some .chairOnly
  | _ => none

def actionOf (code : Nat) : Option PriorityAction :=
  match code with
  | 0 => some .muteWhileHeld
  | 1 => some .closeAll
  | 2 => some .closeAndClear
  | _ => none

def turnModeOf (code : Nat) : Option TurnMode :=
  match code with
  | 0 => some .cut
  | 1 => some .warn
  | _ => none

/-- A value within its bounds. -/
def within (low high k : Nat) : Option Nat :=
  if low ≤ k ∧ k ≤ high then some k else none

/-- A turn limit: 0, or 10 to 3600 s (03 section 3.5). -/
def turnLimitOf (k : Nat) : Option Nat :=
  if k = 0 then some 0 else within 10 3600 k

/-- One field of a bank replaced by a value in its field's range (03 R51 step 4); absent when out of range. -/
def Bank.withField (b : Bank) (field : BankField) (v : Nat) : Option Bank :=
  match field with
  | .mode => (modeOf v).map fun x => { b with mode := x }
  | .limit => (within 1 8 v).map fun x => { b with limit := x }
  | .cap => (within 0 64 v).map fun x => { b with cap := x }
  | .autoAdvance => (onOffOf v).map fun x => { b with autoAdvance := x }
  | .badgeRequired => (onOffOf v).map fun x => { b with badgeRequired := x }
  | .action => (actionOf v).map fun x => { b with action := x }
  | .turnLimit => (turnLimitOf v).map fun x => { b with turnLimit := x }
  | .turnMode => (turnModeOf v).map fun x => { b with turnMode := x }
  | .lead => (within 0 300 v).map fun x => { b with lead := x }
  | .listen k => (langOf v).map fun x => { b with listen := b.listen.set k x }

/-- A ring by its code 0x0A or 0x0B. -/
def ringOf (code : Byte) : Option RingId :=
  if code = 0x0A#8 then some 0 else if code = 0x0B#8 then some 1 else none

/-- A chain target as named: a port 0 to 3 or a ring (11 R185). -/
inductive TargetName where
  | port (p : PortId)
  | ring (r : RingId)
deriving DecidableEq, Repr

def targetOf (code : Byte) : Option TargetName :=
  match indexed 4 code.toNat with
  | some p => some (.port p)
  | none => (ringOf code).map .ring

/-- The relay source of a RELAY key's argument byte: FLOOR, a booth output, or no booth and output of the part
(11 R186; log entry 12). -/
def relayArgOf (arg : Byte) : Option RelaySrc :=
  if arg = 0#8 then some .floor
  else match numbered 12 (arg.toNat / 16), outOf (BitVec.ofNat 8 (arg.toNat % 16)) with
    | some b, some o => some (.output b o)
    | _, _ => none

end Sys2Proof
end

