-- ==== Sys2Proof/Machine/Flags.lean ====
section
/-! DEFINITION. Every flag computation: the attention set and its mask (10 section 10.3), the change marks and the roster
(02 section 2.10), and the lines READY and ATTN with the Host Port's own transitions (10 R175, R177, R179). -/

namespace Sys2Proof

/-! ## Attention items -/

/-- The kind of an item, 0 to 11 in the order of the table of 10 section 10.3. -/
def AttnItem.kind : AttnItem → Fin 12
  | .queueChanged _ => 0
  | .speakersChanged _ => 1
  | .swapDone _ => 2
  | .foldChanged _ => 3
  | .adoptShort _ => 4
  | .mergePending _ => 5
  | .layoutExpired => 6
  | .enrollDone _ => 7
  | .ringChanged _ => 8
  | .unitLost _ => 9
  | .boothFallback _ => 10
  | .rosterChanged => 11

/-- The place of an item among the 70 possible ones: by kind, then by ascending subject (10 R178, R180). -/
def AttnItem.index : AttnItem → Fin 70
  | .queueChanged f => ⟨f.val, by omega⟩
  | .speakersChanged f => ⟨6 + f.val, by omega⟩
  | .swapDone f => ⟨12 + f.val, by omega⟩
  | .foldChanged f => ⟨18 + f.val, by omega⟩
  | .adoptShort f => ⟨24 + f.val, by omega⟩
  | .mergePending w => ⟨30 + w.val, by omega⟩
  | .layoutExpired => 46
  | .enrollDone p => ⟨47 + p.val, by omega⟩
  | .ringChanged r => ⟨51 + r.val, by omega⟩
  | .unitLost p => ⟨53 + p.val, by omega⟩
  | .boothFallback b => ⟨57 + b.val, by omega⟩
  | .rosterChanged => 69

/-- All items in the order of READ_ATTENTION (10 R180). -/
def attnItems : List AttnItem :=
  (List.finRange 6).map .queueChanged ++ (List.finRange 6).map .speakersChanged ++
  (List.finRange 6).map .swapDone ++ (List.finRange 6).map .foldChanged ++ (List.finRange 6).map .adoptShort ++
  (List.finRange 16).map .mergePending ++ [.layoutExpired] ++ (List.finRange 4).map .enrollDone ++
  (List.finRange 2).map .ringChanged ++ (List.finRange 4).map .unitLost ++ (List.finRange 12).map .boothFallback ++
  [.rosterChanged]

/-- An item joins the set; one already there stays (10 R178). -/
def Hall.raise (h : Hall) (i : AttnItem) : Hall :=
  { h with attention := h.attention.set i.index true }

def Hall.raiseIf (h : Hall) (b : Bool) (i : AttnItem) : Hall :=
  if b then h.raise i else h

/-- Whether the set holds an item. -/
def Hall.stands (h : Hall) (i : AttnItem) : Bool :=
  h.attention.get i.index

/-- The items of the set in the order of READ_ATTENTION. -/
def Hall.items (h : Hall) : List AttnItem :=
  attnItems.filter h.stands

/-- Whether the set holds an item whose kind is in the mask (10 R179). -/
def Hall.calls (h : Hall) (mask : BitVec 12) : Bool :=
  attnItems.any fun i => h.stands i && mask.getLsbD i.kind.val

/-- The set emptied (10 R180, R181). -/
def Hall.clearAttention (h : Hall) : Hall :=
  { h with attention := Tbl.fill 70 false }

/-! ## Change marks -/

/-- A change mark set; ROSTER_CHANGED is raised when every mark was clear (02 R36). -/
def Hall.mark (h : Hall) (n : SeatId) : Hall :=
  { h.raiseIf (!h.marks.some? id) .rosterChanged with marks := h.marks.set n true }

/-- Several marks set in one event, as if one after another (02 R36). -/
def Hall.markAll (h : Hall) (changed : Tbl Bool 256) : Hall :=
  { h.raiseIf (changed.some? id && !h.marks.some? id) .rosterChanged with
    marks := h.marks.zip (fun m c => m || c) changed }

/-- The seat numbers from the one after the cursor round to the cursor's own (02 R37). -/
def rosterOrder (cursor : Nat) : List SeatId :=
  (List.finRange 256).drop cursor ++ (List.finRange 256).take cursor

/-- The marked numbers a ROSTER_CHANGES collects: at most 16 (02 R37). -/
def Hall.rosterCollected (h : Hall) : List SeatId :=
  ((rosterOrder h.cursor).filter h.marks.get).take 16

/-! ## Host Port -/

/-- A write is taken when chip select fell with the port IDLE: the port is RECEIVING, or the request's command stands for
its whole transaction (10 R175; log entry 6). -/
def HostPort.takesWrite (p : HostPort) : Bool :=
  match p.phase, p.cs with
  | .receiving, _ => true
  | .idle, .released => true
  | _, _ => false

/-- An answer placed: the buffer UNREAD, READY asserted, the port IDLE (10 R177). -/
def HostPort.place (p : HostPort) (a : Answer) : HostPort :=
  { p with phase := .idle, buffer := .unread a, ready := true, hall := .none }

/-- A request whose answer waits for later steps: the held answer discarded, the port EXECUTING (10 R175, R181). -/
def HostPort.execute (p : HostPort) (stage : HallStage) : HostPort :=
  { p with phase := .executing, buffer := .empty, ready := false, hall := stage }

/-- ATTN judged afresh (10 R179). -/
def HostPort.judge (p : HostPort) (h : Hall) : HostPort :=
  { p with attn := h.calls p.mask }

/-- The frame held in the answer buffer, if any. -/
def Buffer.held : Buffer → Option Answer
  | .empty => none
  | .unread a => some a
  | .read a => some a

/-- The bytes shifted out in a transaction of `n` bytes: the frame held, then filler (10 R175). -/
def Buffer.shifted (b : Buffer) (n : Nat) : List Byte :=
  match b.held with
  | some a => (answerFrame a).take n ++ List.replicate (n - (answerFrame a).length) filler
  | none => List.replicate n filler

/-- A transaction of `bytes` bytes ends: chip select is released, and one byte has gone out for each byte in, as the answer
buffer stands (10 R174, R175; log entry 26). -/
def HostPort.transact (p : HostPort) (bytes : Nat) : HostPort :=
  { p with cs := .released, readOut := p.buffer.shifted bytes }

/-- A discarded write of an unknown number of bytes, at least one (10 R174, R175; log entry 37). -/
def HostPort.discard (p : HostPort) : HostPort :=
  { p.transact (Config.discardedBytes p.discards + 1) with discards := p.discards + 1 }

/-- What a read transaction of `n` bytes does: a whole UNREAD frame becomes READ and READY falls (10 R175). -/
def HostPort.readDone (p : HostPort) (n : Nat) : HostPort :=
  match p.buffer with
  | .unread a => if (answerFrame a).length ≤ n then { p with buffer := .read a, ready := false } else p
  | _ => p

/-- Chip select released at the end of a transaction that is no taken write: RECEIVING becomes IDLE, EXECUTING stays
(10 R175). -/
def HostPort.release (p : HostPort) : HostPort :=
  { p with cs := .released, phase := match p.phase with | .receiving => .idle | x => x }

/-- The falling edge of chip select (10 R175): RECEIVING from IDLE, EXECUTING stays. A select that is already asserted has
no falling edge. -/
def HostPort.select (p : HostPort) : HostPort :=
  match p.cs, p.phase with
  | .released, .idle => { p with phase := .receiving, cs := .asserted }
  | .released, _ => { p with cs := .ignored }
  | _, _ => p

end Sys2Proof

namespace Sys2Proof.Machine

/-- What a request does to the part and answers. -/
structure Handled where
  world : World
  status : Status
  payload : Payload
deriving DecidableEq, Repr

/-- The state after a request of `bytes` bytes is taken: its effect, and its answer placed with the request code's echo
(10 R175 to R177). -/
def State.answered (s : State) (bytes : Nat) (code : Byte) (r : Handled) : State :=
  { s with
    world := r.world
    port := ((s.port.transact bytes).place ⟨r.status, code, r.payload⟩).judge r.world.hall }

/-- The state after a write of `bytes` bytes that is not taken: the bytes are discarded whole (10 R175). -/
def State.discarded (s : State) (bytes : Nat) : State :=
  { s with port := s.port.transact bytes }

/-- A host request of `bytes` bytes: taken when the port takes a write, discarded whole otherwise (10 R175). -/
def request (bytes : Nat) (code : Byte) (f : World → Handled) (s : State) : Host.Outcome State Fault Refusal :=
  if s.port.takesWrite then .next (s.answered bytes code (f s.world)) else .next (s.discarded bytes)

/-- An event of the part that is no transaction of the Host Port: its effect, then ATTN judged afresh (10 R179). -/
def event (f : World → World) (s : State) : Host.Outcome State Fault Refusal :=
  .next { s with world := f s.world, port := s.port.judge (f s.world).hall }

/-- A refused request: it changes no record (10 R176). -/
def refusal (w : World) (st : Status) : Handled :=
  ⟨w, st, .empty⟩

/-- A request carried out with an empty payload. -/
def done (w : World) : Handled :=
  ⟨w, .ok, .empty⟩

end Sys2Proof.Machine
end

