-- ==== Sys2Proof/Machine/Ops.lean ====
section
/-! DEFINITION. The named operations over the records that every block shares: reading and replacing one record, membership
and floors of seats, current banks, serving floors and channel maps, indicator composition (02 R28), tuned-channel resolution
(02 R29), and the route update queue (06 R112, R113). -/

namespace Sys2Proof

/-! ## Seats -/

/-- The seat record at a number, if the position holds one. -/
def Hall.seat? (h : Hall) (n : SeatId) : Option Seat :=
  match h.seats.get n with
  | .held s => some s
  | _ => none

/-- A seat record replaced; a position that holds none is left. -/
def Hall.updSeat (h : Hall) (n : SeatId) (f : Seat → Seat) : Hall :=
  match h.seats.get n with
  | .held s => { h with seats := h.seats.set n (.held (f s)) }
  | _ => h

def Seat.reachable (s : Seat) : Bool :=
  s.link = .reachable

def Seat.inGrace (s : Seat) : Bool :=
  match s.link with
  | .lostGrace _ => true
  | _ => false

/-- Whether the unit at a number is in LOST_GRACE. -/
def Hall.inGrace (h : Hall) (n : SeatId) : Bool :=
  (h.seat? n).elim false Seat.inGrace

/-- Whether the seat at a number holds a badge code. -/
def Hall.badged (h : Hall) (n : SeatId) : Bool :=
  (h.seat? n).elim false fun s => s.badge.isSome

/-- Whether a seat is placed in one of the sections. -/
def Hall.sits (h : Hall) (secs : SecSet) (n : SeatId) : Bool :=
  match h.seat? n with
  | some s => s.place.elim false fun p => secs.getLsbD p.val
  | none => false

/-! ## Floors and banks -/

/-- The set of one section. -/
def secOnly (s : SectionId) : SecSet :=
  1#12 <<< s.val

def Hall.floor (h : Hall) (f : FloorId) : Floor :=
  h.floors.get f

def Hall.updFloor (h : Hall) (f : FloorId) (g : Floor → Floor) : Hall :=
  { h with floors := h.floors.upd f g }

def Floor.isLive (f : Floor) : Bool :=
  f.state = .live

/-- The fields of a floor that is not CLOSED (03 R40). -/
def Floor.session? (f : Floor) : Option Session :=
  if f.state = .closed then none else f.sess

def Floor.carrier? (f : Floor) : Option FloorId :=
  match f.state with
  | .folded c => some c
  | _ => none

/-- The floors folded into a floor, in ascending number (03 section 3.1). -/
def Hall.foldedInto (h : Hall) (f : FloorId) : List FloorId :=
  h.floors.positions fun x => x.carrier? = some f

/-- The LIVE floor of which a section is a member (03 section 3.2). -/
def Hall.floorAt (h : Hall) (s : SectionId) : Option FloorId :=
  h.floors.lowest fun x => x.isLive && x.members.getLsbD s.val

/-- A section that is a member of no LIVE floor. -/
def Hall.dark (h : Hall) (s : SectionId) : Bool :=
  (h.floorAt s).isNone

/-- A section in use: a member of a LIVE floor or a home section of a FOLDED floor (01 section 1.2). -/
def Hall.inUse (h : Hall) (s : SectionId) : Bool :=
  h.floors.some? fun x => (x.isLive && x.members.getLsbD s.val) || (x.carrier?.isSome && x.home.getLsbD s.val)

/-- The seat's floor (02 section 2.1). -/
def Hall.floorOf (h : Hall) (s : Seat) : Option FloorId :=
  s.place.bind h.floorAt

/-- The default bank written by FLOOR_OPEN (03 section 3.5). -/
def Bank.initial : Bank where
  mode := .request
  limit := 4
  cap := 32
  autoAdvance := true
  badgeRequired := false
  action := .muteWhileHeld
  turnLimit := 0
  turnMode := .cut
  lead := 0
  listen := (Tbl.fill 16 none).set 0 (some 0)

def BankId.other : BankId → BankId
  | .a => .b
  | .b => .a

def Session.bank (s : Session) : BankId → Bank
  | .a => s.bankA
  | .b => s.bankB

def Session.setBank (s : Session) (i : BankId) (x : Bank) : Session :=
  match i with
  | .a => { s with bankA := x }
  | .b => { s with bankB := x }

/-- The current bank of a floor; a CLOSED floor has none and is given the default, which nothing reads. -/
def Floor.bank (f : Floor) : Bank :=
  match f.sess with
  | some s => s.bank s.current
  | none => Bank.initial

def Floor.precedence (f : Floor) : Nat :=
  f.sess.elim 0 (·.precedence)

def Floor.original? (f : Floor) : Option ChannelId :=
  f.sess.map (·.original)

/-- The current listen table changed. -/
def Floor.setListen (f : Floor) (k : ListenSlot) (l : Option Lang) : Floor :=
  { f with
    sess := f.sess.map fun s =>
      s.setBank s.current { s.bank s.current with listen := (s.bank s.current).listen.set k l } }

/-- The number of DELEGATE speaker entries. -/
def Floor.delegates (f : Floor) : Nat :=
  f.speakers.countP fun e => e.kind = .delegate

def Floor.chairs (f : Floor) : Nat :=
  f.speakers.countP fun e => e.kind = .chair

/-- The priority holder set is not empty. -/
def Floor.held (f : Floor) : Bool :=
  !f.holders.isEmpty || f.requestHolds

/-- Mute-active (04 R67): the action is MUTE_WHILE_HELD with a non-empty holder set. -/
def Floor.muteActive (f : Floor) : Bool :=
  f.bank.action = .muteWhileHeld && f.held

/-- The first reachable entry of a queue (04 section 4.2). -/
def Floor.firstReachable (f : Floor) : Option Waiting :=
  f.queue.find? fun e => !e.unreachable

/-- The oldest delegate speaker (04 R61). -/
def Floor.oldestDelegate (f : Floor) : Option Speaker :=
  f.speakers.find? fun e => e.kind = .delegate

/-- The free entries of the pool of 96 (04 R63). -/
def Hall.poolFree (h : Hall) : Nat :=
  96 - (h.floors.rows.map fun f => f.queue.length).sum

/-- The floor whose speaker list holds a seat. -/
def Hall.speakerFloor (h : Hall) (n : SeatId) : Option FloorId :=
  h.floors.lowest fun f => f.speakers.any fun e => e.seat = n

/-- The floor whose queue holds a seat. -/
def Hall.queueFloor (h : Hall) (n : SeatId) : Option FloorId :=
  h.floors.lowest fun f => f.queue.any fun e => e.seat = n

/-- The speaker entry of a seat. -/
def Hall.speaker? (h : Hall) (n : SeatId) : Option Speaker :=
  (h.speakerFloor n).bind fun f => (h.floor f).speakers.find? fun e => e.seat = n

def Hall.speaks (h : Hall) (n : SeatId) : Bool :=
  (h.speakerFloor n).isSome

def Hall.queued (h : Hall) (n : SeatId) : Bool :=
  (h.queueFloor n).isSome

/-- Whether a seat is in some floor's priority holder set. -/
def Hall.holds (h : Hall) (n : SeatId) : Bool :=
  h.floors.some? fun f => f.holders.contains n

/-! ## Voice slots -/

/-- The lowest-numbered FREE voice slot (04 R64). -/
def Hall.freeSlot (h : Hall) : Option SlotId :=
  h.slots.lowest Option.isNone

/-! ## Booths -/

/-- The booth whose desk list holds a seat (07 R117: at most one). -/
def Hall.boothOf (h : Hall) (n : SeatId) : Option BoothId :=
  h.booths.lowest fun b => b.desks.contains n

def Booth.output (b : Booth) : Out → Output
  | .a => b.outA
  | .b => b.outB

def Booth.setOutput (b : Booth) (o : Out) (x : Output) : Booth :=
  match o with
  | .a => { b with outA := x }
  | .b => { b with outB := x }

def Hall.output (h : Hall) (b : BoothId) (o : Out) : Output :=
  (h.booths.get b).output o

def Hall.setOutput (h : Hall) (b : BoothId) (o : Out) (x : Output) : Hall :=
  { h with booths := h.booths.upd b fun r => r.setOutput o x }

/-- The serving floor of a booth (07 R116). -/
def Hall.serving (h : Hall) (b : BoothId) : Option FloorId :=
  match (h.booths.get b).floor with
  | none => none
  | some f =>
    match (h.floor f).state with
    | .live => some f
    | .folded c => some c
    | .closed => none

def OutState.isHeld : OutState → Bool
  | .held => true
  | _ => false

/-- The live desk of an output, if it is LIVE. -/
def Output.liveDesk (o : Output) : Option SeatId :=
  match o.use with
  | some u =>
    match u.state with
    | .live d _ => some d
    | _ => none
  | none => none

def Output.isHeld (o : Output) : Bool :=
  o.use.elim false fun u => u.state.isHeld

def Output.chan? (o : Output) : Option ChannelId :=
  o.use.map (·.chan)

/-! ## Channel maps (06 R106) -/

/-- Whether a channel stands in the map of a LIVE floor. -/
def Hall.inMap (h : Hall) (f : FloorId) (c : Channel) : Bool :=
  (h.floor f).isLive &&
    match c.use with
    | none => false
    | some u =>
      match u.hold with
      | .owned => u.owner = f
      | .lent x => x = f
      | .reserved => false

/-- The carrier of language L on floor F: the channel of F's map whose language is L. -/
def Hall.carrying (h : Hall) (f : FloorId) (l : Lang) : Option ChannelId :=
  h.channels.lowest fun c => h.inMap f c && (c.use.elim false fun u => u.lang = some l)

/-- The floor in whose map a channel record stands: the owner when OWNED, the lent-to floor when LENT (06 R103). -/
def Channel.mapFloor (c : Channel) : Option FloorId :=
  c.use.bind fun u =>
    match u.hold with
    | .owned => some u.owner
    | .lent x => some x
    | .reserved => none

/-! ## Tuned channels (02 R29) -/

/-- The tuned channel of a delegate or chair seat. -/
def Hall.tunedListener (h : Hall) (s : Seat) : Option ChannelId :=
  (h.floorOf s).bind fun f => ((h.floor f).bank.listen.get s.slot).bind fun l => h.carrying f l

/-- The tuned channel of a desk seat. -/
def Hall.tunedDesk (h : Hall) (n : SeatId) (d : DeskFields) : Option ChannelId :=
  (h.boothOf n).bind fun b => (h.serving b).bind fun f =>
    match d.relay with
    | .floor => (h.floor f).original?
    | .output c o => (h.output c o).chan?

/-- The tuned channel a seat resolves to. -/
def Hall.resolve (h : Hall) (n : SeatId) (s : Seat) : Option ChannelId :=
  match s.desk with
  | some d => h.tunedDesk n d
  | none => h.tunedListener s

/-- A seat position with the tuned channel it resolves to, when the seat is among those re-resolved. -/
def Hall.retuned (h : Hall) (p : SeatId → Seat → Bool) (n : SeatId) : SeatPos → SeatPos
  | .held s => if p n s then .held { s with tuned := h.resolve n s } else .held s
  | x => x

def SeatPos.tuned : SeatPos → Option ChannelId
  | .held s => s.tuned
  | _ => none

/-- Re-resolution of the seats a report names; the change mark of each seat whose channel changed is set (02 R29). -/
def Hall.retune (h : Hall) (p : SeatId → Seat → Bool) : Hall :=
  let seats := h.seats.imap (h.retuned p)
  { h.markAll (h.seats.zip (fun old new => old.tuned != new.tuned) seats) with seats := seats }

def Hall.retuneSeat (h : Hall) (n : SeatId) : Hall :=
  h.retune fun m _ => m = n

/-- A change of member sets: every seat placed in the sections (02 section 2.7). -/
def Hall.membersReport (h : Hall) (secs : SecSet) : Hall :=
  h.retune fun _ s => s.place.elim false fun x => secs.getLsbD x.val

/-- A change of a floor's current listen table: every seat of that floor. -/
def Hall.listenReport (h : Hall) (f : FloorId) : Hall :=
  h.retune fun _ s => h.floorOf s = some f

/-- The desks of a booth re-resolved. -/
def Hall.retuneDesks (h : Hall) (b : BoothId) : Hall :=
  h.retune fun n _ => (h.booths.get b).desks.contains n

/-! ## Indicators (02 R28) -/

/-- The indicator of a speaking seat. -/
def Speaker.indicator (e : Speaker) : Indicator :=
  if e.priorityMute || e.linkMute then .muted
  else match e.timer with
    | some t =>
      match t.phase with
      | .overrun => .overrun
      | .lastPeriod => .lastPeriod
      | .normal => .speaking
    | none => .speaking

/-- The desk whose selected output is HELD (02 section 2.6, order 7). -/
def Hall.deskHeld (h : Hall) (n : SeatId) (s : Seat) : Bool :=
  match s.desk, h.boothOf n with
  | some d, some b => (h.output b d.selected).isHeld
  | _, _ => false

/-- The highest-ordered state whose condition holds (02 section 2.6). -/
def Hall.indicate (h : Hall) (n : SeatId) (s : Seat) : Indicator :=
  if s.flash.isSome then .refused
  else match h.speaker? n with
    | some e => e.indicator
    | none =>
      if s.desk.elim false (·.live) then .deskLive
      else if h.deskHeld n s then .deskHeld
      else match h.queueFloor n with
        | some f => if ((h.floor f).firstReachable.map (·.seat)) = some n then .next else .waiting
        | none => .off

/-- The indicator of a seat recomposed. -/
def Hall.recompose (h : Hall) (n : SeatId) : Hall :=
  h.updSeat n fun s => { s with indicator := h.indicate n s }

def Hall.recomposeAll (h : Hall) (ns : List SeatId) : Hall :=
  ns.foldl Hall.recompose h

/-- The seats waiting on a floor recomposed: a change at or near the head moves NEXT (04 R62). -/
def Hall.recomposeQueue (h : Hall) (f : FloorId) : Hall :=
  h.recomposeAll ((h.floor f).queue.map (·.seat))

/-- Every seat that speaks or waits on a floor recomposed. -/
def Hall.recomposeFloor (h : Hall) (f : FloorId) : Hall :=
  (h.recomposeAll ((h.floor f).speakers.map (·.seat))).recomposeQueue f

/-- The desks of a booth recomposed. -/
def Hall.recomposeDesks (h : Hall) (b : BoothId) : Hall :=
  h.recomposeAll (h.booths.get b).desks

/-! ## Route Output (06 R112, R113) -/

def RouteUpdate.sameTarget : RouteUpdate → RouteUpdate → Bool
  | .slot a _, .slot b _ => a = b
  | .channel a _, .channel b _ => a = b
  | _, _ => false

/-- An update joins the tail, or replaces the value of its target's pending entry in its place (06 R112). -/
def joinRoute (u : RouteUpdate) : List RouteUpdate → List RouteUpdate
  | [] => [u]
  | x :: xs => if u.sameTarget x then u :: xs else x :: joinRoute u xs

/-- A frame begins when none is in flight, HOLD is INACTIVE and the queue is not empty (06 R113). -/
def Hall.startFrame (h : Hall) : Hall :=
  match h.inFlight, h.hold, h.routeQueue with
  | none, false, u :: rest => { h with routeQueue := rest, inFlight := some u, link := routeFrame u }
  | _, _, _ => h

/-- A route update taken by the Route Output block. -/
def Hall.route (h : Hall) (u : RouteUpdate) : Hall :=
  { h with routeQueue := joinRoute u h.routeQueue }.startFrame

/-- A voice slot given a value, and its update handed on (04 R64). -/
def Hall.setSlot (h : Hall) (n : SlotId) (v : Option HeldSlot) : Hall :=
  { h with slots := h.slots.set n v }.route (.slot n v)

/-! ## Whole seconds of a timer held in ticks, rounded up -/

def secsUp (ticks : Nat) : Nat :=
  (ticks + 9) / 10

end Sys2Proof
end

