-- ==== Sys2Proof/Machine/Channels.lean ====
section
/-! DEFINITION. Channel Allocator (chapter 6): allocation, freeing, content, the four transitions between maps, the map report
with the re-check of relays (07 R133), and CHANNEL_READ; Route Output commands (06 R113, R114). -/

namespace Sys2Proof

/-- The desk fields of a seat. -/
def Hall.desk? (h : Hall) (n : SeatId) : Option DeskFields :=
  (h.seat? n).bind (·.desk)

/-- Desk fields written by the Interpretation Unit: on a change the mark is set, the tuned channel re-resolved and the
indicator recomposed (07 R117). -/
def Hall.setDesk (h : Hall) (n : SeatId) (d : DeskFields) : Hall :=
  match h.desk? n with
  | some d0 =>
    if d0 = d then h
    else (((h.updSeat n fun s => { s with desk := some d }).mark n).retuneSeat n).recompose n
  | none => h

/-- A valid relay source for a desk in booth b: output o of booth c (07 R130). -/
def Hall.validSource (h : Hall) (b c : BoothId) (o : Out) : Bool :=
  (h.booths.get b).floor.isSome && (h.output c o).use.isSome && !(h.output c o).isHeld &&
    (h.booths.get c).floor.isSome && h.serving c = h.serving b

/-- One desk's relay re-checked: it reverts to FLOOR when its source has ceased to qualify (07 R133). -/
def Hall.recheckDesk (b : BoothId) (h : Hall) (n : SeatId) : Hall :=
  match h.desk? n with
  | some d =>
    match d.relay with
    | .output c o => if h.validSource b c o then h else h.setDesk n { d with relay := .floor }
    | .floor => h
  | none => h

/-- Every relay re-checked, booths in ascending number and desks in list order (07 R133). -/
def Hall.relayRecheck (h : Hall) : Hall :=
  (List.finRange 12).foldl (fun h b => (h.booths.get b).desks.foldl (Hall.recheckDesk b) h) h

/-- Whether a seat hears a floor's map: a seat of the floor, or a desk whose booth serves it (06 R107). -/
def Hall.hearsMap (h : Hall) (f : FloorId) (n : SeatId) (s : Seat) : Bool :=
  match s.desk with
  | some _ => (h.boothOf n).bind h.serving = some f
  | none => h.floorOf s = some f

/-- A change of a LIVE floor's map reported; a floor that is not LIVE is not reported (06 R107). -/
def Hall.mapReport (h : Hall) (f : FloorId) : Hall :=
  if (h.floor f).isLive then (h.retune (h.hearsMap f)).relayRecheck else h

def Hall.mapReportOf (h : Hall) : Option FloorId → Hall
  | some f => h.mapReport f
  | none => h

/-- The content of a channel that is not FREE set; the route update is handed on when it differs (06 R104). -/
def Hall.setContent (h : Hall) (c : ChannelId) (x : Content) : Hall :=
  if (h.channels.get c).use.isSome && (h.channels.get c).content != x then
    { h with channels := h.channels.upd c fun r => { r with content := x } }.route (.channel c x)
  else h

/-- The channel an allocation takes: the named one if FREE, or the lowest FREE (06 R102). -/
def Hall.freeChannel (h : Hall) : Option ChannelId → Option ChannelId
  | some c => if (h.channels.get c).use.isNone then some c else none
  | none => h.channels.lowest fun r => r.use.isNone

/-- A channel filled for an owner (06 R102): OWNED for a LIVE owner, LENT to the carrier of a FOLDED one. -/
def Hall.fillChannel (h : Hall) (c : ChannelId) (owner : FloorId) (origin : ChanOrigin) (l : Lang) : Hall :=
  let hold : ChanHold :=
    match (h.floor owner).state with
    | .folded x => .lent x
    | _ => .owned
  let content : Content := if origin = .original then .floorMix owner else .silence
  ({ h with channels := h.channels.set c ⟨some ⟨hold, owner, some l, origin⟩, content⟩ }).route (.channel c content)

/-- An allocation with its map report (06 R102): the channel taken, or none when not free. -/
def Hall.allocate (h : Hall) (want : Option ChannelId) (owner : FloorId) (origin : ChanOrigin) (l : Lang) :
    Option (Hall × ChannelId) :=
  (h.freeChannel want).map fun c =>
    let g := h.fillChannel c owner origin l
    (g.mapReportOf (g.channels.get c).mapFloor, c)

/-- A freeing (06 R103): the record FREE with SILENCE, its update handed on whatever it carried, its map reported. -/
def Hall.freeing (h : Hall) (c : ChannelId) : Hall :=
  if (h.channels.get c).use.isSome then
    ({ h with channels := h.channels.set c Channel.reset }.route (.channel c .silence)).mapReportOf
      (h.channels.get c).mapFloor
  else h

/-- The use of a channel replaced. -/
def Hall.setUse (h : Hall) (c : ChannelId) (u : ChanUse) : Hall :=
  { h with channels := h.channels.upd c fun r => { r with use := some u } }

/-- Lend (06 R105): OWNED becomes LENT to X; an original channel loses its language. -/
def Hall.lend (h : Hall) (c : ChannelId) (x : FloorId) : Hall :=
  match (h.channels.get c).use with
  | some u =>
    if u.hold = .owned then
      (h.setUse c { u with hold := .lent x, lang := if u.origin = .original then none else u.lang }).mapReport x
    else h
  | none => h

/-- Reserve (06 R105): OWNED or LENT becomes RESERVED with SILENCE; the map it left is reported. -/
def Hall.reserveChannel (h : Hall) (c : ChannelId) : Hall :=
  match (h.channels.get c).use with
  | some u =>
    if u.hold = .reserved then h
    else ((h.setUse c { u with hold := .reserved }).setContent c .silence).mapReportOf (h.channels.get c).mapFloor
  | none => h

/-- Return (06 R105): LENT or RESERVED becomes OWNED; an original channel takes language 0 again. -/
def Hall.giveBack (h : Hall) (c : ChannelId) : Hall :=
  match (h.channels.get c).use with
  | some u =>
    if u.hold = .owned then h
    else
      ((h.setUse c { u with hold := .owned, lang := if u.origin = .original then some 0 else u.lang }).mapReportOf
        (h.channels.get c).mapFloor).mapReport u.owner
  | none => h

/-- Re-lend (06 R105): a LENT channel passes to another carrier; both maps are reported. -/
def Hall.relend (h : Hall) (c : ChannelId) (z : FloorId) : Hall :=
  match (h.channels.get c).use with
  | some u =>
    match u.hold with
    | .lent x => ((h.setUse c { u with hold := .lent z }).mapReport x).mapReport z
    | _ => h
  | none => h

/-- Language taken on floor F (06 R106). -/
def Hall.languageTaken (h : Hall) (f : FloorId) (l : Lang) : Bool :=
  (h.carrying f l).isSome

/-- Whether a floor owns a channel with the language in any state (07 R121 check 4). -/
def Hall.ownsLanguage (h : Hall) (f : FloorId) (l : Lang) : Bool :=
  h.channels.some? fun c => c.use.elim false fun u => u.owner = f && u.lang = some l

/-- The FREE channels counted. -/
def Hall.freeChannels (h : Hall) : Nat :=
  h.channels.rows.countP fun c => c.use.isNone

/-- The answer of CHANNEL_READ for one channel (06 R110). -/
def Hall.channelPayload (h : Hall) (c : ChannelId) : Payload :=
  let target : RouteUpdate := .channel c .silence
  .channel c (h.channels.get c) ((h.channels.get c).mapFloor) (h.routeQueue.any target.sameTarget)
    (h.inFlight.elim false target.sameTarget)

/-- The answer of CHANNEL_READ(ALL) (06 R110). -/
def Hall.channelsPayload (h : Hall) : Payload :=
  .channels (h.channels.rows.map fun c => c.use.map fun u => (u.hold, u.owner, u.lang)) h.freeChannels
    h.routeQueue.length

/-- The frame in flight has gone out, and the next may begin (06 R113). -/
def Hall.frameDone (h : Hall) : Hall :=
  if h.inFlight.isSome then { h with inFlight := none }.startFrame else h

/-- Hall reset and device reset empty the queue and queue all 48 targets (06 R115). -/
def Hall.refillRoutes (h : Hall) : Hall :=
  { h with routeQueue := routeRefill }.startFrame

end Sys2Proof

namespace Sys2Proof.Machine

/-- CHANNEL_READ (06 R110): a channel, or 0xFF for ALL. -/
def execChannelRead (channel : Byte) (s : State) : Host.Outcome State Fault Refusal :=
  request 4 0x57#8 (fun w =>
    if channel = 0xFF#8 then ⟨w, .ok, w.hall.channelsPayload⟩
    else match indexed 32 channel.toNat with
      | some c => ⟨w, .ok, w.hall.channelPayload c⟩
      | none => refusal w .badArgument) s

/-- ROUTE_FRAME_DONE (06 R113). -/
def execRouteFrameDone (s : State) : Host.Outcome State Fault Refusal :=
  event (fun w => { w with hall := w.hall.frameDone }) s

/-- HOLD_ACTIVE (06 R114): no further frame begins. -/
def execHoldActive (s : State) : Host.Outcome State Fault Refusal :=
  event (fun w => { w with hall := { w.hall with hold := true } }) s

/-- HOLD_INACTIVE (06 R114): sending resumes. -/
def execHoldInactive (s : State) : Host.Outcome State Fault Refusal :=
  event (fun w => { w with hall := { w.hall with hold := false }.startFrame }) s

end Sys2Proof.Machine
end

