-- ==== Sys2Proof/Machine/Speech.lean ====
section
/-! DEFINITION. Turn timers (chapter 5) and what every event of the Speech Arbiter is made of (chapter 4): grants, the steps
of a turn end, queue entries joining and leaving, mute flags, holders, and the voice slot arbiter. -/

namespace Sys2Proof

/-! ## Turn timers -/

/-- The value a granted turn loads: none when the current bank is untimed (05 R92). -/
def loadedValue (b : Bank) (carried : Option Nat) : Option Nat :=
  if b.turnLimit = 0 then none else some ((carried.getD b.turnLimit).min b.turnLimit)

/-- A timer as it begins (05 R93). -/
def startTimer (b : Bank) (carried : Option Nat) (priorityMute : Bool) : Option Timer :=
  (loadedValue b carried).map fun v =>
    { loaded := v, remaining := v, ticks := 0, mode := b.turnMode, lead := b.lead,
      phase := if b.lead ≠ 0 ∧ v ≤ b.lead then .lastPeriod else .normal, overrun := 0, running := !priorityMute }

/-- An elapsed second by phase (05 R94, R96). -/
def Timer.second (t : Timer) : Timer :=
  match t.phase with
  | .overrun => { t with overrun := (t.overrun + 1).min 65535 }
  | p =>
    if 1 < t.remaining then
      { t with
        remaining := t.remaining - 1
        phase := if t.lead ≠ 0 ∧ p = .normal ∧ t.remaining - 1 = t.lead then .lastPeriod else p }
    else
      match t.mode with
      | .warn => { t with remaining := 0, phase := .overrun }
      | .cut => { t with remaining := 0 }

/-- One tick of 100 ms (05 R94); a PAUSED timer does not count it. -/
def Timer.tick (t : Timer) : Timer :=
  if t.running then
    if t.ticks + 1 < 10 then { t with ticks := t.ticks + 1 } else { t with ticks := 0 }.second
  else t

/-- A CUT timer that has reached zero (05 R95). -/
def Timer.expired (t : Timer) : Bool :=
  t.mode = .cut && t.remaining = 0 && t.phase != .overrun

/-- The remaining time a stop gives back for a RETURNED entry: none from OVERRUN (05 R97). -/
def Timer.returned (t : Timer) : Option Nat :=
  if t.phase = .overrun then none else some t.remaining

/-! ## Speaker entries and their mutes -/

def Speaker.muted (e : Speaker) : Bool :=
  e.priorityMute || e.linkMute

/-- An entry with its mute flags set: its timer pauses when it gains its first and resumes when its last clears
(05 section 5.6). -/
def Speaker.withMutes (e : Speaker) (priority link : Bool) : Speaker :=
  { e with
    priorityMute := priority
    linkMute := link
    timer :=
      if e.muted = (priority || link) then e.timer
      else e.timer.map fun t => { t with running := !(priority || link) } }

/-- The gate of a slot follows the mute flags of its entry; a changed gate is handed on (04 R64). -/
def Hall.setGate (h : Hall) (n : SlotId) (gate : Bool) : Hall :=
  match h.slots.get n with
  | some v => if v.gateOpen = gate then h else h.setSlot n (some { v with gateOpen := gate })
  | none => h

/-- One entry of a floor's list given its mute flags: nothing when they stand so already. SPEAKERS_CHANGED is raised and the
seat's indicator recomposed otherwise. -/
def Hall.setMutes (h : Hall) (f : FloorId) (e : Speaker) (priority link : Bool) : Hall :=
  if e.priorityMute = priority ∧ e.linkMute = link then h
  else
    ((((h.updFloor f fun x =>
        { x with speakers := x.speakers.map fun y => if y.seat = e.seat then y.withMutes priority link else y }).setGate
        e.slot (!(priority || link))).raise (.speakersChanged f))).recompose e.seat

/-- The priority mute of a floor's whole list recomputed (03 R58, 08 R142): set on every DELEGATE entry when mute-active,
cleared on every entry otherwise. The rules give the entries of one recomputation no order, hence the gates they set and the
route updates that follow none either: the model goes through the list in its own order (log entry 39). -/
def Hall.remute (h : Hall) (f : FloorId) : Hall :=
  (h.floor f).speakers.foldl
    (fun g e =>
      g.setMutes f e (if (h.floor f).muteActive then (e.kind = .delegate || e.priorityMute) else false) e.linkMute) h

/-! ## Queues -/

/-- A change to a floor's queue reported (04 R62). -/
def Hall.queueReport (h : Hall) (f : FloorId) : Hall :=
  (h.raise (.queueChanged f)).recomposeQueue f

/-- A seat's entry leaves a floor's queue. -/
def Hall.unqueue (h : Hall) (f : FloorId) (n : SeatId) : Hall :=
  h.updFloor f fun x => { x with queue := x.queue.filter fun e => e.seat ≠ n }

/-- A queue entry removed with a cause, recorded as the floor's last queue removal (04 R62). -/
def Hall.removeEntry (h : Hall) (f : FloorId) (n : SeatId) (cause : RemovalCause) : Hall :=
  (((h.unqueue f n).updFloor f fun x => { x with lastRemoval := some (n, cause) }).queueReport f).recompose n

/-- Several entries removed one after another. -/
def Hall.removeEntries (h : Hall) (f : FloorId) (ns : List SeatId) (cause : RemovalCause) : Hall :=
  ns.foldl (fun g n => g.removeEntry f n cause) h

/-- An entry joins a queue at a place counted from the head (04 R62). -/
def Hall.joinQueue (h : Hall) (f : FloorId) (at_ : Nat) (e : Waiting) : Hall :=
  ((h.updFloor f fun x => { x with queue := x.queue.insertIdx at_ e }).queueReport f).recompose e.seat

/-- Entries removed from the tail until the queue's length equals the cap (03 R57, 08 R141). -/
def Hall.trimQueue (h : Hall) (f : FloorId) (cause : RemovalCause) : Hall :=
  h.removeEntries f (((h.floor f).queue.drop (h.floor f).bank.cap).reverse.map (·.seat)) cause

/-- The entries among some seats whose seat holds no badge code. -/
def Hall.unbadged (h : Hall) (ns : List SeatId) : List SeatId :=
  ns.filter fun n => !h.badged n

/-! ## Granting and ending turns -/

/-- The kind of an entry after the seat's role (04 R65). -/
def Seat.speakerKind (s : Seat) : SpeakerKind :=
  if s.role = .chair then .chair else .delegate

/-- A grant (04 R65): seat n begins a turn on floor f on a voice slot. -/
def Hall.grant (now : Clock) (h : Hall) (f : FloorId) (n : SeatId) (slot : SlotId) : Hall :=
  let fl := h.floor f
  let entry := fl.queue.find? fun e => e.seat = n
  let kind := (h.seat? n).elim .delegate Seat.speakerKind
  let mute := decide (kind = .delegate) && fl.muteActive
  let timer := if kind = .delegate then startTimer fl.bank (entry.bind (·.remaining)) mute else none
  let speaker : Speaker := ⟨n, kind, slot, now, mute, false, timer⟩
  let g := (h.unqueue f n).updFloor f fun x => { x with speakers := x.speakers ++ [speaker] }
  let g := (g.setSlot slot (some ⟨n, f, !mute⟩)).raise (.speakersChanged f)
  ((g.raiseIf entry.isSome (.queueChanged f)).recompose n).recomposeQueue f

/-- The duration of a turn in whole seconds (04 R66, 05 R90). -/
def turnSeconds (now start : Clock) : Nat :=
  (now - start).toNat / 10

/-- The last turn of a seat written, and its change mark set (04 R66 step 3). -/
def Hall.writeLastTurn (h : Hall) (n : SeatId) (t : LastTurn) : Hall :=
  if (h.seat? n).isSome then (h.updSeat n fun s => { s with lastTurn := some t }).mark n else h

/-- What becomes of the slot of an ended turn: FREE, or kept HELD for the seat it passes to. Either way its update is handed
on (04 R66 step 4; log entry 13). -/
def Hall.releaseSlot (h : Hall) (slot : SlotId) (passed : Bool) : Hall :=
  if passed then h.route (.slot slot (h.slots.get slot)) else h.setSlot slot none

/-- Steps 1 to 5 of a turn end (04 R66), without the quiet report. -/
def Hall.closeTurn (now : Clock) (h : Hall) (f : FloorId) (n : SeatId) (cause : TurnCause) (passed : Bool) : Hall :=
  match (h.floor f).speakers.find? (fun e => e.seat = n) with
  | some e =>
    let g := h.updFloor f fun x => { x with speakers := x.speakers.filter fun y => y.seat ≠ n }
    let g := g.writeLastTurn n ⟨cause, f, turnSeconds now e.start, e.timer.elim 0 (·.overrun)⟩
    ((g.releaseSlot e.slot passed).raise (.speakersChanged f)).recompose n
  | none => h

/-- Several turns of one floor ended one after another, without quiet reports. -/
def Hall.closeTurns (now : Clock) (h : Hall) (f : FloorId) (ns : List SeatId) (cause : TurnCause) : Hall :=
  ns.foldl (fun g n => g.closeTurn now f n cause false) h

/-- One excess delegate closed, and returned to the head of the queue where the cap is above 0 and a pool entry is free
(03 R56, 08 R140). -/
def Hall.closeExcessOne (now : Clock) (f : FloorId) (cause : TurnCause) (h : Hall) (e : Speaker) : Hall :=
  let g := h.closeTurn now f e.seat cause false
  if 0 < (g.floor f).bank.cap ∧ 0 < g.poolFree then
    g.joinQueue f 0 ⟨e.seat, now, .returned, e.timer.bind Timer.returned, g.inGrace e.seat⟩
  else g

/-- The delegates beyond the limit, newest first. -/
def Floor.excess (f : Floor) : List Speaker :=
  ((f.speakers.filter fun e => e.kind = .delegate).drop f.bank.limit).reverse

/-- Every delegate beyond the limit closed, newest first (03 R56, 08 R140). -/
def Hall.closeExcess (now : Clock) (h : Hall) (f : FloorId) (cause : TurnCause) : Hall :=
  (h.floor f).excess.foldl (Hall.closeExcessOne now f cause) h

/-! ## The voice slot arbiter -/

/-- A floor waits (04 R67). -/
def Floor.waits (f : Floor) : Bool :=
  f.isLive && f.bank.autoAdvance && (f.bank.mode = .opened || f.bank.mode = .request) &&
    f.delegates < f.bank.limit && !f.muteActive && f.firstReachable.isSome

/-- Of some floors, the one of highest precedence, and on a tie the lower number (03 section 3.2). -/
def Hall.ranked (h : Hall) (fs : List FloorId) : Option FloorId :=
  fs.foldl
    (fun best f =>
      match best with
      | some g => if (h.floor g).precedence < (h.floor f).precedence then some f else some g
      | none => some f) none

/-- The waiting floor the arbiter picks. -/
def Hall.nextWaiting (h : Hall) : Option FloorId :=
  h.ranked (h.floors.positions Floor.waits)

/-- One hand-out: the picked floor's first reachable entry granted on the lowest FREE slot, or none (04 R68). -/
def Hall.handOut (now : Clock) (h : Hall) : Option Hall :=
  match h.freeSlot, h.nextWaiting with
  | some slot, some f => (h.floor f).firstReachable.map fun e => h.grant now f e.seat slot
  | _, _ => none

/-- Hand-outs while they are possible, at most `k`. -/
def Hall.handOuts (now : Clock) : Nat → Hall → Hall
  | 0, h => h
  | k + 1, h =>
    match h.handOut now with
    | some g => Hall.handOuts now k g
    | none => h

/-- The voice slot arbiter's run (04 R68): each hand-out takes one of the 16 slots, so 16 hand-outs are all. -/
def Hall.arbitrate (now : Clock) (h : Hall) : Hall :=
  h.handOuts now 16

end Sys2Proof
end

