-- ==== Sys2Proof/Machine/Banks.lean ====
section
/-! DEFINITION. Setup banks (chapter 3): validity and writing, the adoption pass (08 R145), the completed swap (03 R56 to R59),
the quiet report (03 R54) with the turn end that makes it (04 R66), and the bank requests. -/

namespace Sys2Proof

/-! ## Writing -/

/-- No language stands in two entries of a listen table. -/
def listenDistinct (t : Tbl (Option Lang) 16) : Bool :=
  (t.rows.filterMap id).Nodup

/-- A valid bank, beyond the ranges of its fields (03 section 3.5). -/
def Bank.valid (b : Bank) : Bool :=
  (b.turnLimit = 0 || b.lead < b.turnLimit) && listenDistinct b.listen

/-- The fields the items name; absent when an item names none, or a field or slot is named twice (03 R51 step 1). -/
def itemFields (items : List BankItem) : Option (List (BankField × Nat)) :=
  match items.mapM fun it => (bankFieldOf it.field).map fun f => (f, it.value.toNat) with
  | some fs => if (fs.map (·.1)).Nodup then some fs else none
  | none => none

/-- The items merged into a bank; absent when a value is out of its range (03 R51 step 4). -/
def Bank.merge (b : Bank) (fs : List (BankField × Nat)) : Option Bank :=
  fs.foldlM (fun x f => x.withField f.1 f.2) b

/-! ## Adopted listen entries -/

/-- Whether a listen table holds a language. -/
def holdsLang (t : Tbl (Option Lang) 16) (l : Lang) : Bool :=
  t.some? fun e => e = some l

/-- The lowest-numbered EMPTY slot. -/
def emptySlot (t : Tbl (Option Lang) 16) : Option ListenSlot :=
  t.lowest Option.isNone

/-- One language of a folded floor offered to a carrier (08 R145). -/
def Floor.adopt (src : FloorId) (f : Floor) (entry : Option Lang) : Floor :=
  match entry with
  | none => f
  | some l =>
    if holdsLang f.bank.listen l || (f.adopted.getD []).any (fun a => a.lang = l) then f
    else
      match emptySlot f.bank.listen with
      | some k => { f.setListen k (some l) with adopted := some (f.adopted.getD [] ++ [⟨l, src, .slot k⟩]) }
      | none => { f with adopted := some (f.adopted.getD [] ++ [⟨l, src, .short⟩]) }

/-- The carrier's record after the pass over some folded floors, each with its current listen table in slot order. -/
def Hall.adoptAll (h : Hall) (f : FloorId) (folded : List FloorId) : Floor :=
  folded.foldl (fun fl y => (h.floor y).bank.listen.rows.foldl (Floor.adopt y) fl) (h.floor f)

def AdoptedAt.isSlot : AdoptedAt → Bool
  | .slot _ => true
  | _ => false

/-- The adoption pass on a carrier over the floors folded into it (08 R145). -/
def Hall.adoptionPassOver (h : Hall) (f : FloorId) (folded : List FloorId) : Hall :=
  let fl := h.adoptAll f folded
  let new := (fl.adopted.getD []).drop ((h.floor f).adopted.getD []).length
  let g := (h.updFloor f fun _ => fl).raiseIf (new.any fun a => a.place = .short) (.adoptShort f)
  if new.any fun a => a.place.isSlot then g.listenReport f else g

def Hall.adoptionPass (h : Hall) (f : FloorId) : Hall :=
  h.adoptionPassOver f (h.foldedInto f)

/-- A bank with one listen entry replaced. -/
def Bank.setListen (b : Bank) (k : ListenSlot) (l : Option Lang) : Bank :=
  { b with listen := b.listen.set k l }

/-- One adopted entry taken from the outgoing bank to the new current one (03 R59): the two banks and the entries so far. -/
def carryAdopted (acc : Bank × Bank × List Adopted) (a : Adopted) : Bank × Bank × List Adopted :=
  let out : Bank :=
    match a.place with
    | .slot k => acc.1.setListen k none
    | _ => acc.1
  if holdsLang acc.2.1.listen a.lang then (out, acc.2.1, acc.2.2 ++ [{ a with place := .served }])
  else
    match emptySlot acc.2.1.listen with
    | some k => (out, acc.2.1.setListen k (some a.lang), acc.2.2 ++ [{ a with place := .slot k }])
    | none => (out, acc.2.1, acc.2.2 ++ [{ a with place := .short }])

/-- Every adopted entry carried across, once the current bank has flipped (03 R59). -/
def Floor.carryAll (f : Floor) : Floor :=
  match f.sess with
  | some s =>
    let r := (f.adopted.getD []).foldl carryAdopted (s.bank s.current.other, s.bank s.current, [])
    { f with
      sess := some ((s.setBank s.current.other r.1).setBank s.current r.2.1)
      adopted := some r.2.2 }
  | none => f

/-- The fourth step of a completed swap (03 R59). -/
def Hall.swapListen (h : Hall) (f : FloorId) : Hall :=
  if (h.floor f).isLive then
    if (h.foldedInto f).isEmpty then h.listenReport f
    else
      let g := (h.updFloor f Floor.carryAll).adoptionPass f
      (g.raiseIf (((g.floor f).adopted.getD []).any fun a => a.place = .short) (.adoptShort f)).listenReport f
  else h

/-! ## The completed swap -/

/-- The non-current bank made current, with nothing pending (03 R56). -/
def Floor.flip (f : Floor) : Floor :=
  { f with sess := f.sess.map (fun s => { s with current := s.current.other }), swapPending := false }

/-- A floor's speakers and queue entries without a badge code ended and removed with NO_BADGE, when its bank requires one
(03 R57 step 1). The rule gives no order: speakers go in list order, then entries in queue order from the head
(log entry 32). -/
def Hall.requireBadges (now : Clock) (h : Hall) (f : FloorId) : Hall :=
  if (h.floor f).bank.badgeRequired then
    let g := h.closeTurns now f (h.unbadged ((h.floor f).speakers.map (·.seat))) .noBadge
    g.removeEntries f (g.unbadged ((g.floor f).queue.map (·.seat))) .noBadge
  else h

/-- A completed swap: the steps of 03 R56, R57, R58 and R59 in order. -/
def Hall.completeSwap (now : Clock) (h : Hall) (f : FloorId) : Hall :=
  let g := (h.updFloor f Floor.flip).closeExcess now f .bankForced
  let g := (g.requireBadges now f).trimQueue f .queueTrimmed
  (g.remute f).swapListen f

/-- The quiet report taken by the Floor Table: a pending swap completes, and SWAP_DONE is raised (03 R54). -/
def Hall.quiet (now : Clock) (h : Hall) (f : FloorId) : Hall :=
  if (h.floor f).isLive && (h.floor f).swapPending then (h.completeSwap now f).raise (.swapDone f) else h

/-- A turn end with its quiet report (04 R66). -/
def Hall.endTurn (now : Clock) (h : Hall) (f : FloorId) (n : SeatId) (cause : TurnCause) : Hall :=
  let wasDelegate := (h.floor f).speakers.any fun e => e.seat = n && e.kind = .delegate
  let g := h.closeTurn now f n cause false
  if wasDelegate && (g.floor f).delegates = 0 then g.quiet now f else g

/-- The oldest delegate's turn ended with a cause and its slot passed to another seat, granted on it (04 R72, R75, R79). -/
def Hall.passTurn (now : Clock) (h : Hall) (f : FloorId) (n : SeatId) (cause : TurnCause) : Hall :=
  match (h.floor f).oldestDelegate with
  | some e => (h.closeTurn now f e.seat cause true).grant now f n e.slot
  | none => h

/-- The oldest delegate's turn ended with a cause (04 R75). -/
def Hall.endOldest (now : Clock) (h : Hall) (f : FloorId) (cause : TurnCause) : Hall :=
  match (h.floor f).oldestDelegate with
  | some e => h.endTurn now f e.seat cause
  | none => h

end Sys2Proof

namespace Sys2Proof.Machine

/-- The world with its floor blocks replaced. -/
def inHall (w : World) (h : Hall) : World :=
  { w with hall := h }

/-- A floor argument: its number, or BAD_ARGUMENT. -/
def withFloor (w : World) (floor : Byte) (k : FloorId → Handled) : Handled :=
  match numbered 6 floor.toNat with
  | some f => k f
  | none => refusal w .badArgument

/-- A floor argument naming a floor that is not CLOSED; a CLOSED one is refused WRONG_STATE. -/
def withSession (w : World) (floor : Byte) (k : FloorId → Session → Handled) : Handled :=
  withFloor w floor fun f =>
    match (w.hall.floor f).session? with
    | some ss => k f ss
    | none => refusal w .wrongState

/-- BANK_WRITE (03 R51, R52): the checks in order, then the non-current bank replaced whole. -/
def execBankWrite (floor : Byte) (items : List BankItem) (s : State) : Host.Outcome State Fault Refusal :=
  request (4 + 3 * items.length) 0x34#8 (fun w =>
    withFloor w floor fun f =>
      match itemFields items with
      | none => refusal w .badArgument
      | some fs =>
        match (w.hall.floor f).session? with
        | none => refusal w .wrongState
        | some ss =>
          if (w.hall.floor f).swapPending then refusal w .swapPending
          else match (ss.bank ss.current.other).merge fs with
            | none => refusal w .badArgument
            | some x =>
              if x.valid then
                done (inHall w (w.hall.updFloor f fun fl => { fl with sess := some (ss.setBank ss.current.other x) }))
              else refusal w .badArgument) s

/-- The listen entries of a carrier's current table that were written by adoption (03 R50). -/
def adoptedSlots (f : Floor) : List (ListenSlot × FloorId) :=
  (f.adopted.getD []).filterMap fun a =>
    match a.place with
    | .slot k => some (k, a.floor)
    | _ => none

/-- BANK_READ (03 R50). -/
def execBankRead (floor bank : Byte) (s : State) : Host.Outcome State Fault Refusal :=
  request 5 0x35#8 (fun w =>
    match bankNameOf bank with
    | none => refusal w .badArgument
    | some name =>
      withSession w floor fun f ss =>
        let which : BankId :=
          match name with
          | .named i => i
          | .current => ss.current
        let isCurrent := decide (which = ss.current)
        ⟨w, .ok, .bank (ss.bank which) which isCurrent (w.hall.floor f).swapPending
          (if isCurrent then adoptedSlots (w.hall.floor f) else [])⟩) s

/-- BANK_SWAP(NORMAL) (03 R53): refused while one is pending, completed at once on a quiet floor, pending otherwise. -/
def execBankSwapNormal (floor : Byte) (s : State) : Host.Outcome State Fault Refusal :=
  request 5 0x36#8 (fun w =>
    withSession w floor fun f _ =>
      if (w.hall.floor f).swapPending then refusal w .swapPending
      else if !(w.hall.floor f).isLive || (w.hall.floor f).delegates = 0 then
        done (inHall w ((w.hall.completeSwap w.clock f).arbitrate w.clock))
      else ⟨inHall w (w.hall.updFloor f fun fl => { fl with swapPending := true }), .accepted, .empty⟩) s

/-- BANK_SWAP(FORCE) (03 R53): any pending swap cleared, the swap completed at once. -/
def execBankSwapForce (floor : Byte) (s : State) : Host.Outcome State Fault Refusal :=
  request 5 0x36#8 (fun w =>
    withSession w floor fun f _ => done (inHall w ((w.hall.completeSwap w.clock f).arbitrate w.clock))) s

/-- BANK_CANCEL (03 R55). -/
def execBankCancel (floor : Byte) (s : State) : Host.Outcome State Fault Refusal :=
  request 4 0x37#8 (fun w =>
    withSession w floor fun f _ =>
      if (w.hall.floor f).swapPending then
        done (inHall w (w.hall.updFloor f fun fl => { fl with swapPending := false }))
      else refusal w .wrongState) s

end Sys2Proof.Machine
end

