-- ==== Sys2Proof/Machine/Discussion.lean ====
section
/-! DEFINITION. Speech Arbiter (chapter 4): delegate and chair keys, priority, link, badge and retirement reports of seats that
speak or wait, and the host speech requests. -/

namespace Sys2Proof

/-! ## Priority (04 section 4.8) -/

/-- A seat joins an ascending list of seats that holds none twice. -/
def insertSeat (n : SeatId) : List SeatId → List SeatId
  | [] => [n]
  | x :: xs => if n < x then n :: x :: xs else if n = x then x :: xs else x :: insertSeat n xs

/-- The DELEGATE entries of a floor, in list order. -/
def Floor.delegateSeats (f : Floor) : List SeatId :=
  (f.speakers.filter fun e => e.kind = .delegate).map (·.seat)

/-- Every DELEGATE entry of a floor ended PRIORITY_CLOSE, in list order (04 R76). -/
def Hall.priorityClose (now : Clock) (h : Hall) (f : FloorId) : Hall :=
  (h.floor f).delegateSeats.foldl (fun g n => g.endTurn now f n .priorityClose) h

/-- The current priority action of a floor applied (04 R76). -/
def Hall.priorityAct (now : Clock) (h : Hall) (f : FloorId) : Hall :=
  match (h.floor f).bank.action with
  | .muteWhileHeld => h.remute f
  | .closeAll => h.priorityClose now f
  | .closeAndClear =>
    let g := h.priorityClose now f
    g.removeEntries f ((g.floor f).queue.map (·.seat)) .cleared

/-- PRIORITY_DOWN from a chair on a floor (04 R76). -/
def Hall.priorityDown (now : Clock) (h : Hall) (f : FloorId) (n : SeatId) : Hall :=
  (h.updFloor f fun x => { x with holders := insertSeat n x.holders }).priorityAct now f

/-- After a member has left a holder set: an emptied set lifts the priority mute (04 R77). -/
def Hall.liftIfEmpty (h : Hall) (f : FloorId) : Hall :=
  if (h.floor f).held then h else h.remute f

/-- A seat leaves one floor's holder set (04 R77). -/
def Hall.leaveHolder (n : SeatId) (h : Hall) (f : FloorId) : Hall :=
  if (h.floor f).holders.contains n then
    (h.updFloor f fun x => { x with holders := x.holders.filter fun m => m ≠ n }).liftIfEmpty f
  else h

/-- A seat leaves any holder set (04 R77, R86); a seat in none changes nothing. -/
def Hall.leaveHolders (h : Hall) (n : SeatId) : Hall :=
  (List.finRange 6).foldl (Hall.leaveHolder n) h

/-! ## Keys -/

/-- What a block does with a key: the hall after it, and the cause when it refuses. -/
structure KeyTaken where
  hall : Hall
  cause : Option KeyRefusal
deriving DecidableEq, Repr

def taken (h : Hall) : KeyTaken :=
  ⟨h, none⟩

def turnedDown (h : Hall) (c : KeyRefusal) : KeyTaken :=
  ⟨h, some c⟩

/-- A speaking or waiting seat withdraws (04 R69, R74); absent when it is idle. -/
def Hall.withdraw (now : Clock) (h : Hall) (n : SeatId) : Option Hall :=
  match h.speakerFloor n, h.queueFloor n with
  | some f, _ => some (h.endTurn now f n .released)
  | none, some f => some (h.removeEntry f n .cancelled)
  | none, none => none

/-- A press joins the tail of the queue, where the pool has a free entry (04 R70, R71). -/
def Hall.pressQueue (now : Clock) (h : Hall) (f : FloorId) (n : SeatId) : KeyTaken :=
  if h.poolFree = 0 then turnedDown h .poolEmpty
  else taken (h.joinQueue f (h.floor f).queue.length ⟨n, now, .press, none, false⟩)

/-- MIC from an idle delegate on a floor in OPEN mode (04 R70). -/
def Hall.micOpen (now : Clock) (h : Hall) (f : FloorId) (n : SeatId) : KeyTaken :=
  let fl := h.floor f
  let queue := if fl.queue.length < fl.bank.cap then h.pressQueue now f n else turnedDown h .floorFull
  if fl.muteActive then turnedDown h .priorityActive
  else if fl.delegates < fl.bank.limit then
    match h.freeSlot with
    | some slot => taken (h.grant now f n slot)
    | none => queue
  else queue

/-- MIC from an idle delegate on a floor in REQUEST mode (04 R71). -/
def Hall.micRequest (now : Clock) (h : Hall) (f : FloorId) (n : SeatId) : KeyTaken :=
  if (h.floor f).queue.length < (h.floor f).bank.cap then h.pressQueue now f n else turnedDown h .queueFull

/-- MIC from an idle delegate on a floor in OVERRIDE mode (04 R72). -/
def Hall.micOverride (now : Clock) (h : Hall) (f : FloorId) (n : SeatId) : KeyTaken :=
  let fl := h.floor f
  if fl.muteActive then turnedDown h .priorityActive
  else if fl.delegates < fl.bank.limit then
    match h.freeSlot with
    | some slot => taken (h.grant now f n slot)
    | none => turnedDown h .noVoiceSlot
  else taken (h.passTurn now f n .overridden)

/-- MIC from an idle delegate, by the floor's mode (04 R70 to R73). -/
def Hall.micDelegate (now : Clock) (h : Hall) (f : FloorId) (n : SeatId) : KeyTaken :=
  match (h.floor f).bank.mode with
  | .opened => h.micOpen now f n
  | .request => h.micRequest now f n
  | .override => h.micOverride now f n
  | .chairOnly => turnedDown h .chairOnly

/-- MIC from an idle chair (04 R74). -/
def Hall.micChair (now : Clock) (h : Hall) (f : FloorId) (n : SeatId) : KeyTaken :=
  match h.freeSlot with
  | some slot => taken (h.grant now f n slot)
  | none => turnedDown h .noVoiceSlot

/-- MIC from a delegate or chair seat on its floor (04 R69 to R74). -/
def Hall.mic (now : Clock) (h : Hall) (f : FloorId) (n : SeatId) (role : Role) : KeyTaken :=
  match h.withdraw now n with
  | some g => taken g
  | none => if role = .chair then h.micChair now f n else h.micDelegate now f n

/-- CANCEL: a withdrawal, ignored from an idle seat (04 R69, R74). -/
def Hall.cancel (now : Clock) (h : Hall) (n : SeatId) : KeyTaken :=
  taken ((h.withdraw now n).getD h)

/-- NEXT from a chair on a floor (04 R75). -/
def Hall.nextKey (now : Clock) (h : Hall) (f : FloorId) : KeyTaken :=
  let fl := h.floor f
  match decide (fl.bank.limit ≤ fl.delegates), fl.firstReachable with
  | true, some e => taken (h.passTurn now f e.seat .nextClosed)
  | true, none => taken (h.endOldest now f .nextClosed)
  | false, some e =>
    match h.freeSlot with
    | some slot => taken (h.grant now f e.seat slot)
    | none => turnedDown h .noVoiceSlot
  | false, none => taken h

/-! ## Reports of the Seat Table (04 section 4.10) -/

/-- The link mute of a speaking seat set or cleared; SPEAKERS_CHANGED is raised (04 R85). -/
def Hall.setLinkMute (h : Hall) (n : SeatId) (mute : Bool) : Hall :=
  match h.speakerFloor n, h.speaker? n with
  | some f, some e => (h.setMutes f e e.priorityMute mute).raise (.speakersChanged f)
  | _, _ => h

/-- The unreachable mark of a waiting seat set or cleared; QUEUE_CHANGED is raised (04 R85). -/
def Hall.setUnreachable (h : Hall) (n : SeatId) (mark : Bool) : Hall :=
  match h.queueFloor n with
  | some f =>
    (h.updFloor f fun x =>
      { x with queue := x.queue.map fun e => if e.seat = n then { e with unreachable := mark } else e }).queueReport f
  | none => h

/-- Link lost or regained, by what the seat holds (04 R85). -/
def Hall.speechLink (now : Clock) (h : Hall) (n : SeatId) (lost : Bool) : Hall :=
  if h.speaks n || h.queued n then ((h.setLinkMute n lost).setUnreachable n lost).arbitrate now else h

/-- The seat's turn ends or its entry is removed, each with its own cause. -/
def Hall.endRoles (now : Clock) (h : Hall) (n : SeatId) (turn : TurnCause) (removal : RemovalCause) : Hall :=
  match h.speakerFloor n, h.queueFloor n with
  | some f, _ => h.endTurn now f n turn
  | none, some f => h.removeEntry f n removal
  | none, none => h

/-- Link gone and seat retired: every role of the seat ends (04 R86). -/
def Hall.speechGone (now : Clock) (h : Hall) (n : SeatId) (turn : TurnCause) (removal : RemovalCause) : Hall :=
  ((h.endRoles now n turn removal).leaveHolders n).arbitrate now

/-- Badge removed: taken against the current bank of the seat's floor (04 R87). -/
def Hall.badgeRemoved (now : Clock) (h : Hall) (n : SeatId) : Hall :=
  match (h.seat? n).bind h.floorOf with
  | some f =>
    if (h.floor f).bank.badgeRequired then (h.endRoles now n .badgeRemoved .badgeRemoved).arbitrate now
    else h
  | none => h

/-! ## Host speech requests (04 section 4.9) -/

/-- Whether a seat may be granted on a floor at the host's word (04 R79 check 4). -/
def Hall.grantable (h : Hall) (f : FloorId) (n : SeatId) (s : Seat) : Bool :=
  s.role != .desk && h.floorOf s = some f && s.reachable && !h.speaks n &&
    (s.badge.isSome || !(h.floor f).bank.badgeRequired)

/-- A seat waits on no other floor than f. A seat in a list stands on its own floor, once (04 R61), so that no run finds an
entry to take away here. -/
def Hall.waitsOnlyOn (h : Hall) (f : FloorId) (n : SeatId) : Hall :=
  { h with
    floors := h.floors.imap fun g x => if g = f then x else { x with queue := x.queue.filter fun e => e.seat ≠ n } }

/-- Whether a seat may be queued on a floor at the host's word (04 R81 check 4). -/
def Hall.insertable (h : Hall) (f : FloorId) (s : Seat) : Bool :=
  s.role = .delegate && h.floorOf s = some f && s.link != .gone &&
    (s.badge.isSome || !(h.floor f).bank.badgeRequired)

/-- The position of the first reachable entry, counted from 1. -/
def Floor.firstReachablePos (f : Floor) : Option Nat :=
  (f.queue.findIdx? fun e => !e.unreachable).map (· + 1)

end Sys2Proof

namespace Sys2Proof.Machine

/-- A seat argument: its record, or BAD_ARGUMENT outside 1 to 256, NOT_FOUND where the number has no record. -/
def withSeat (w : World) (seat : Half) (k : SeatId → Seat → Handled) : Handled :=
  match numbered 256 seat.toNat with
  | none => refusal w .badArgument
  | some n =>
    match w.hall.seat? n with
    | some r => k n r
    | none => refusal w .notFound

/-- A floor argument naming a LIVE floor; any other state is refused WRONG_STATE. -/
def withLive (w : World) (floor : Byte) (k : FloorId → Handled) : Handled :=
  withFloor w floor fun f => if (w.hall.floor f).isLive then k f else refusal w .wrongState

/-- A Speech Arbiter event at the host's word, closed by the arbiter run (04 R68). -/
def spoken (w : World) (h : Hall) : World :=
  inHall w (h.arbitrate w.clock)

/-- Checks 4 to 6 of GRANT on a named seat, and the grant (04 R79). -/
def grantSeat (w : World) (f : FloorId) (n : SeatId) (r : Seat) (displace : Bool) : Handled :=
  if !w.hall.grantable f n r then refusal w .wrongState
  else if r.role = .delegate && decide ((w.hall.floor f).bank.limit ≤ (w.hall.floor f).delegates) then
    if displace then
      match (w.hall.floor f).oldestDelegate with
      | some e => ⟨spoken w ((w.hall.waitsOnlyOn f n).passTurn w.clock f n .revoked), .ok, .granted e.slot⟩
      | none => refusal w .floorFull
    else refusal w .floorFull
  else
    match w.hall.freeSlot with
    | some slot => ⟨spoken w ((w.hall.waitsOnlyOn f n).grant w.clock f n slot), .ok, .granted slot⟩
    | none => refusal w .noVoiceSlot

/-- The seat GRANT names: HEAD is the first reachable entry's (04 R79 check 3). -/
def grantNamed (w : World) (f : FloorId) (seat : Option SeatId) : Option (SeatId × Seat) :=
  match seat with
  | some n => (w.hall.seat? n).map fun r => (n, r)
  | none => (w.hall.floor f).firstReachable.bind fun e => (w.hall.seat? e.seat).map fun r => (e.seat, r)

/-- GRANT (04 R79). -/
def execGrant (floor : Byte) (seat : Half) (displace : Byte) (s : State) : Host.Outcome State Fault Refusal :=
  request 7 0x40#8 (fun w =>
    match grantSeatOf seat, displaceOf displace with
    | some named, some d =>
      withLive w floor fun f =>
        match grantNamed w f named with
        | some (n, r) => grantSeat w f n r d
        | none => refusal w .notFound
    | _, _ => refusal w .badArgument) s

/-- CLOSE_MIC (04 R80). -/
def execCloseMic (seat : Half) (s : State) : Host.Outcome State Fault Refusal :=
  request 5 0x41#8 (fun w =>
    withSeat w seat fun n _ =>
      match w.hall.speakerFloor n with
      | some f => done (spoken w (w.hall.endTurn w.clock f n .revoked))
      | none => refusal w .wrongState) s

/-- Checks 4 to 8 of QUEUE_INSERT, and the entry (04 R81). -/
def insertSeatAt (w : World) (f : FloorId) (n : SeatId) (r : Seat) (pos : Nat) : Handled :=
  let fl := w.hall.floor f
  if !w.hall.insertable f r then refusal w .wrongState
  else if w.hall.speaks n || w.hall.queued n then refusal w .seatBusy
  else if fl.queue.length + 1 < pos then refusal w .badArgument
  else if fl.bank.cap ≤ fl.queue.length then refusal w .queueFull
  else if w.hall.poolFree = 0 then refusal w .poolEmpty
  else done (spoken w (w.hall.joinQueue f (pos - 1) ⟨n, w.clock, .hostInsert, none, r.inGrace⟩))

/-- QUEUE_INSERT (04 R81). -/
def execQueueInsert (floor : Byte) (seat : Half) (position : Byte) (s : State) : Host.Outcome State Fault Refusal :=
  request 7 0x42#8 (fun w =>
    match numbered 6 floor.toNat, numbered 256 seat.toNat with
    | some f, some n =>
      if position.toNat = 0 then refusal w .badArgument
      else if !(w.hall.floor f).isLive then refusal w .wrongState
      else match w.hall.seat? n with
        | some r => insertSeatAt w f n r position.toNat
        | none => refusal w .notFound
    | _, _ => refusal w .badArgument) s

/-- QUEUE_REMOVE (04 R82). -/
def execQueueRemove (seat : Half) (s : State) : Host.Outcome State Fault Refusal :=
  request 5 0x43#8 (fun w =>
    withSeat w seat fun n _ =>
      match w.hall.queueFloor n with
      | some f => done (spoken w (w.hall.removeEntry f n .removed))
      | none => refusal w .wrongState) s

/-- QUEUE_CLEAR (04 R82): nothing changes on an empty queue. -/
def execQueueClear (floor : Byte) (s : State) : Host.Outcome State Fault Refusal :=
  request 4 0x44#8 (fun w =>
    withLive w floor fun f =>
      if (w.hall.floor f).queue.isEmpty then done w
      else done (spoken w (w.hall.removeEntries f ((w.hall.floor f).queue.map (·.seat)) .cleared))) s

/-- FLOOR_PRIORITY(ON) (04 R78). -/
def execFloorPriorityOn (floor : Byte) (s : State) : Host.Outcome State Fault Refusal :=
  request 5 0x45#8 (fun w =>
    withLive w floor fun f =>
      done (spoken w
        ((w.hall.updFloor f fun x => { x with requestHolds := true }).priorityAct w.clock f))) s

/-- FLOOR_PRIORITY(OFF) (04 R78): nothing changes while REQUEST is absent. -/
def execFloorPriorityOff (floor : Byte) (s : State) : Host.Outcome State Fault Refusal :=
  request 5 0x45#8 (fun w =>
    withLive w floor fun f =>
      if (w.hall.floor f).requestHolds then
        done (spoken w ((w.hall.updFloor f fun x => { x with requestHolds := false }).liftIfEmpty f))
      else done w) s

/-- SPEAKERS_READ (04 R83). -/
def execSpeakersRead (floor : Byte) (s : State) : Host.Outcome State Fault Refusal :=
  request 4 0x46#8 (fun w =>
    withFloor w floor fun f =>
      match (w.hall.floor f).state with
      | .closed => refusal w .wrongState
      | .folded c => ⟨w, .ok, .speakers (some c) []⟩
      | .live => ⟨w, .ok, .speakers none (w.hall.floor f).speakers⟩) s

/-- The answer of QUEUE_READ from a position on (04 R83). -/
def queuePayload (h : Hall) (f : FloorId) (first : Nat) (carrier : Option FloorId) (q : List Waiting) : Payload :=
  .queue carrier ((q.drop (first - 1)).take 16) (decide (first - 1 + 16 < q.length))
    (if carrier.isSome then none else (h.floor f).firstReachablePos) q.length (h.floor f).bank.cap h.poolFree
    (h.floor f).lastRemoval

/-- QUEUE_READ (04 R83). -/
def execQueueRead (floor first : Byte) (s : State) : Host.Outcome State Fault Refusal :=
  request 5 0x47#8 (fun w =>
    withFloor w floor fun f =>
      if first.toNat = 0 then refusal w .badArgument
      else match (w.hall.floor f).state with
        | .closed => refusal w .wrongState
        | .folded c => ⟨w, .ok, queuePayload w.hall f first.toNat (some c) []⟩
        | .live => ⟨w, .ok, queuePayload w.hall f first.toNat none (w.hall.floor f).queue⟩) s

end Sys2Proof.Machine
end

