-- ==== Sys2Proof/Machine/Booths.lean ====
section
/-! DEFINITION. Interpretation Unit (chapter 7): outputs and their states, desk keys and the interlock, relays, desks losing
their link, outputs held and restored, the booth requests, and the expiry of a fallback delay. -/

namespace Sys2Proof

/-! ## Outputs -/

/-- The state of an output that has a language replaced. -/
def Hall.setOutState (h : Hall) (b : BoothId) (o : Out) (st : OutState) : Hall :=
  h.setOutput b o { h.output b o with use := (h.output b o).use.map fun u => { u with state := st } }

/-- The content of an output's channel set (06 R104). -/
def Hall.outContent (h : Hall) (b : BoothId) (o : Out) (x : Content) : Hall :=
  match (h.output b o).chan? with
  | some c => h.setContent c x
  | none => h

/-- The most recent desk to leave LIVE recorded. -/
def Hall.setLastRelease (h : Hall) (b : BoothId) (o : Out) (n : SeatId) (cause : ReleaseCause) : Hall :=
  h.setOutput b o { h.output b o with lastRelease := some (n, cause) }

/-- Content FLOOR_MIX of the booth's serving floor. -/
def Hall.mixContent (h : Hall) (b : BoothId) (o : Out) : Hall :=
  match h.serving b with
  | some f => h.outContent b o (.floorMix f)
  | none => h

/-- An output enters FALLBACK, and BOOTH_FALLBACK is raised (07 R119). -/
def Hall.enterFallback (h : Hall) (b : BoothId) (o : Out) : Hall :=
  ((h.setOutState b o .fallback).mixContent b o).raise (.boothFallback b)

/-- An output enters SILENT, with its fallback delay started; a delay of 0 makes it FALLBACK at once (07 R118). -/
def Hall.enterSilent (h : Hall) (b : BoothId) (o : Out) : Hall :=
  let g := (h.setOutState b o (.silent ((h.booths.get b).delay * 10))).outContent b o .silence
  if (h.booths.get b).delay = 0 then g.enterFallback b o else g

/-- The desk state of a seat set. -/
def Hall.setDeskLive (h : Hall) (n : SeatId) (live : Bool) : Hall :=
  match h.desk? n with
  | some d => h.setDesk n { d with live := live }
  | none => h

/-- The live desk of an output goes OFF, recorded as last release; nothing when the output is not LIVE. -/
def Hall.takeOff (h : Hall) (b : BoothId) (o : Out) (cause : ReleaseCause) : Hall :=
  match (h.output b o).liveDesk with
  | some n => (h.setDeskLive n false).setLastRelease b o n cause
  | none => h

/-- The output on which a LIVE desk stands: its selected output of its booth (07 R128). -/
def Hall.liveOutput (h : Hall) (n : SeatId) : Option (BoothId × Out) :=
  match h.boothOf n, h.desk? n with
  | some b, some d => if d.live then some (b, d.selected) else none
  | _, _ => none

/-- A LIVE desk goes OFF and its output enters SILENT (07 R127, R124 step 1, R135); an OFF desk is left. -/
def Hall.deskLeaves (h : Hall) (n : SeatId) (cause : ReleaseCause) : Hall :=
  match h.liveOutput n with
  | some (b, o) => ((h.setDeskLive n false).setLastRelease b o n cause).enterSilent b o
  | none => h

/-- Steps 1 to 4 of the clearing of an output (07 R122); an UNUSED output is passed over. -/
def Hall.clearOutput (h : Hall) (b : BoothId) (o : Out) (cause : ReleaseCause) : Hall :=
  match (h.output b o).use with
  | some u =>
    let g := h.takeOff b o cause
    ((g.setOutput b o { g.output b o with use := none }).freeing u.chan).recomposeDesks b
  | none => h

/-- A booth released (07 R126). -/
def Hall.releaseBooth (h : Hall) (b : BoothId) : Hall :=
  let g := (h.clearOutput b .a .boothReleased).clearOutput b .b .boothReleased
  let g := { g with booths := g.booths.upd b fun r => { r with floor := none } }
  ((g.booths.get b).desks.foldl
    (fun g n =>
      match g.desk? n with
      | some d => g.setDesk n { d with relay := .floor }
      | none => g) g).retuneDesks b

/-- An output held at a fold (07 R136), with its relays re-checked (log entry 22). -/
def Hall.holdOutput (h : Hall) (b : BoothId) (o : Out) : Hall :=
  match (h.output b o).use with
  | some u =>
    (((h.takeOff b o .outputHeld).setOutState b o .held).reserveChannel u.chan).relayRecheck.recomposeDesks b
  | none => h

/-- A held output restored: SILENT with its delay started (07 R136). -/
def Hall.restoreOutput (h : Hall) (b : BoothId) (o : Out) : Hall :=
  (h.enterSilent b o).recomposeDesks b

/-- The content of each FALLBACK output of a booth follows a changed serving floor, A then B (07 R119). -/
def Hall.followServing (h : Hall) (b : BoothId) : Hall :=
  [Out.a, Out.b].foldl
    (fun g o =>
      match (g.output b o).use with
      | some u => if u.state = .fallback then g.mixContent b o else g
      | none => g) h

/-! ## Desk keys -/

/-- The desk goes live on an output (07 R129, the last three steps). -/
def Hall.goLive (h : Hall) (b : BoothId) (o : Out) (n : SeatId) : Hall :=
  ((h.setDeskLive n true).setOutState b o (.live n true)).outContent b o (.desk n)

/-- The refusal of a desk that would go live on an output of its booth, if any (07 R129 checks 2 to 4). -/
def Hall.liveRefusal (h : Hall) (b : BoothId) (o : Out) (n : SeatId) : Option KeyRefusal :=
  match (h.output b o).use with
  | none => some .outputUnused
  | some u =>
    match u.state with
    | .held => some .outputHeld
    | .live d _ => if d ≠ n ∧ (h.booths.get b).policy = .lockout then some .deskBusy else none
    | _ => none

/-- An ASSIGNED booth of a desk (07 R129 check 1). -/
def Hall.assignedBooth (h : Hall) (n : SeatId) : Option BoothId :=
  (h.boothOf n).filter fun b => (h.booths.get b).floor.isSome

/-- An admitted desk goes live, taking the output over from another under HANDOVER (07 R129). -/
def Hall.goLiveOver (h : Hall) (b : BoothId) (o : Out) (n : SeatId) : Hall :=
  (h.takeOff b o .takenOver).goLive b o n

/-- DESK_ON (07 R129); ignored from a LIVE desk. -/
def Hall.deskOn (h : Hall) (n : SeatId) (d : DeskFields) : KeyTaken :=
  if d.live then taken h
  else
    match h.assignedBooth n with
    | none => turnedDown h .noBooth
    | some b =>
      match h.liveRefusal b d.selected n with
      | some c => turnedDown h c
      | none => taken (h.goLiveOver b d.selected n)

/-- OUT_A and OUT_B (07 R128). -/
def Hall.selectOut (h : Hall) (n : SeatId) (d : DeskFields) (o : Out) : KeyTaken :=
  if d.selected = o then taken h
  else if d.live then
    match h.assignedBooth n with
    | none => turnedDown h .noBooth
    | some b =>
      match h.liveRefusal b o n with
      | some c => turnedDown h c
      | none =>
        taken ((((h.setLastRelease b d.selected n .moved).enterSilent b d.selected).setDesk n
          { d with selected := o }).goLiveOver b o n)
  else taken (h.setDesk n { d with selected := o })

/-- The walk of 07 R132 from an output: whether the chain leads back to booth b. -/
def Hall.leadsBack (h : Hall) (b : BoothId) : Nat → List (BoothId × Out) → BoothId → Out → Bool
  | 0, _, _, _ => false
  | k + 1, seen, c, o =>
    if c = b then true
    else
      match (h.output c o).liveDesk.bind h.desk? with
      | some d =>
        match d.relay with
        | .floor => false
        | .output c' o' => if seen.contains (c', o') then false else Hall.leadsBack h b k ((c', o') :: seen) c' o'
      | none => false

/-- RELAY (07 R131); the walk visits at most the 24 outputs. -/
def Hall.relayKey (h : Hall) (n : SeatId) (d : DeskFields) (src : Option RelaySrc) : KeyTaken :=
  match src with
  | some .floor => taken (h.setDesk n { d with relay := .floor })
  | some (.output c o) =>
    match h.assignedBooth n with
    | none => turnedDown h .noBooth
    | some b =>
      if !h.validSource b c o then turnedDown h .sourceInvalid
      else if h.leadsBack b 25 [(c, o)] c o then turnedDown h .relayLoop
      else taken (h.setDesk n { d with relay := .output c o })
  | none => turnedDown h (if (h.assignedBooth n).isSome then .sourceInvalid else .noBooth)

/-! ## Links and retirement of desks (07 section 7.6) -/

/-- Link lost for a LIVE desk: its gate GATED, its channel SILENCE (07 R134). -/
def Hall.deskLinkLost (h : Hall) (n : SeatId) : Hall :=
  match h.liveOutput n with
  | some (b, o) => (h.setOutState b o (.live n false)).outContent b o .silence
  | none => h

/-- Link regained: a desk still LIVE and GATED is heard again (07 R134). -/
def Hall.deskLinkRegained (h : Hall) (n : SeatId) : Hall :=
  match h.liveOutput n with
  | some (b, o) =>
    match (h.output b o).use with
    | some u =>
      if u.state = .live n false then (h.setOutState b o (.live n true)).outContent b o (.desk n) else h
    | none => h
  | none => h

/-- Seat retired: the desk goes off and out of its booth (07 R135). -/
def Hall.deskRetired (h : Hall) (n : SeatId) (cause : ReleaseCause) : Hall :=
  match h.boothOf n with
  | some b =>
    let g := h.deskLeaves n cause
    { g with booths := g.booths.upd b fun r => { r with desks := r.desks.filter fun m => m ≠ n } }
  | none => h

end Sys2Proof

namespace Sys2Proof.Machine

/-- A booth argument: its number, or BAD_ARGUMENT. -/
def withBooth (w : World) (booth : Byte) (k : BoothId → Handled) : Handled :=
  match numbered 12 booth.toNat with
  | some b => k b
  | none => refusal w .badArgument

/-- The hall with one booth record changed. -/
def updBooth (h : Hall) (b : BoothId) (g : Booth → Booth) : Hall :=
  { h with booths := h.booths.upd b g }

/-- BOOTH_ASSIGN (07 R120). -/
def execBoothAssign (booth floor : Byte) (s : State) : Host.Outcome State Fault Refusal :=
  request 5 0x50#8 (fun w =>
    withBooth w booth fun b =>
      withFloor w floor fun f =>
        if (w.hall.booths.get b).floor.isSome || !(w.hall.floor f).isLive then refusal w .wrongState
        else done (inHall w ((updBooth w.hall b fun r => { r with floor := some f }).retuneDesks b))) s

/-- The output of a BOOTH_OUTPUT cleared (07 R122). -/
def clearRequest (w : World) (booth output : Byte) : Handled :=
  match numbered 12 booth.toNat, outOf output with
  | some b, some o =>
    if (w.hall.booths.get b).floor.isNone then refusal w .wrongState
    else done (inHall w (w.hall.clearOutput b o .outputCleared))
  | _, _ => refusal w .badArgument

/-- Checks 2 to 5 of BOOTH_OUTPUT, and its effect (07 R121). -/
def outputRequest (w : World) (b : BoothId) (o : Out) (l : Lang) (want : Option ChannelId) : Handled :=
  match (w.hall.booths.get b).floor with
  | none => refusal w .wrongState
  | some f =>
    if (w.hall.output b o).use.isSome then refusal w .wrongState
    else if ((w.hall.serving b).elim false fun x => w.hall.languageTaken x l) || w.hall.ownsLanguage f l then
      refusal w .languageTaken
    else match w.hall.allocate want f (.output b o) l with
      | none => refusal w .noChannel
      | some (g, c) =>
        let g := g.setOutput b o { g.output b o with use := some ⟨l, c, .silent 0⟩ }
        ⟨inHall w (g.enterSilent b o), .ok, .outputChannel c⟩

/-- BOOTH_OUTPUT with a language (07 R121); language 0 and 251 to 254 are refused. -/
def execBoothOutput (booth output language channel : Byte) (s : State) : Host.Outcome State Fault Refusal :=
  request 7 0x51#8 (fun w =>
    if language = 0xFF#8 then clearRequest w booth output
    else match numbered 12 booth.toNat, outOf output, indexed 251 language.toNat, outputChannelOf channel with
      | some b, some o, some l, some want =>
        if l.val = 0 then refusal w .badArgument else outputRequest w b o l want
      | _, _, _, _ => refusal w .badArgument) s

/-- BOOTH_OUTPUT with language NONE (07 R122). -/
def execBoothOutputClear (booth output : Byte) (s : State) : Host.Outcome State Fault Refusal :=
  request 7 0x51#8 (fun w => clearRequest w booth output) s

/-- The booth and seat arguments of the desk list requests: BAD_ARGUMENT outside their ranges, then NOT_FOUND. -/
def withBoothSeat (w : World) (booth : Byte) (seat : Half) (k : BoothId → SeatId → Seat → Handled) : Handled :=
  withBooth w booth fun b => withSeat w seat fun n r => k b n r

/-- BOOTH_ADD_DESK (07 R123). -/
def execBoothAddDesk (booth : Byte) (seat : Half) (s : State) : Host.Outcome State Fault Refusal :=
  request 6 0x52#8 (fun w =>
    withBoothSeat w booth seat fun b n r =>
      if r.role ≠ .desk then refusal w .wrongState
      else if (w.hall.booths.get b).desks.contains n then done w
      else if (w.hall.boothOf n).isSome then refusal w .seatBusy
      else if 4 ≤ (w.hall.booths.get b).desks.length then refusal w .wrongState
      else
        done (inHall w
          (((updBooth w.hall b fun x => { x with desks := x.desks ++ [n] }).retuneSeat n).recompose n))) s

/-- The desk taken out of a booth's list (07 R124). -/
def removeDesk (h : Hall) (b : BoothId) (n : SeatId) : Hall :=
  let g := h.deskLeaves n .deskRemoved
  let g :=
    match g.desk? n with
    | some d => g.setDesk n { d with relay := .floor }
    | none => g
  ((updBooth g b fun x => { x with desks := x.desks.filter fun m => m ≠ n }).retuneSeat n).recompose n

/-- BOOTH_REMOVE_DESK (07 R124). -/
def execBoothRemoveDesk (booth : Byte) (seat : Half) (s : State) : Host.Outcome State Fault Refusal :=
  request 6 0x53#8 (fun w =>
    withBoothSeat w booth seat fun b n _ =>
      if (w.hall.booths.get b).desks.contains n then done (inHall w (removeDesk w.hall b n))
      else refusal w .wrongState) s

/-- BOOTH_SET (07 R125): the running fallback delays are not reached (07 R118). -/
def execBoothSet (booth policy delay : Byte) (s : State) : Host.Outcome State Fault Refusal :=
  request 6 0x54#8 (fun w =>
    match numbered 12 booth.toNat, boothPolicyOf policy, within 0 10 delay.toNat with
    | some b, some p, some d => done (inHall w (updBooth w.hall b fun r => { r with policy := p, delay := d }))
    | _, _, _ => refusal w .badArgument) s

/-- BOOTH_RELEASE (07 R126). -/
def execBoothRelease (booth : Byte) (s : State) : Host.Outcome State Fault Refusal :=
  request 4 0x55#8 (fun w =>
    withBooth w booth fun b =>
      if (w.hall.booths.get b).floor.isSome then done (inHall w (w.hall.releaseBooth b))
      else refusal w .wrongState) s

def deskReport (h : Hall) (n : SeatId) : DeskReport :=
  ⟨n, h.desk? n, (h.seat? n).map (·.link)⟩

/-- An output with the whole seconds of fallback delay remaining, rounded up, when SILENT. -/
def outputReport (o : Output) : OutputReport :=
  ⟨o, o.use.bind fun u =>
    match u.state with
    | .silent left => some (secsUp left)
    | _ => none⟩

/-- BOOTH_READ (07 R125). -/
def execBoothRead (booth : Byte) (s : State) : Host.Outcome State Fault Refusal :=
  request 4 0x56#8 (fun w =>
    withBooth w booth fun b =>
      let r := w.hall.booths.get b
      ⟨w, .ok, .booth r.floor (w.hall.serving b) r.policy r.delay (r.desks.map (deskReport w.hall))
        (outputReport r.outA) (outputReport r.outB)⟩) s

/-- A SILENT output's fallback delay expires (07 R119); no other output has a delay running (log entry 5). -/
def fallbackExpires (h : Hall) (b : BoothId) (o : Out) : Hall :=
  match (h.output b o).use with
  | some u =>
    match u.state with
    | .silent _ => h.enterFallback b o
    | _ => h
  | none => h

/-- FALLBACK_DELAY_EXPIRY (07 R119). -/
def execFallbackDelayExpiry (booth : BoothId) (output : Out) (s : State) : Host.Outcome State Fault Refusal :=
  event (fun w => inHall w (fallbackExpires w.hall booth output)) s

end Sys2Proof.Machine
end

