-- ==== Sys2Proof/Machine/Folding.lean ====
section
/-! DEFINITION. Combining and splitting rooms (chapter 8) with annexing (03 R49), the closing of floors (03 R45, 08 R155) and
the classification of applied wall events (03 R48). -/

namespace Sys2Proof

/-! ## Components (03 R41) -/

/-- The sections reached from a set by one wall applied OPEN. -/
def reachOnce (walls : Tbl (Option Wall) 16) (s : SecSet) : SecSet :=
  walls.rows.foldl
    (fun s w =>
      match w with
      | some w =>
        if w.applied = .opened && (s.getLsbD w.secA.val || s.getLsbD w.secB.val) then
          s ||| secOnly w.secA ||| secOnly w.secB
        else s
      | none => s) s

def reachTimes (walls : Tbl (Option Wall) 16) : Nat → SecSet → SecSet
  | 0, s => s
  | k + 1, s => reachTimes walls k (reachOnce walls s)

/-- The component of a section: twelve sections need at most eleven steps. -/
def component (walls : Tbl (Option Wall) 16) (s : SectionId) : SecSet :=
  reachTimes walls 11 (secOnly s)

/-- The lowest-numbered section of a set. -/
def lowestSection (s : SecSet) : Option SectionId :=
  (List.finRange 12).find? fun i => s.getLsbD i.val

/-- A set cut into its components, in ascending order of their lowest sections. -/
def cutParts (walls : Tbl (Option Wall) 16) : Nat → SecSet → List SecSet
  | 0, _ => []
  | k + 1, s =>
    match lowestSection s with
    | some i =>
      let c := component walls i &&& s
      c :: cutParts walls k (s &&& ~~~c)
    | none => []

/-! ## Annex (03 R49) -/

/-- The dark component joined to floor x by an opened wall is added to its members. -/
def Hall.annex (h : Hall) (x : FloorId) (joined : SecSet) : Hall :=
  let added := joined &&& ~~~(h.floor x).members
  ((h.updFloor x fun f => { f with members := f.members ||| joined }).membersReport added).raise (.foldChanged x)

/-! ## Adopted entries removed (06 R109) -/

/-- A floor's record without the adopted entries written for some folded floors; their slots are EMPTY. -/
def Floor.dropAdopted (f : Floor) (gone : FloorId → Bool) : Floor :=
  match f.adopted with
  | none => f
  | some as =>
    let g := as.foldl
      (fun f a =>
        match a.place with
        | .slot k => if gone a.floor then f.setListen k none else f
        | _ => f) f
    { g with adopted := some (as.filter fun a => !gone a.floor) }

/-- The entries removed from a carrier, and the change of its listen table reported. -/
def Hall.removeAdopted (h : Hall) (x : FloorId) (gone : FloorId → Bool) : Hall :=
  let g := h.updFloor x fun f => f.dropAdopted gone
  if ((h.floor x).adopted.getD []).any fun a => gone a.floor && a.place.isSlot then g.listenReport x else g

/-- The adopted entries of a floor that carries none become absent. -/
def Hall.endAdopted (h : Hall) (x : FloorId) : Hall :=
  h.updFloor x fun f => { f with adopted := none }

/-! ## Speakers and queues moved to a floor (08 R140, R141, R150) -/

/-- The voice slots of moved entries take floor x, and their updates are handed on. -/
def Hall.moveSlots (h : Hall) (x : FloorId) (es : List Speaker) : Hall :=
  es.foldl
    (fun g e =>
      match g.slots.get e.slot with
      | some v => g.setSlot e.slot (some { v with floor := x })
      | none => g) h

/-- Moved speaker entries appended to x's list, the excess closed and returned, the badge check made (08 R140, R150). The
entries without a badge go in list order, then in queue order from the head (log entry 32). -/
def Hall.absorbSpeakers (now : Clock) (h : Hall) (x : FloorId) (es : List Speaker) : Hall :=
  let seats := es.map (·.seat)
  let g := (h.updFloor x fun f => { f with speakers := f.speakers ++ es }).moveSlots x es
  let g := (g.raiseIf (!es.isEmpty) (.speakersChanged x)).closeExcess now x .mergeExcess
  if (g.floor x).bank.badgeRequired then
    let g := g.closeTurns now x
      (g.unbadged (((g.floor x).speakers.map (·.seat)).filter fun n => seats.contains n)) .noBadge
    g.removeEntries x (g.unbadged (((g.floor x).queue.map (·.seat)).filter fun n => seats.contains n)) .noBadge
  else g

/-- Moved queue entries appended to x's queue, the badge check made, the queue trimmed to its cap (08 R141, R150). The entries
without a badge go in queue order from the head (log entry 32). -/
def Hall.absorbQueue (h : Hall) (x : FloorId) (es : List Waiting) : Hall :=
  let seats := es.map (·.seat)
  let g := (h.updFloor x fun f => { f with queue := f.queue ++ es }).raiseIf (!es.isEmpty) (.queueChanged x)
  let g :=
    if (g.floor x).bank.badgeRequired then g.removeEntries x (g.unbadged seats) .noBadge
    else g
  g.trimQueue x .mergeOverflow

/-! ## The fold (08 R139 to R146) -/

/-- The survivor and the folded floor of two LIVE floors (08 R139). -/
def Hall.survivor (h : Hall) (a b : FloorId) : FloorId × FloorId :=
  if (h.floor a).precedence = (h.floor b).precedence then (if a < b then (a, b) else (b, a))
  else if (h.floor b).precedence < (h.floor a).precedence then (a, b)
  else (b, a)

/-- Each floor of a list takes a carrier. -/
def Hall.setCarriers (h : Hall) (fs : List FloorId) (x : FloorId) : Hall :=
  fs.foldl (fun g z => g.updFloor z fun f => { f with state := .folded x }) h

/-- Step 1: the fold relation and the member sets (08 R139). -/
def Hall.foldRelation (h : Hall) (x y : FloorId) (carried : List FloorId) : Hall :=
  let moved := (h.floor y).members
  let g := h.updFloor y fun f =>
    { f.dropAdopted fun _ => true with
      state := .folded x, home := f.members, members := 0#12, adopted := none }
  let g := (g.setCarriers carried x).updFloor x fun f =>
    { f with members := f.members ||| moved, adopted := some (f.adopted.getD []) }
  g.membersReport moved

/-- Step 2: the speakers moved (08 R140). -/
def Hall.foldSpeakers (now : Clock) (h : Hall) (x y : FloorId) : Hall :=
  let es := (h.floor y).speakers
  ((h.updFloor y fun f => { f with speakers := [] }).raiseIf (!es.isEmpty) (.speakersChanged y)).absorbSpeakers now x es

/-- Step 3: the queue moved (08 R141). -/
def Hall.foldQueue (h : Hall) (x y : FloorId) : Hall :=
  let es := (h.floor y).queue
  ((h.updFloor y fun f => { f with queue := [], lastRemoval := none }).raiseIf (!es.isEmpty)
    (.queueChanged y)).absorbQueue x es

/-- Step 4: the holders joined, the mutes recomputed (08 R142). -/
def Hall.foldHolders (h : Hall) (x y : FloorId) : Hall :=
  let fy := h.floor y
  let g := h.updFloor x fun f =>
    { f with
      holders := fy.holders.foldl (fun l n => insertSeat n l) f.holders
      requestHolds := f.requestHolds || fy.requestHolds }
  (g.updFloor y fun f => { f with holders := [], requestHolds := false }).remute x

/-- The original channel of a floor, lent or re-lent, follows to floor x with its mix. -/
def Hall.mixOriginal (h : Hall) (z x : FloorId) (move : Hall → ChannelId → Hall) : Hall :=
  match (h.floor z).original? with
  | some c => (move h c).setContent c (.floorMix x)
  | none => h

/-- Step 5: the original channels (08 R143). -/
def Hall.foldOriginals (h : Hall) (x y : FloorId) (carried : List FloorId) : Hall :=
  carried.foldl (fun g z => g.mixOriginal z x fun g c => g.relend c x)
    (h.mixOriginal y x fun g c => g.lend c x)

/-- The booths assigned to one of some floors, in ascending number. -/
def Hall.boothsOf (h : Hall) (fs : List FloorId) : List BoothId :=
  h.booths.positions fun b => b.floor.elim false fs.contains

/-- The two outputs of each booth of a list, A then B. -/
def boothOutputs (bs : List BoothId) : List (BoothId × Out) :=
  bs.flatMap fun b => [(b, .a), (b, .b)]

/-- An output's channel lent to x when OWNED, re-lent to x when LENT (08 R144). -/
def Hall.carryChannel (h : Hall) (c : ChannelId) (x : FloorId) : Hall :=
  match (h.channels.get c).use with
  | some u => if u.hold = .owned then h.lend c x else h.relend c x
  | none => h

/-- One output of a folded floor placed: held when x's map has its language, lent or re-lent otherwise (08 R144). -/
def Hall.placeOutput (x : FloorId) (h : Hall) (p : BoothId × Out) : Hall :=
  match (h.output p.1 p.2).use with
  | some u =>
    if u.state = .held then h
    else if h.languageTaken x u.lang then h.holdOutput p.1 p.2
    else h.carryChannel u.chan x
  | none => h

/-- Each booth of a list has a changed serving floor: its FALLBACK outputs follow, and every relay is re-checked
(07 R119, R133). R119 gives no order among several booths, hence none to their route updates: the model takes them in
ascending booth number, which is the order of the list (log entry 43). -/
def Hall.servingChanged (h : Hall) (bs : List BoothId) : Hall :=
  (bs.foldl Hall.followServing h).relayRecheck

/-- Step 6: the booth outputs of the folded floors (08 R144). -/
def Hall.foldOutputs (h : Hall) (x : FloorId) (folded : List FloorId) : Hall :=
  let bs := h.boothsOf folded
  (((boothOutputs bs).foldl (Hall.placeOutput x) h).servingChanged bs)

/-- Step 8: the folded floor's pending swap (08 R146). -/
def Hall.settleSwap (now : Clock) (h : Hall) (y : FloorId) : Hall :=
  if (h.floor y).swapPending then (h.completeSwap now y).raise (.swapDone y) else h

def Hall.raiseFold (h : Hall) (fs : List FloorId) : Hall :=
  fs.foldl (fun g f => g.raise (.foldChanged f)) h

/-- A fold of y into x, step by step (08 R139 to R146). -/
def Hall.foldInto (now : Clock) (h : Hall) (x y : FloorId) : Hall :=
  let carried := h.foldedInto y
  let g := h.foldRelation x y carried
  let g := ((g.foldSpeakers now x y).foldQueue x y).foldHolders x y
  let g := (g.foldOriginals x y carried).foldOutputs x (y :: carried)
  let g := (g.adoptionPass x).settleSwap now y
  ((g.raiseFold (x :: y :: carried)).recomposeFloor x).arbitrate now

/-! ## The unfold (08 R147 to R154) -/

/-- The seats of a floor's speakers and queue entries that sit in some sections. -/
def Hall.speakersIn (h : Hall) (x : FloorId) (c : SecSet) : List Speaker :=
  (h.floor x).speakers.filter fun e => h.sits c e.seat

def Hall.queueIn (h : Hall) (x : FloorId) (c : SecSet) : List Waiting :=
  (h.floor x).queue.filter fun e => h.sits c e.seat

def Hall.holdersIn (h : Hall) (x : FloorId) (c : SecSet) : List SeatId :=
  (h.floor x).holders.filter fun n => h.sits c n

/-- A component with no folded anchor goes dark (08 R148). R148 gives an order to the turns only: the model removes the queue
entries from the head in queue order, so that the last of them is the floor's last queue removal (log entry 40). -/
def Hall.darken (now : Clock) (h : Hall) (x : FloorId) (c : SecSet) : Hall :=
  let g := h.closeTurns now x ((h.speakersIn x c).map (·.seat)) .splitDark
  let g := g.removeEntries x ((g.queueIn x c).map (·.seat)) .splitDark
  let g := (g.holdersIn x c).foldl (fun g n => g.leaveHolder n x) g
  (g.updFloor x fun f => { f with members := f.members &&& ~~~c }).membersReport c

/-- The record of a revived floor, the carriers of the other floors of K, and x's members (08 R149). -/
def Hall.reviveRecords (h : Hall) (x r : FloorId) (others : List FloorId) (c : SecSet) : Hall :=
  let g := h.updFloor r fun f =>
    { f with
      state := .live, members := c, home := 0#12, swapPending := false, holders := [], requestHolds := false,
      lastRemoval := none, adopted := if others.isEmpty then none else some [] }
  (g.setCarriers others r).updFloor x fun f => { f with members := f.members &&& ~~~c }

/-- The entries of the seats of a component moved to the revived floor (08 R150). -/
def Hall.reviveEntries (now : Clock) (h : Hall) (x r : FloorId) (c : SecSet) : Hall :=
  let es := h.speakersIn x c
  let g := (h.updFloor x fun f => { f with speakers := f.speakers.filter fun e => !h.sits c e.seat }).raiseIf
    (!es.isEmpty) (.speakersChanged x)
  let g := g.absorbSpeakers now r es
  let qs := g.queueIn x c
  ((g.updFloor x fun f => { f with queue := f.queue.filter fun e => !g.sits c e.seat }).raiseIf
    (!qs.isEmpty) (.queueChanged x)).absorbQueue r qs

/-- The holders divided by seat location (08 R151). -/
def Hall.reviveHolders (h : Hall) (x r : FloorId) (c : SecSet) : Hall :=
  let moved := h.holdersIn x c
  let g := h.updFloor x fun f => { f with holders := f.holders.filter fun n => !moved.contains n }
  ((g.updFloor r fun f => { f with holders := moved }).remute r).remute x

/-- One output of the revived floor given back: LENT as it stands, HELD restored to SILENT (08 R152 step 2). -/
def Hall.giveBackOutput (h : Hall) (p : BoothId × Out) : Hall :=
  match (h.output p.1 p.2).use with
  | some u =>
    if u.state = .held then (h.giveBack u.chan).restoreOutput p.1 p.2 else h.giveBack u.chan
  | none => h

/-- The outputs of one other floor of K: held where R's map now holds the language, re-lent otherwise (08 R152 step 3). -/
def Hall.reviveCarried (r : FloorId) (h : Hall) (z : FloorId) : Hall :=
  (boothOutputs (h.boothsOf [z])).foldl (Hall.placeOutput r) (h.mixOriginal z r fun g c => g.relend c r)

/-- The revived floor's channels and outputs (08 R152). Step 4 gives no order among the booths of r and of the other floors of
K whose FALLBACK outputs take the new mix: the model takes all of them together in ascending booth number, not those of r
first (log entry 43). -/
def Hall.reviveChannels (h : Hall) (r : FloorId) (others : List FloorId) : Hall :=
  let g := h.mixOriginal r r fun g c => g.giveBack c
  let g := (boothOutputs (g.boothsOf [r])).foldl Hall.giveBackOutput g
  let g := others.foldl (Hall.reviveCarried r) g
  g.servingChanged (g.boothsOf (r :: others))

/-- The listen tables divided, and the seats of the component re-resolved (08 R153, R149; log entry 21). -/
def Hall.reviveListen (h : Hall) (x r : FloorId) (others : List FloorId) (c : SecSet) : Hall :=
  let g := h.removeAdopted x fun z => z = r || others.contains z
  (if others.isEmpty then g else g.adoptionPass r).membersReport c

/-- Floor r revives in component c, the other floors of K carried by it (08 R149 to R153). -/
def Hall.revive (now : Clock) (h : Hall) (x r : FloorId) (others : List FloorId) (c : SecSet) : Hall :=
  let g := (h.reviveRecords x r others c).reviveEntries now x r c
  let g := ((g.reviveHolders x r c).reviveChannels r others).reviveListen x r others c
  (g.raiseFold (r :: others)).recomposeFloor r

/-- The floors folded into x whose anchor lies in a component (08 R147). -/
def Hall.anchoredIn (h : Hall) (x : FloorId) (c : SecSet) : List FloorId :=
  (h.foldedInto x).filter fun f => (h.floor f).sess.elim false fun s => c.getLsbD s.anchor.val

/-- One component cut off (08 R147). -/
def Hall.takePart (now : Clock) (x : FloorId) (h : Hall) (c : SecSet) : Hall :=
  let k := h.anchoredIn x c
  match h.ranked k with
  | some r => h.revive now x r (k.filter fun f => f ≠ r) c
  | none => h.darken now x c

/-- A FOLDED floor's home set reduced to its carrier's members; FOLD_CHANGED is raised when it shrinks
(08 R154 steps 2 and 5). -/
def Hall.reduceHome (h : Hall) (f : FloorId) : Hall :=
  match (h.floor f).carrier? with
  | some x =>
    let home := (h.floor f).home &&& (h.floor x).members
    if home = (h.floor f).home then h
    else (h.updFloor f fun r => { r with home := home }).raise (.foldChanged f)
  | none => h

/-- The end of an unfold of x (08 R154); `spoke` says that x held delegates before it. -/
def Hall.endUnfold (now : Clock) (h : Hall) (x : FloorId) (spoke : Bool) : Hall :=
  let g := (List.finRange 6).foldl Hall.reduceHome h
  let g := if (g.foldedInto x).isEmpty then g.endAdopted x else g.adoptionPass x
  let g := if spoke && (g.floor x).delegates = 0 then g.quiet now x else g
  ((g.raise (.foldChanged x)).recomposeFloor x).arbitrate now

/-- An unfold of x (08 R147 to R154); a wall that closed a loop changes nothing. -/
def Hall.unfold (now : Clock) (walls : Tbl (Option Wall) 16) (h : Hall) (x : FloorId) : Hall :=
  match (h.floor x).sess with
  | some s =>
    let cut := (h.floor x).members &&& ~~~(component walls s.anchor)
    if cut = 0#12 then h
    else
      ((cutParts walls 12 cut).foldl (Hall.takePart now x) h).endUnfold now x (decide (0 < (h.floor x).delegates))
  | none => h

/-! ## Applied wall events (03 R48) -/

/-- An applied-OPEN event on two sections, classified by membership. -/
def Hall.appliedOpen (now : Clock) (walls : Tbl (Option Wall) 16) (h : Hall) (a b : SectionId) : Hall :=
  match h.floorAt a, h.floorAt b with
  | none, none => h
  | some x, none => h.annex x (component walls b)
  | none, some x => h.annex x (component walls a)
  | some x, some y => if x = y then h else h.foldInto now (h.survivor x y).1 (h.survivor x y).2

/-- An applied-CLOSED event on two sections: both dark, or both members of one LIVE floor, which unfolds. -/
def Hall.appliedClosed (now : Clock) (walls : Tbl (Option Wall) 16) (h : Hall) (a b : SectionId) : Hall :=
  match h.floorAt a, h.floorAt b with
  | some x, some y => if x = y then h.unfold now walls x else h
  | _, _ => h

/-! ## Closing floors -/

/-- The booths of a floor released, in ascending number. 08 R155 gives that order for a FOLDED floor; for a LIVE one 03 R45
gives none (log entry 33). -/
def Hall.releaseBooths (h : Hall) (f : FloorId) : Hall :=
  (h.boothsOf [f]).foldl Hall.releaseBooth h

/-- A floor's original channel freed. -/
def Hall.freeOriginal (h : Hall) (f : FloorId) : Hall :=
  match (h.floor f).original? with
  | some c => h.freeing c
  | none => h

/-- A floor's record returned to the CLOSED condition (03 R40). -/
def Hall.closeRecord (h : Hall) (f : FloorId) : Hall :=
  h.updFloor f fun _ => Floor.reset

/-- A FOLDED floor closed within the close of its carrier (08 R155 steps 1, 2 and 4). -/
def Hall.closeWithCarrier (h : Hall) (y : FloorId) : Hall :=
  ((h.releaseBooths y).freeOriginal y).closeRecord y

/-- A FOLDED floor closed by FLOOR_CLOSE, its carrier x staying LIVE (08 R155). -/
def Hall.closeFolded (h : Hall) (y x : FloorId) : Hall :=
  let g := ((h.releaseBooths y).freeOriginal y).removeAdopted x fun z => z = y
  let rest := (g.foldedInto x).filter fun z => z ≠ y
  let g := if rest.isEmpty then g.endAdopted x else g.adoptionPassOver x rest
  (g.closeRecord y).raise (.foldChanged x)

/-- The speaking of a closing floor ended (03 R45 step 2). -/
def Hall.closeSpeech (now : Clock) (h : Hall) (f : FloorId) : Hall :=
  let waiting := (h.floor f).queue.map (·.seat)
  let g := h.closeTurns now f ((h.floor f).speakers.map (·.seat)) .floorClosed
  ((g.updFloor f fun x => { x with queue := [], holders := [], requestHolds := false }).raiseIf (!waiting.isEmpty)
    (.queueChanged f)).recomposeAll waiting

/-- Every channel a floor still owns freed (03 R45 step 5). -/
def Hall.freeOwned (h : Hall) (f : FloorId) : Hall :=
  (h.channels.positions fun c => c.use.elim false fun u => u.owner = f).foldl Hall.freeing h

/-- A LIVE floor closed, step by step (03 R45); the freed slots are re-offered within step 2. -/
def Hall.closeLive (now : Clock) (h : Hall) (f : FloorId) : Hall :=
  let g := ((h.updFloor f fun x => { x with swapPending := false }).closeSpeech now f).arbitrate now
  let g := g.releaseBooths f
  let g := ((g.foldedInto f).foldl Hall.closeWithCarrier g).freeOwned f
  let members := (g.floor f).members
  ((g.updFloor f fun x => { x with members := 0#12 }).membersReport members).closeRecord f

/-- A floor closed according to its state (03 R44). -/
def Hall.closeFloor (now : Clock) (h : Hall) (f : FloorId) : Hall :=
  match (h.floor f).state with
  | .live => h.closeLive now f
  | .folded x => h.closeFolded f x
  | .closed => h

end Sys2Proof
end

