-- ==== Sys2Proof/Machine/Floors.lean ====
section
/-! DEFINITION. Floor Table requests (chapter 3): FLOOR_OPEN, FLOOR_CLOSE, FLOOR_SET and FLOOR_READ. -/

namespace Sys2Proof

/-- A LIVE floor's record as FLOOR_OPEN fills it (03 R43 step 2). -/
def Floor.opened (anchor : SectionId) (precedence : Nat) (c : ChannelId) (members : SecSet) : Floor :=
  { Floor.reset with
    state := .live
    sess := some ⟨anchor, precedence, c, Bank.initial, Bank.initial, .a⟩
    members := members }

/-- FLOOR_OPEN carried out on a channel already allocated: the record, and the member set change reported
(03 R43 steps 2 and 3). -/
def Hall.openFloor (walls : Tbl (Option Wall) 16) (h : Hall) (f : FloorId) (anchor : SectionId) (precedence : Nat)
    (c : ChannelId) : Hall :=
  (h.updFloor f fun _ => Floor.opened anchor precedence c (component walls anchor)).membersReport
    (component walls anchor)

/-- The answer of FLOOR_READ (03 R47). -/
def Hall.floorPayload (h : Hall) (f : FloorId) : Payload :=
  let r := h.floor f
  match r.session? with
  | none => .floorClosed
  | some s =>
    .floor f r.state s.anchor s.precedence (if r.isLive then r.members else r.home)
      (if r.isLive then h.foldedInto f else []) s.original s.current r.swapPending r.holders r.requestHolds r.adopted
      r.delegates r.chairs r.queue.length

end Sys2Proof

namespace Sys2Proof.Machine

/-- Checks 2 to 5 of FLOOR_OPEN, and the opening (03 R42, R43). -/
def openRequest (w : World) (f : FloorId) (anchor : SectionId) (precedence : Nat) : Handled :=
  if (w.hall.floor f).state ≠ .closed then refusal w .wrongState
  else if !w.layout.active.getLsbD anchor.val then refusal w .badArgument
  else if !w.hall.dark anchor then refusal w .sectionInUse
  else match w.hall.allocate none f .original 0 with
    | none => refusal w .noChannel
    | some (g, c) =>
      ⟨inHall w (g.openFloor w.layout.walls f anchor precedence c), .ok,
        .floorOpened c (component w.layout.walls anchor)⟩

/-- FLOOR_OPEN (03 R42, R43). -/
def execFloorOpen (floor anchor precedence : Byte) (s : State) : Host.Outcome State Fault Refusal :=
  request 6 0x30#8 (fun w =>
    match numbered 6 floor.toNat, numbered 12 anchor.toNat, within 0 7 precedence.toNat with
    | some f, some a, some p => openRequest w f a p
    | _, _, _ => refusal w .badArgument) s

/-- FLOOR_CLOSE (03 R44). -/
def execFloorClose (floor : Byte) (s : State) : Host.Outcome State Fault Refusal :=
  request 4 0x31#8 (fun w =>
    withFloor w floor fun f =>
      if (w.hall.floor f).state = .closed then refusal w .wrongState
      else done (inHall w (w.hall.closeFloor w.clock f))) s

/-- FLOOR_SET (03 R46). -/
def execFloorSet (floor precedence : Byte) (s : State) : Host.Outcome State Fault Refusal :=
  request 5 0x32#8 (fun w =>
    match within 0 7 precedence.toNat with
    | none => refusal w .badArgument
    | some p =>
      withSession w floor fun f ss =>
        done (inHall w (w.hall.updFloor f fun x => { x with sess := some { ss with precedence := p } }))) s

/-- FLOOR_READ (03 R47). -/
def execFloorRead (floor : Byte) (s : State) : Host.Outcome State Fault Refusal :=
  request 4 0x33#8 (fun w => withFloor w floor fun f => ⟨w, .ok, w.hall.floorPayload f⟩) s

end Sys2Proof.Machine
end

