-- ==== Sys2Proof/Machine/Layouts.lean ====
section
/-! DEFINITION. Layout Unit (chapter 1): the layout lock, sections, walls with their sources and settle timers, the pending wall
set, the merge requests, and the admission of layout edits, SEAT_PLACE among them (02 R22). -/

namespace Sys2Proof

/-! ## Walls -/

def Layout.wall (l : Layout) (i : WallId) : Option Wall :=
  l.walls.get i

/-- The state a line reports by the wall's polarity (01 section 1.5). -/
def reportedBy (polarity : Polarity) (high : Bool) : WallPos :=
  match polarity, high with
  | .openWhenHigh, true => .opened
  | .openWhenHigh, false => .closed
  | .openWhenLow, true => .closed
  | .openWhenLow, false => .opened

/-- The state a wall's line reports now; absent for a REQUEST source. -/
def Layout.reported (l : Layout) (w : Wall) : Option WallPos :=
  match w.source with
  | .line n p => some (reportedBy p (l.lines.get n))
  | .request => none

/-- Settle time in ticks: a half-second is five ticks of 100 ms. -/
def Wall.settleTicks (w : Wall) : Nat :=
  w.settle * 5

/-- The wall names a section in its pair. -/
def Wall.names (w : Wall) (s : SectionId) : Bool :=
  w.secA = s || w.secB = s

/-- The wall stands between the same two sections, in either order. -/
def Wall.between (w : Wall) (a b : SectionId) : Bool :=
  (w.secA = a && w.secB = b) || (w.secA = b && w.secB = a)

/-- The wall takes its state from a line. -/
def Wall.onLine (w : Wall) (n : LineId) : Bool :=
  match w.source with
  | .line m _ => m = n
  | .request => false

def Layout.setWall (l : Layout) (i : WallId) (w : Option Wall) : Layout :=
  { l with walls := l.walls.set i w }

def Layout.setPending (l : Layout) (i : WallId) (p : Option WallPos) : Layout :=
  { l with pendingWalls := l.pendingWalls.set i p }

def Layout.isLocked (l : Layout) : Bool :=
  match l.lock with
  | .locked => true
  | _ => false

def Layout.isOpen (l : Layout) : Bool :=
  match l.lock with
  | .opened _ _ => true
  | _ => false

def Lock.state : Lock → LockState
  | .locked => .locked
  | .armed _ _ => .armed
  | .opened _ _ => .opened

/-- The merge state NONE: a merge confirmed (01 R17), or PENDING or REFUSED ended by a sensed change to CLOSED
(01 R13, R14). -/
def Wall.endMerge (w : Wall) : Wall :=
  { w with merge := .idle }

/-- The wall stands between two LIVE floors (01 R15). -/
def Hall.betweenFloors (h : Hall) (w : Wall) : Bool :=
  match h.floorAt w.secA, h.floorAt w.secB with
  | some x, some y => x ≠ y
  | _, _ => false

def World.setWall (w : World) (i : WallId) (x : Wall) : World :=
  { w with layout := w.layout.setWall i (some x) }

/-- The applied state becomes OPEN, and the event is handed to the Floor Table (01 R15, R17). -/
def World.applyOpen (w : World) (i : WallId) (x : Wall) : World :=
  let l := w.layout.setWall i (some { x with applied := .opened })
  { w with layout := l, hall := w.hall.appliedOpen w.clock l.walls x.secA x.secB }

/-- The applied state becomes CLOSED, and the event is handed to the Floor Table (01 R14). -/
def World.applyClosed (w : World) (i : WallId) (x : Wall) : World :=
  let l := w.layout.setWall i (some { x with applied := .closed })
  { w with layout := l, hall := w.hall.appliedClosed w.clock l.walls x.secA x.secB }

/-- A sensed change applied under LOCKED (01 R14 for CLOSED, R15 for OPEN). -/
def World.applySensed (w : World) (i : WallId) (x : Wall) : World :=
  match x.sensed, x.applied with
  | .closed, .opened => w.applyClosed i x.endMerge
  | .closed, .closed => w.setWall i x.endMerge
  | .opened, .opened => w
  | .opened, .closed =>
    if w.hall.betweenFloors x && x.policy = .held then
      { w.setWall i { x with merge := .pending } with hall := w.hall.raise (.mergePending i) }
    else w.applyOpen i x

/-- A sensed change recorded while the lock is ARMED or OPEN (01 R13). -/
def Layout.pend (l : Layout) (i : WallId) (x : Wall) : Layout :=
  (l.setWall i (some (if x.sensed = .closed then x.endMerge else x))).setPending i
    (if x.sensed = x.applied then none else some x.sensed)

/-- A change of sensed state, taken as one event (01 section 1.6). -/
def World.sensedChange (w : World) (i : WallId) (x : Wall) (pos : WallPos) : World :=
  let y := { x with sensed := pos, settleLeft := none }
  if w.layout.isLocked then (w.setWall i y).applySensed i y
  else { w with layout := w.layout.pend i y }

/-- One wall's pending entry removed and applied at the return to LOCKED (01 R16). -/
def World.applyPending (w : World) (i : WallId) : World :=
  match w.layout.pendingWalls.get i, w.layout.wall i with
  | some _, some x => { w with layout := w.layout.setPending i none }.applySensed i x
  | some _, none => { w with layout := w.layout.setPending i none }
  | none, _ => w

/-- The lock returns to LOCKED, and the pending wall set is applied in ascending wall number (01 R16). -/
def World.relock (w : World) : World :=
  (List.finRange 16).foldl World.applyPending { w with layout := { w.layout with lock := .locked } }

/-- The arm window of 5 s and the idle timer of 30 s, in ticks (01 R1, R2). -/
def armTicks : Nat := 50

def idleTicks : Nat := 300

/-- The idle timer restarted by an accepted layout edit (01 R3). -/
def Layout.restartIdle (l : Layout) : Layout :=
  match l.lock with
  | .opened k _ => { l with lock := .opened k idleTicks }
  | _ => l

/-- A line changes level (01 R11): the settle timer of its wall starts or is cancelled. -/
def Layout.lineChange (l : Layout) (n : LineId) (high : Bool) : Layout :=
  if l.lines.get n = high then l
  else
    let l := { l with lines := l.lines.set n high }
    { l with
      walls := l.walls.imap fun _ x =>
        x.map fun w =>
          if w.onLine n then
            match decide (l.reported w = some w.sensed), w.settleLeft with
            | false, none => { w with settleLeft := some w.settleTicks }
            | true, some _ => { w with settleLeft := none }
            | _, _ => w
          else w }

/-- A wall's settle timer expires (01 R11); a wall whose timer does not run is left (log entry 5). -/
def World.settleExpires (w : World) (i : WallId) : World :=
  match w.layout.wall i with
  | some x =>
    match x.settleLeft, w.layout.reported x with
    | some _, some pos => w.sensedChange i x pos
    | _, _ => w
  | none => w

/-! ## Layout edits (01 R4) -/

/-- Whether a wall definition is refused at step 5 of 01 R7. -/
def Layout.defineConflicts (l : Layout) (i : WallId) (a b : SectionId) (src : WallSource) : Bool :=
  a = b || !l.active.getLsbD a.val || !l.active.getLsbD b.val ||
    (List.finRange 16).any fun j =>
      j ≠ i && (l.wall j).elim false fun x =>
        x.between a b ||
          match src with
          | .line n _ => x.onLine n
          | .request => false

/-- The sensed state a definition takes (01 R7, R8). -/
def Layout.definedSensed (l : Layout) (i : WallId) (src : WallSource) : WallPos :=
  match src with
  | .line n p => reportedBy p (l.lines.get n)
  | .request =>
    match l.wall i with
    | some x => if x.source = .request then x.sensed else .closed
    | none => .closed

/-- A wall defined or redefined (01 R7, R8). -/
def Layout.define (l : Layout) (i : WallId) (a b : SectionId) (src : WallSource) (settle : Nat) (policy : MergePolicy) :
    Layout :=
  let pos := l.definedSensed i src
  ((l.setWall i (some ⟨a, b, src, settle, policy, pos, pos, .idle, none⟩)).setPending i none).restartIdle

/-- The sections of a wall's present pair that are in use. -/
def World.pairInUse (w : World) (i : WallId) : Bool :=
  (w.layout.wall i).elim false fun x => w.hall.inUse x.secA || w.hall.inUse x.secB

/-- Whether a section may not be deactivated (01 R5). -/
def World.sectionKept (w : World) (s : SectionId) : Bool :=
  (w.layout.walls.some? fun x => x.elim false fun y => y.names s) ||
    w.hall.seats.some? fun p =>
      match p with
      | .held r => r.place = some s
      | _ => false

/-- A section set active or inactive (01 R5). -/
def Layout.setActive (l : Layout) (s : SectionId) (active : Bool) : Layout :=
  { l with active := if active then l.active ||| secOnly s else l.active &&& ~~~(secOnly s) }.restartIdle

/-- A seat placed or unplaced (02 R22). -/
def Hall.placeSeat (h : Hall) (n : SeatId) (place : Option SectionId) : Hall :=
  match h.seat? n with
  | some r =>
    let g := if r.place = place then h else (h.updSeat n fun x => { x with place := place }).mark n
    g.retuneSeat n
  | none => h

end Sys2Proof

namespace Sys2Proof.Machine

/-- LAYOUT_OPEN (01 R1). -/
def execLayoutOpen (key : Half) (s : State) : Host.Outcome State Fault Refusal :=
  request 5 0x10#8 (fun w =>
    if key = 0#16 then refusal w .badArgument
    else if w.layout.isLocked then done { w with layout := { w.layout with lock := .armed key armTicks } }
    else refusal w .wrongState) s

/-- LAYOUT_CONFIRM (01 R2). -/
def execLayoutConfirm (key : Half) (s : State) : Host.Outcome State Fault Refusal :=
  request 5 0x11#8 (fun w =>
    match w.layout.lock with
    | .armed k _ =>
      if k = key then done { w with layout := { w.layout with lock := .opened key idleTicks } }
      else refusal w.relock .badKey
    | _ => refusal w .wrongState) s

/-- LAYOUT_CLOSE (01 R3). -/
def execLayoutClose (s : State) : Host.Outcome State Fault Refusal :=
  request 3 0x12#8 (fun w => if w.layout.isLocked then refusal w .wrongState else done w.relock) s

/-- ARM_WINDOW_EXPIRY (01 R2): no attention item is raised. -/
def execArmWindowExpiry (s : State) : Host.Outcome State Fault Refusal :=
  event (fun w =>
    match w.layout.lock with
    | .armed _ _ => w.relock
    | _ => w) s

/-- IDLE_TIMER_EXPIRY (01 R3). -/
def execIdleTimerExpiry (s : State) : Host.Outcome State Fault Refusal :=
  event (fun w =>
    match w.layout.lock with
    | .opened _ _ => { w.relock with hall := w.relock.hall.raise .layoutExpired }
    | _ => w) s

/-- SECTION_SET (01 R4, R5). -/
def execSectionSet (sec active : Byte) (s : State) : Host.Outcome State Fault Refusal :=
  request 5 0x13#8 (fun w =>
    match numbered 12 sec.toNat, activeOf active with
    | some i, some a =>
      if !w.layout.isOpen then refusal w .layoutLocked
      else if w.hall.inUse i then refusal w .sectionInUse
      else if !a && w.sectionKept i then refusal w .wrongState
      else done { w with layout := w.layout.setActive i a }
    | _, _ => refusal w .badArgument) s

/-- Checks 2 to 5 of WALL_DEFINE, and the definition (01 R4, R7, R8). -/
def defineRequest (w : World) (i : WallId) (a b : SectionId) (src : WallSource) (settle : Nat) (policy : MergePolicy) :
    Handled :=
  if !w.layout.isOpen then refusal w .layoutLocked
  else if w.hall.inUse a || w.hall.inUse b || w.pairInUse i then refusal w .sectionInUse
  else if w.layout.defineConflicts i a b src then refusal w .badArgument
  else done { w with layout := w.layout.define i a b src settle policy }

/-- WALL_DEFINE (01 R7, R8). -/
def execWallDefine (wall secA secB source line polarity settle policy : Byte) (s : State) :
    Host.Outcome State Fault Refusal :=
  request 11 0x14#8 (fun w =>
    match numbered 16 wall.toNat, numbered 12 secA.toNat, numbered 12 secB.toNat, wallSourceOf source line polarity,
      settleOf settle, mergePolicyOf policy with
    | some i, some a, some b, some src, some t, some p => defineRequest w i a b src t p
    | _, _, _, _, _, _ => refusal w .badArgument) s

/-- A wall argument: its number, or BAD_ARGUMENT. -/
def withWall (w : World) (wall : Byte) (k : WallId → Handled) : Handled :=
  match numbered 16 wall.toNat with
  | some i => k i
  | none => refusal w .badArgument

/-- A wall argument naming a defined wall; an undefined one is refused NOT_FOUND. -/
def withDefined (w : World) (wall : Byte) (k : WallId → Wall → Handled) : Handled :=
  withWall w wall fun i =>
    match w.layout.wall i with
    | some x => k i x
    | none => refusal w .notFound

/-- WALL_REMOVE (01 R4, R9): the lock is checked before the wall. -/
def execWallRemove (wall : Byte) (s : State) : Host.Outcome State Fault Refusal :=
  request 4 0x15#8 (fun w =>
    withWall w wall fun i =>
      if !w.layout.isOpen then refusal w .layoutLocked
      else if (w.layout.wall i).isNone then refusal w .notFound
      else if w.pairInUse i then refusal w .sectionInUse
      else done { w with layout := ((w.layout.setWall i none).setPending i none).restartIdle }) s

/-- WALL_SET (01 R12). -/
def execWallSet (wall pos : Byte) (s : State) : Host.Outcome State Fault Refusal :=
  request 5 0x16#8 (fun w =>
    match wallPosOf pos with
    | none => refusal w .badArgument
    | some p =>
      withDefined w wall fun i x =>
        if x.source ≠ .request then refusal w .wrongSource
        else if x.sensed = p then done w
        else done (w.sensedChange i x p)) s

/-- WALL_READ (01 R10). -/
def execWallRead (wall : Byte) (s : State) : Host.Outcome State Fault Refusal :=
  request 4 0x17#8 (fun w =>
    withWall w wall fun i =>
      let x := w.layout.wall i
      let level := x.bind fun y =>
        match y.source with
        | .line n _ => some (w.layout.lines.get n)
        | .request => none
      ⟨w, .ok, .wall i x (w.layout.pendingWalls.get i) ((x.bind (·.settleLeft)).map secsUp) level w.layout.lock.state
        w.layout.active⟩) s

/-- MERGE_CONFIRM (01 R17). -/
def execMergeConfirm (wall : Byte) (s : State) : Host.Outcome State Fault Refusal :=
  request 4 0x18#8 (fun w =>
    withDefined w wall fun i x =>
      if !w.layout.isLocked then refusal w .layoutBusy
      else if x.merge ≠ .pending then refusal w .wrongState
      else done (w.applyOpen i x.endMerge)) s

/-- MERGE_REFUSE (01 R18). -/
def execMergeRefuse (wall : Byte) (s : State) : Host.Outcome State Fault Refusal :=
  request 4 0x19#8 (fun w =>
    withDefined w wall fun i x =>
      if x.merge ≠ .pending then refusal w .wrongState
      else done (w.setWall i { x with merge := .refused })) s

/-- WALL_LINE_CHANGE (01 R11). -/
def execWallLineChange (line : LineId) (high : Bool) (s : State) : Host.Outcome State Fault Refusal :=
  event (fun w => { w with layout := w.layout.lineChange line high }) s

/-- SETTLE_TIMER_EXPIRY (01 R11). -/
def execSettleTimerExpiry (wall : WallId) (s : State) : Host.Outcome State Fault Refusal :=
  event (fun w => w.settleExpires wall) s

/-- Checks 3 to 5 of SEAT_PLACE, and the placement (01 R4, 02 R22). When both conditions of step 5 hold, an inactive section
named for a DESK seat, the answer is BAD_ARGUMENT: 02 R22 gives the two no order (log entry 31). -/
def placeRequest (w : World) (n : SeatId) (place : Option SectionId) : Handled :=
  match w.hall.seat? n with
  | none => refusal w .notFound
  | some r =>
    if r.place.elim false w.hall.inUse || place.elim false w.hall.inUse then refusal w .sectionInUse
    else if place.elim false fun x => !w.layout.active.getLsbD x.val then refusal w .badArgument
    else if place.isSome && r.role = .desk then refusal w .wrongState
    else done { w with layout := w.layout.restartIdle, hall := w.hall.placeSeat n place }

/-- SEAT_PLACE (01 R4, 02 R22). -/
def execSeatPlace (seat : Half) (sec : Byte) (s : State) : Host.Outcome State Fault Refusal :=
  request 6 0x20#8 (fun w =>
    match numbered 256 seat.toNat, placeOf sec with
    | some n, some p =>
      if !w.layout.isOpen then refusal w .layoutLocked
      else placeRequest w n p
    | _, _ => refusal w .badArgument) s

end Sys2Proof.Machine
end

