-- ==== Sys2Proof/Machine/Seats.lean ====
section
/-! DEFINITION. Seat Table (chapter 2): replies and their keys, link state and grace, retirement, and the seat requests. -/

namespace Sys2Proof

/-! ## Keys (02 section 2.4) -/

/-- The key's place in the family of a role (02 section 2.2); PRIORITY covers both its events. -/
def Hall.accepts (h : Hall) (role : Role) (k : KeyEvent) : Bool :=
  match role, k with
  | _, .priorityUp => true
  | .delegate, .mic => h.maskDelegate.getLsbD 0
  | .delegate, .cancel => h.maskDelegate.getLsbD 1
  | .chair, .mic => h.maskChair.getLsbD 0
  | .chair, .cancel => h.maskChair.getLsbD 1
  | .chair, .priorityDown => h.maskChair.getLsbD 2
  | .chair, .next => h.maskChair.getLsbD 3
  | .desk, .deskOn => h.maskDesk.getLsbD 0
  | .desk, .deskOff => h.maskDesk.getLsbD 1
  | .desk, .outA => h.maskDesk.getLsbD 2
  | .desk, .outB => h.maskDesk.getLsbD 3
  | .desk, .relay _ => h.maskDesk.getLsbD 4
  | _, _ => false

/-- A key handed on with the seat's floor; the floor checks of 02 R25 come before. -/
def Hall.onFloor (h : Hall) (r : Seat) (k : FloorId → KeyTaken) : KeyTaken :=
  match r.place with
  | none => turnedDown h .unplaced
  | some _ =>
    match h.floorOf r with
    | none => turnedDown h .floorDark
    | some f => k f

/-- A desk key handed to the Interpretation Unit with the desk's fields. -/
def Hall.onDesk (h : Hall) (r : Seat) (k : DeskFields → KeyTaken) : KeyTaken :=
  match r.desk with
  | some d => k d
  | none => taken h

/-- A MIC key after the badge check (02 R25 check 4). -/
def Hall.micKey (now : Clock) (h : Hall) (n : SeatId) (r : Seat) (f : FloorId) : KeyTaken :=
  if (h.floor f).bank.badgeRequired && r.badge.isNone then turnedDown h .noBadge
  else h.mic now f n r.role

/-- The event a key is for the block it is handed to, after the checks of 02 R25. -/
def Hall.handKey (now : Clock) (h : Hall) (n : SeatId) (r : Seat) (k : KeyEvent) : KeyTaken :=
  if !h.accepts r.role k then turnedDown h .notAccepted
  else
    match k with
    | .mic => h.onFloor r (h.micKey now n r)
    | .cancel => h.cancel now n
    | .next => h.onFloor r (h.nextKey now)
    | .priorityDown => h.onFloor r fun f => taken (h.priorityDown now f n)
    | .priorityUp => taken (h.leaveHolders n)
    | .deskOn => h.onDesk r (h.deskOn n)
    | .deskOff => h.onDesk r fun _ => taken (h.deskLeaves n .deskOff)
    | .outA => h.onDesk r fun d => h.selectOut n d .a
    | .outB => h.onDesk r fun d => h.selectOut n d .b
    | .relay arg => h.onDesk r fun d => h.relayKey n d (relayArgOf arg)

/-- A refused key (02 R26): the cause, the mark, the flash of ten ticks (05 R99), the indicator. -/
def Hall.refuseKey (h : Hall) (n : SeatId) (c : KeyRefusal) : Hall :=
  ((h.updSeat n fun s => { s with lastRefusal := some c, flash := some 10 }).mark n).recompose n

/-- One key event of a reply, closed by the arbiter run (02 R25, 04 R68); a number with no record takes none. -/
def Hall.takeKey (now : Clock) (n : SeatId) (h : Hall) (k : KeyEvent) : Hall :=
  match h.seat? n with
  | some r =>
    let t := h.handKey now n r k
    match t.cause with
    | some c => (t.hall.refuseKey n c).arbitrate now
    | none => t.hall.arbitrate now
  | none => h

/-! ## Seat answered -/

/-- The reach stored, and the mark set when it changes (09 R162). -/
def Hall.setReach (h : Hall) (n : SeatId) (x : Reach) : Hall :=
  match h.seat? n with
  | some r => if r.reach = x then h else (h.updSeat n fun s => { s with reach := x }).mark n
  | none => h

/-- The link state set, with the mark. -/
def Hall.setLink (h : Hall) (n : SeatId) (l : Link) : Hall :=
  (h.updSeat n fun s => { s with link := l }).mark n

/-- The link restored (02 R31 from LOST_GRACE, R33 from GONE). -/
def Hall.restoreLink (now : Clock) (h : Hall) (n : SeatId) (r : Seat) : Hall :=
  match r.link with
  | .reachable => h
  | .lostGrace _ => (((h.setLink n .reachable).speechLink now n false).deskLinkRegained n).recompose n
  | .gone => h.setLink n .reachable

/-- The selected slot taken (02 R23). -/
def Hall.takeSlot (h : Hall) (n : SeatId) (slot : ListenSlot) : Hall :=
  match h.seat? n with
  | some r =>
    if r.slot = slot then h else ((h.updSeat n fun s => { s with slot := slot }).mark n).retuneSeat n
  | none => h

def Hall.setBadge (h : Hall) (n : SeatId) (b : Option Badge) : Hall :=
  (h.updSeat n fun s => { s with badge := b }).mark n

/-- A stored code withdrawn: badge removed is handed on where the seat speaks or waits (02 R24). -/
def Hall.dropBadge (now : Clock) (h : Hall) (n : SeatId) : Hall :=
  let g := h.setBadge n none
  if g.speaks n || g.queued n then g.badgeRemoved now n else g

/-- The badge part of a reply taken (02 R24). -/
def Hall.takeBadge (now : Clock) (h : Hall) (n : SeatId) (reported : Option Badge) : Hall :=
  match h.seat? n with
  | some r =>
    match r.badge, reported with
    | none, none => h
    | none, some c => h.setBadge n (some c)
    | some _, none => h.dropBadge now n
    | some c, some d => if c = d then h else (h.dropBadge now n).setBadge n (some d)
  | none => h

/-- A seat answered event, taken whole: reach, link, state fields, then the keys in press order (09 R162, 02 section 2.4). -/
def Hall.seatAnswered (now : Clock) (h : Hall) (n : SeatId) (via : Reach) (slot : ListenSlot) (badge : Option Badge)
    (keys : List KeyEvent) : Hall :=
  match h.seat? n with
  | some r =>
    keys.foldl (Hall.takeKey now n)
      ((((h.setReach n via).restoreLink now n r).takeSlot n slot).takeBadge now n badge)
  | none => h

/-! ## Loss, grace and retirement -/

/-- The grace of 3 s in ticks (02 R30). -/
def graceTicks : Nat := 30

/-- A REACHABLE seat reported missing (02 R30); in any other link state nothing is reported. -/
def Hall.seatMissing (now : Clock) (h : Hall) (n : SeatId) : Hall :=
  match h.seat? n with
  | some r =>
    if r.reachable then
      (((h.setLink n (.lostGrace graceTicks)).raise (.unitLost r.port)).speechLink now n true).deskLinkLost n
    else h
  | none => h

/-- A running grace timer expires (02 R32). The indicator is composed by table 2.6: R32 gives OFF unless a flash runs, and the
table DESK_HELD to a GONE desk in a booth's list whose selected output is HELD; the model's choice is the table (log entry
38). -/
def Hall.graceExpires (now : Clock) (h : Hall) (n : SeatId) : Hall :=
  match h.seat? n with
  | some r =>
    if r.inGrace then
      let g := (h.updSeat n fun s => { s with link := .gone, badge := none }).mark n
      let g := if g.speaks n || g.queued n || g.holds n then g.speechGone now n .linkLost .linkLost else g
      (g.deskLeaves n .linkLost).recompose n
    else h
  | none => h

def RetireCause.turn : RetireCause → TurnCause
  | .chainReset => .chainReset
  | .seatRetired => .seatRetired

def RetireCause.removal : RetireCause → RemovalCause
  | .chainReset => .chainReset
  | .seatRetired => .seatRetired

def RetireCause.release : RetireCause → ReleaseCause
  | .chainReset => .chainReset
  | .seatRetired => .seatRetired

/-- A seat retired (02 R35), but for the end of its polling, which the Chain Controller owns. -/
def Hall.retire (now : Clock) (h : Hall) (n : SeatId) (cause : RetireCause) : Hall :=
  let g := (h.speechGone now n cause.turn cause.removal).deskRetired n cause.release
  { g with seats := g.seats.set n .free }.mark n

/-! ## Making seats (02 R20) -/

def SeatPos.isFree : SeatPos → Bool
  | .free => true
  | _ => false

/-- The lowest-numbered free position. -/
def Hall.freeSeat (h : Hall) : Option SeatId :=
  h.seats.lowest SeatPos.isFree

def Hall.setPos (h : Hall) (n : SeatId) (p : SeatPos) : Hall :=
  { h with seats := h.seats.set n p }

/-- A reservation released; a seat record is never removed so. -/
def Hall.unreserve (h : Hall) (n : SeatId) : Hall :=
  if h.seats.get n = .reserved then h.setPos n .free else h

def UnitKind.role : UnitKind → Role
  | .delegateUnit => .delegate
  | .chairUnit => .chair
  | .deskUnit => .desk

/-- A seat record at creation (02 R20, 07 R117). -/
def Seat.made (port : PortId) (address : Nat) (kind : UnitKind) : Seat where
  port := port
  address := address
  reach := .primary
  kind := kind
  role := kind.role
  place := none
  link := .reachable
  badge := none
  slot := 0
  tuned := none
  indicator := .off
  desk := if kind = .deskUnit then some ⟨false, .a, .floor⟩ else none
  lastTurn := none
  lastRefusal := none
  flash := none

/-- A reserved position becomes a seat record, and its mark is set (02 R20). -/
def Hall.makeSeat (h : Hall) (n : SeatId) (port : PortId) (address : Nat) (kind : UnitKind) : Hall :=
  (h.setPos n (.held (Seat.made port address kind))).mark n

/-! ## Ports and rings (09 section 9.1) -/

/-- The ring a port belongs to: ring A has P0 and P1, ring B has P2 and P3 (00 section 4). -/
def ringOfPort (p : PortId) : RingId :=
  if p.val < 2 then 0 else 1

/-- The primary port of a ring: P0 or P2. -/
def primaryPort (r : RingId) : PortId :=
  if r = 0 then 0 else 2

/-- The secondary port of a ring: P1 or P3. -/
def secondaryPort (r : RingId) : PortId :=
  if r = 0 then 1 else 3

/-- A ring whose two ports are paired. -/
def paired (c : Chain) (r : RingId) : Bool :=
  (c.rings.get r).state != .linear

/-! ## Requests -/

/-- Whether a unit kind may play a role (02 R21). -/
def UnitKind.plays : UnitKind → Role → Bool
  | .delegateUnit, .delegate => true
  | .chairUnit, .delegate => true
  | .chairUnit, .chair => true
  | .deskUnit, .desk => true
  | _, _ => false

/-- The parts of a roster entry (02 R37). -/
def Seat.roster (r : Seat) : RosterFields :=
  ⟨r.port, r.address, r.reach, r.kind, r.role, r.place, r.link, r.badge.isSome, r.tuned⟩

/-- The marks of the collected numbers cleared, and the cursor moved (02 R37). -/
def Hall.collectRoster (h : Hall) (ns : List SeatId) : Hall :=
  { h with
    marks := ns.foldl (fun m n => m.set n false) h.marks
    cursor := match ns.getLast? with
      | some n => n.val + 1
      | none => h.cursor }

/-- The seats whose record satisfies a test, in ascending number. -/
def Hall.seatsWhere (h : Hall) (p : Seat → Bool) : List SeatId :=
  h.seats.positions fun x =>
    match x with
    | .held r => p r
    | _ => false

/-- A mask replaced; absent when the set names a key outside the role's family (02 R27). -/
def Hall.setMask (h : Hall) (role : Role) (keys : Byte) : Option Hall :=
  match role with
  | .delegate => if keys.toNat < 4 then some { h with maskDelegate := keys.setWidth 2 } else none
  | .chair => if keys.toNat < 16 then some { h with maskChair := keys.setWidth 4 } else none
  | .desk => if keys.toNat < 32 then some { h with maskDesk := keys.setWidth 5 } else none

/-- Every tuned channel re-resolved and every indicator recomposed (02 R39). -/
def Hall.refreshSeats (h : Hall) : Hall :=
  let g := h.retune fun _ _ => true
  g.recomposeAll (g.seatsWhere fun _ => true)

end Sys2Proof

namespace Sys2Proof.Machine

/-- SEAT_ROLE (02 R21). -/
def execSeatRole (seat : Half) (role : Byte) (s : State) : Host.Outcome State Fault Refusal :=
  request 6 0x23#8 (fun w =>
    match roleOf role with
    | none => refusal w .badArgument
    | some x =>
      withSeat w seat fun n r =>
        if !r.kind.plays x then refusal w .wrongState
        else if w.hall.speaks n || w.hall.queued n || w.hall.holds n then refusal w .seatBusy
        else if r.role = x then done w
        else done (inHall w (((w.hall.updSeat n fun y => { y with role := x }).recompose n).mark n))) s

/-- SEAT_READ (02 R38). -/
def execSeatRead (seat : Half) (s : State) : Host.Outcome State Fault Refusal :=
  request 5 0x21#8 (fun w =>
    withSeat w seat fun n r =>
      ⟨w, .ok, .seat n r (match r.link with
        | .lostGrace left => some (secsUp left)
        | _ => none) (r.lastRefusal.map keyRefusalByte)⟩) s

/-- The bytes of a SEAT_FIND frame by its kind of key (11 R185). -/
def findLength : FindKey → Nat
  | .place _ _ => 5
  | .card _ => 7

/-- SEAT_FIND (02 R38): by port and address, or by badge code. -/
def execSeatFind (key : FindKey) (s : State) : Host.Outcome State Fault Refusal :=
  request (findLength key) 0x22#8 (fun w =>
    match key with
    | .place port address =>
      match indexed 4 port.toNat with
      | none => refusal w .badArgument
      | some p =>
        if paired w.chain (ringOfPort p) && p = secondaryPort (ringOfPort p) then refusal w .badArgument
        else match (w.hall.seatsWhere fun r => r.port = p && r.address = address.toNat).head? with
          | some n => ⟨w, .ok, .seatAt n⟩
          | none => refusal w .notFound
    | .card code =>
      let ns := w.hall.seatsWhere fun r => r.badge = some code
      ⟨w, .ok, .seatsWithBadge (ns.take 16) ns.length⟩) s

/-- MASK_SET (02 R27). -/
def execMaskSet (role keys : Byte) (s : State) : Host.Outcome State Fault Refusal :=
  request 5 0x25#8 (fun w =>
    match (roleOf role).bind fun r => w.hall.setMask r keys with
    | some h => done (inHall w h)
    | none => refusal w .badArgument) s

/-- ROSTER_CHANGES (02 R37). -/
def execRosterChanges (s : State) : Host.Outcome State Fault Refusal :=
  request 3 0x26#8 (fun w =>
    let ns := w.hall.rosterCollected
    let h := w.hall.collectRoster ns
    ⟨inHall w h, .ok,
      .roster (ns.map fun n => ⟨n, (w.hall.seat? n).map Seat.roster⟩) (h.marks.some? id)⟩) s

/-- GRACE_EXPIRY (02 R32). -/
def execGraceExpiry (seat : SeatId) (s : State) : Host.Outcome State Fault Refusal :=
  event (fun w => inHall w (w.hall.graceExpires w.clock seat)) s

end Sys2Proof.Machine
end

