-- ==== Sys2Proof/Machine/Ticks.lean ====
section
/-! DEFINITION. Turn Timer Bank (chapter 5): the session tick, a turn timer reaching zero, the end of a refused flash, and
CLOCK_READ. The other timers of the part lower their time left at the same tick (log entry 2). -/

namespace Sys2Proof

/-! ## One tick of each record -/

/-- The turn timer of a speaker entry counts the tick (05 R94). -/
def Speaker.tick (e : Speaker) : Speaker :=
  { e with timer := e.timer.map Timer.tick }

/-- Whether the phase of an entry's timer changes with the tick. -/
def Speaker.turnsPhase (e : Speaker) : Bool :=
  e.timer.elim false fun t => t.tick.phase != t.phase

/-- Whether the timer of an entry is CUT and stands at zero. -/
def Speaker.timeIsUp (e : Speaker) : Bool :=
  e.timer.elim false Timer.expired

def Floor.tick (f : Floor) : Floor :=
  { f with speakers := f.speakers.map Speaker.tick }

/-- A grace timer and a refused flash count the tick (02 R30, 05 R99). -/
def Seat.tick (s : Seat) : Seat :=
  { s with
    link := match s.link with
      | .lostGrace left => .lostGrace (left - 1)
      | l => l
    flash := s.flash.bind fun k => if k ≤ 1 then none else some (k - 1) }

def SeatPos.tick : SeatPos → SeatPos
  | .held s => .held s.tick
  | p => p

/-- A flash whose count reaches zero at the tick (05 R99). -/
def Seat.flashEnds (s : Seat) : Bool :=
  s.flash.elim false fun k => k ≤ 1

def OutState.tick : OutState → OutState
  | .silent left => .silent (left - 1)
  | x => x

def Output.tick (o : Output) : Output :=
  { o with use := o.use.map fun u => { u with state := u.state.tick } }

def Booth.tick (b : Booth) : Booth :=
  { b with outA := b.outA.tick, outB := b.outB.tick }

def Lock.tick : Lock → Lock
  | .locked => .locked
  | .armed k left => .armed k (left - 1)
  | .opened k left => .opened k (left - 1)

def Wall.tick (x : Wall) : Wall :=
  { x with settleLeft := x.settleLeft.map (· - 1) }

def Layout.tick (l : Layout) : Layout :=
  { l with lock := l.lock.tick, walls := l.walls.imap fun _ x => x.map Wall.tick }

def RingRec.tick (r : RingRec) : RingRec :=
  { r with periodic := r.periodic.map (· - 1) }

def Chain.tick (c : Chain) : Chain :=
  { c with rings := c.rings.imap fun _ r => r.tick }

/-! ## The tick of the hall -/

/-- Every turn timer, grace timer, flash and fallback delay counts the tick. -/
def Hall.count (h : Hall) : Hall :=
  { h with
    floors := h.floors.imap fun _ f => f.tick
    seats := h.seats.imap fun _ x => x.tick
    booths := h.booths.imap fun _ b => b.tick }

/-- The speaking seats of a test, floors in ascending number and each list in its order. -/
def Hall.speakersWhere (h : Hall) (p : Speaker → Bool) : List SeatId :=
  h.floors.rows.flatMap fun f => (f.speakers.filter p).map (·.seat)

/-- An expiry (05 R95): the turn ends TIME_UP, and the arbiter runs (04 R84, R68). A seat with no speaker entry has none. -/
def Hall.timeUp (now : Clock) (h : Hall) (n : SeatId) : Hall :=
  match h.speakerFloor n with
  | some f => (h.endTurn now f n .timeUp).arbitrate now
  | none => h

/-- An expiry taken when the timer still stands at zero. -/
def Hall.timeUpIfDue (now : Clock) (h : Hall) (n : SeatId) : Hall :=
  if (h.speaker? n).elim false Speaker.timeIsUp then h.timeUp now n else h

/-- The tick event of the hall (05 R89): counts, phase changes and flash ends reported, then the expiries in the order of
the floors and of their lists (log entry 11). -/
def Hall.tick (now : Clock) (h : Hall) : Hall :=
  let g := (h.count.recomposeAll (h.speakersWhere Speaker.turnsPhase)).recomposeAll (h.seatsWhere Seat.flashEnds)
  (g.speakersWhere Speaker.timeIsUp).foldl (Hall.timeUpIfDue now) g

/-- The tick event (05 R89): the clock advances first. -/
def World.tick (w : World) : World where
  clock := w.clock + 1
  layout := w.layout.tick
  hall := w.hall.tick (w.clock + 1)
  chain := w.chain.tick

/-! ## A timer reaching zero as an event of its own -/

/-- Whether a seat's turn timer runs in a mode and has not passed zero (log entries 3 and 4). -/
def Hall.timerRuns (h : Hall) (n : SeatId) (m : TurnMode) : Bool :=
  ((h.speaker? n).bind (·.timer)).elim false fun t => t.running && t.mode = m && t.phase != .overrun

/-- A timer that reaches zero in WARN mode: the tick count returns to 0 with that second (05 R94, R96). -/
def Timer.overruns (t : Timer) : Timer :=
  { t with remaining := 0, ticks := 0, phase := .overrun }

/-- The timer of a seat reaches zero in WARN mode (05 R96). -/
def Hall.warnZero (h : Hall) (n : SeatId) : Hall :=
  match h.speakerFloor n with
  | some f =>
    (h.updFloor f fun x =>
      { x with
        speakers := x.speakers.map fun e =>
          if e.seat = n then { e with timer := e.timer.map Timer.overruns } else e }).recompose n
  | none => h

/-- A seat's refused flash ends (05 R99, 02 R26). -/
def Hall.endFlash (h : Hall) (n : SeatId) : Hall :=
  if (h.seat? n).elim false fun s => s.flash.isSome then
    (h.updSeat n fun s => { s with flash := none }).recompose n
  else h

end Sys2Proof

namespace Sys2Proof.Machine

/-- SESSION_TICK (05 R89, R94, R95, R96, R99). -/
def execSessionTick (s : State) : Host.Outcome State Fault Refusal :=
  event World.tick s

/-- TURN_TIMER_ZERO_CUT (05 R95). -/
def execTurnTimerZeroCut (seat : SeatId) (s : State) : Host.Outcome State Fault Refusal :=
  event (fun w => if w.hall.timerRuns seat .cut then inHall w (w.hall.timeUp w.clock seat) else w) s

/-- TURN_TIMER_ZERO_WARN (05 R96). -/
def execTurnTimerZeroWarn (seat : SeatId) (s : State) : Host.Outcome State Fault Refusal :=
  event (fun w => if w.hall.timerRuns seat .warn then inHall w (w.hall.warnZero seat) else w) s

/-- FLASH_END (05 R99, 02 R26). -/
def execFlashEnd (seat : SeatId) (s : State) : Host.Outcome State Fault Refusal :=
  event (fun w => inHall w (w.hall.endFlash seat)) s

/-- CLOCK_READ (05 R91). -/
def execClockRead (s : State) : Host.Outcome State Fault Refusal :=
  request 3 0x73#8 (fun w => ⟨w, .ok, .clock w.clock⟩) s

end Sys2Proof.Machine
end

