-- ==== Sys2Proof/Machine/Links.lean ====
section
/-! DEFINITION. Chain Controller (chapter 9), the operations: records of ports and rings, frames sent, loop tests and ring
states, polls with their replies and misses, ring tests, enrolments and chain resets as they advance. -/

namespace Sys2Proof

/-! ## Records -/

def World.onHall (w : World) (f : Hall → Hall) : World :=
  { w with hall := f w.hall }

def World.port (w : World) (p : PortId) : PortRec :=
  w.chain.ports.get p

def World.updPort (w : World) (p : PortId) (f : PortRec → PortRec) : World :=
  { w with chain := { w.chain with ports := w.chain.ports.upd p f } }

def World.ring (w : World) (r : RingId) : RingRec :=
  w.chain.rings.get r

def World.updRing (w : World) (r : RingId) (f : RingRec → RingRec) : World :=
  { w with chain := { w.chain with rings := w.chain.rings.upd r f } }

/-- The ring of a port when its two ports are paired. -/
def World.ringAt (w : World) (p : PortId) : Option RingId :=
  if paired w.chain (ringOfPort p) then some (ringOfPort p) else none

/-- The port whose record stands for a port: the primary port of a paired ring, or the port itself (09 section 9.1). -/
def World.root (w : World) (p : PortId) : PortId :=
  match w.ringAt p with
  | some r => primaryPort r
  | none => p

/-- The ring state under which a port's seats are judged (09 R163). -/
def World.ringState (w : World) (p : PortId) : RingState :=
  (w.ring (ringOfPort p)).state

/-- A port state set; the two ports of a paired ring share it (09 section 9.1). -/
def World.setPortState (w : World) (p : PortId) (st : PortState) : World :=
  match w.ringAt p with
  | some r =>
    (w.updPort (primaryPort r) fun x => { x with state := st }).updPort (secondaryPort r) fun x => { x with state := st }
  | none => w.updPort p fun x => { x with state := st }

/-- The seats of a port or ring, in ascending number. -/
def Hall.seatsOf (h : Hall) (p : PortId) : List SeatId :=
  h.seatsWhere fun r => r.port = p

/-- The poll entry at an address. -/
def World.entry? (w : World) (p : PortId) (address : Nat) : Option PollEntry :=
  (w.port p).entries.find? fun e => e.address = address

def World.updEntry (w : World) (p : PortId) (address : Nat) (f : PollEntry → PollEntry) : World :=
  w.updPort p fun x => { x with entries := x.entries.map fun e => if e.address = address then f e else e }

/-- A frame sent from a port. -/
def World.send (w : World) (p : PortId) (frame : List Byte) : World :=
  { w with chain := { w.chain with sent := w.chain.sent.set p frame } }

/-- The port through which an end of a chain is reached. -/
def endPort (root : PortId) : Reach → PortId
  | .primary => root
  | .secondary => secondaryPort (ringOfPort root)

def Reach.other : Reach → Reach
  | .primary => .secondary
  | .secondary => .primary

/-- Whether a loop test of a port's ring is in flight. -/
def World.loopInFlight (w : World) (p : PortId) : Bool :=
  (w.ring (ringOfPort p)).inFlight

/-! ## Ring states and loop tests (09 section 9.5) -/

/-- The seats of a port told that they are reached from the primary (09 R165). -/
def Hall.allPrimary (h : Hall) (p : PortId) : Hall :=
  (h.seatsOf p).foldl (fun g n => g.setReach n .primary) h

/-- Whether a change of ring state makes every secondary count 0: an entry to RING_CLOSED (09 R165), and the passing from
RING_CLOSED to RING_OPEN (09 R163). -/
def RingState.clearsSecondary : RingState → RingState → Bool
  | _, .closed => true
  | .closed, .opened => true
  | _, _ => false

/-- The port record at a change of its ring's state: a waiting second try is dropped. -/
def PortRec.ringSet (x : PortRec) (clear : Bool) : PortRec :=
  { x with
    retry := none
    entries := if clear then x.entries.map fun e => { e with missSecondary := 0 } else x.entries }

/-- A ring state set; a change raises RING_CHANGED, and an entry to RING_CLOSED reaches every seat from the primary
(09 R163, R165). -/
def World.setRing (w : World) (r : RingId) (st : RingState) : World :=
  if (w.ring r).state = st then w
  else
    let g := ((w.updRing r fun x => { x with state := st }).updPort (primaryPort r) fun x =>
      x.ringSet ((w.ring r).state.clearsSecondary st)).onHall fun h => h.raise (.ringChanged r)
    if st = .closed then g.onHall fun h => h.allPrimary (primaryPort r) else g

/-- A loop test started (09 R164): none starts while one is in flight. -/
def World.startLoop (w : World) (r : RingId) : World :=
  if (w.ring r).inFlight then w
  else
    (w.updRing r fun x => { x with testNo := x.testNo + 1, inFlight := true }).send (primaryPort r)
      (loopFrame ((w.ring r).testNo + 1))

/-- The 1 s of the periodic timer, in ticks (09 R164). -/
def periodicTicks : Nat := 10

/-- The periodic timer set to 1 s while the ring's ports are RUNNING, and stopped otherwise (09 R164). -/
def World.setPeriodic (w : World) (r : RingId) : World :=
  w.updRing r fun x =>
    { x with periodic := if (w.port (primaryPort r)).state = .running then some periodicTicks else none }

/-! ## Misses (09 R163) -/

/-- One more miss at an end; a count stops at 3. -/
def PollEntry.missed (e : PollEntry) : Reach → PollEntry
  | .primary => { e with missPrimary := (e.missPrimary + 1).min 3 }
  | .secondary => { e with missSecondary := (e.missSecondary + 1).min 3 }

/-- The rule of a seat's chain for reporting it missing; in RING_CLOSED the report waits for the loop test. -/
def missingRule (port : PortState) (ring : RingState) (e : PollEntry) : Bool :=
  match port, ring with
  | .enrolling, _ => e.missPrimary = 3
  | _, .closed => false
  | _, .opened => e.missPrimary = 3 && e.missSecondary = 3
  | _, _ => e.missPrimary = 3

/-- A seat reported missing once per loss. -/
def World.reportMissing (w : World) (p : PortId) (address : Nat) : World :=
  match w.entry? p address with
  | some e =>
    if e.reported then w
    else (w.updEntry p address fun x => { x with reported := true }).onHall fun h => h.seatMissing w.clock e.seat
  | none => w

/-- The seats whose primary count is 3 reported missing after a passed test in RING_CLOSED (09 R165). The rule gives several
such seats no order: the model reports them in the order of the poll entries, ascending address (log entry 44). -/
def World.reportCounted (w : World) (p : PortId) : World :=
  (((w.port p).entries.filter fun e => e.missPrimary = 3).map (·.address)).foldl (fun g a => g.reportMissing p a) w

/-- Whether an end is the one the seat's reach names. -/
def World.firstEnd (w : World) (p : PortId) (ex : Exchange) : Bool :=
  ((w.entry? p ex.address).bind fun e => w.hall.seat? e.seat).elim false fun s => s.reach = ex.via

/-- A miss from the primary end in RING_CLOSED starts a loop test while the port is RUNNING (09 R164). -/
def World.testOnMiss (w : World) (p : PortId) (via : Reach) : World :=
  if via = .primary ∧ (w.port p).state = .running ∧ w.ringState p = .closed then w.startLoop (ringOfPort p) else w

/-- A counted miss (09 R161, R163 to R165). -/
def World.countMiss (w : World) (p : PortId) (ex : Exchange) : World :=
  let g := w.updEntry p ex.address fun e => e.missed ex.via
  let due := (g.entry? p ex.address).elim false (missingRule (g.port p).state (g.ringState p))
  let g := if due then g.reportMissing p ex.address else g
  match (g.port p).state, g.ringState p with
  | .running, .opened =>
    g.updPort p fun x => { x with retry := if w.firstEnd p ex then some ex.address else none }
  | _, _ => g.testOnMiss p ex.via

/-! ## Ring tests (09 R166) -/

/-- The next poll of a ring test: the lowest address not yet polled from both ends, primary first. -/
def RingRun.next (t : RingRun) (entries : List PollEntry) : Option Exchange :=
  t.rows.findSome? fun row =>
    if entries.any fun e => e.address = row.address && e.seat = row.seat then
      if row.viaPrimary.isNone then some ⟨row.address, .primary, true⟩
      else if row.viaSecondary.isNone then some ⟨row.address, .secondary, true⟩
      else none
    else none

def RingTestRow.note (row : RingTestRow) (via : Reach) (answered : Bool) : RingTestRow :=
  match via with
  | .primary => { row with viaPrimary := some answered }
  | .secondary => { row with viaSecondary := some answered }

/-- The rows of the seats polled so far. -/
def RingRun.polled (t : RingRun) : List RingTestRow :=
  t.rows.filter fun row => row.viaPrimary.isSome || row.viaSecondary.isSome

/-- The record of a ring test that has ended or is abandoned. -/
def RingRun.record (t : RingRun) (now : Clock) (abandoned : Bool) : RingTestRecord :=
  ⟨t.loopPassed, now, t.polled, abandoned⟩

/-- A poll of a ring test recorded. -/
def World.noteTest (w : World) (p : PortId) (ex : Exchange) (answered : Bool) : World :=
  if ex.forTest then
    w.updRing (ringOfPort p) fun x =>
      { x with
        run := x.run.map fun t =>
          { t with
            rows := t.rows.map fun row => if row.address = ex.address then row.note ex.via answered else row } }
  else w

/-- A miss of a ring test's poll: recorded and not counted (09 R166), and a cause of a loop test like any other
(09 R164). -/
def World.testMiss (w : World) (p : PortId) (ex : Exchange) : World :=
  (w.noteTest p ex false).testOnMiss p ex.via

/-- A ring test in progress abandoned (09 R166): no RING_CHANGED. -/
def World.abandonTest (w : World) (p : PortId) : World :=
  w.updRing (ringOfPort p) fun x =>
    match x.run with
    | some t => { x with run := none, lastTest := some (t.record w.clock true) }
    | none => x

/-- A ring test whose polls have finished ends, and RING_CHANGED is raised (09 R166). -/
def World.settleTest (w : World) (p : PortId) : World :=
  match (w.ring (ringOfPort p)).run with
  | some t =>
    if t.loopPassed.isSome && (t.next (w.port p).entries).isNone && (w.port p).wait.isNone then
      (w.updRing (ringOfPort p) fun x =>
        { x with run := none, lastTest := some (t.record w.clock false) }).onHall fun h =>
          h.raise (.ringChanged (ringOfPort p))
    else w
  | none => w

/-! ## Enrolments (09 section 9.6) -/

/-- The point an enrolment in progress has reached. -/
def PortRec.stage? (x : PortRec) : Option EnrolStage :=
  x.enrol.map (·.stage)

def World.updEnrol (w : World) (p : PortId) (f : Enrolment → Enrolment) : World :=
  w.updPort p fun x => { x with enrol := x.enrol.map f }

def World.setStage (w : World) (p : PortId) (st : EnrolStage) : World :=
  w.updEnrol p fun e => { e with stage := st }

/-- The ring state settled at the end of an enrolment (09 R169 step 4; log entry 16). -/
def World.settleRing (w : World) (r : RingId) (res : EnrolResult) (st : PortState) : World :=
  match res, st with
  | .done, _ => w.setRing r .closed
  | .ringOpen, _ => w.setRing r .opened
  | _, .running => w.startLoop r
  | _, _ => w.setRing r .untested

/-- The last enrolment record of an enrolment that ends. -/
def Enrolment.record (e : Enrolment) (res : EnrolResult) (now : Clock) : EnrolRecord :=
  ⟨e.kind, res, e.made, e.first, e.last, now⟩

/-- The port state an enrolment ends in. -/
def World.endState (w : World) (p : PortId) : PortState :=
  if (w.hall.seatsOf p).isEmpty then .idle else .running

/-- The port record once its enrolment has ended. -/
def PortRec.endEnrol (x : PortRec) (e : Enrolment) (res : EnrolResult) (now : Clock) : PortRec :=
  { x with lastEnrol := some (e.record res now), enrol := none, wait := none, retry := none, cursor := 0 }

/-- An enrolment ends with a result (09 R169). -/
def World.endEnrol (w : World) (p : PortId) (res : EnrolResult) : World :=
  match (w.port p).enrol with
  | none => w
  | some e =>
    let g := (w.updPort p fun x => x.endEnrol e res w.clock).setPortState p (w.endState p)
    let g := match g.ringAt p with
      | some r => (g.setPeriodic r).settleRing r res (w.endState p)
      | none => g
    g.onHall fun h => h.raise (.enrollDone p)

/-- A reservation released. -/
def World.unreserve (w : World) (n : SeatId) : World :=
  w.onHall fun h => h.unreserve n

/-- The seat an enrolment holds reserved. -/
def EnrolStage.reserved : EnrolStage → Option SeatId
  | .window n => some n
  | .probing n => some n
  | _ => none

/-- The first assignment of an EXTEND, unless address 64 is in use (09 R167). -/
def World.extendReady (w : World) (p : PortId) : World :=
  match (w.port p).enrol with
  | some e => if 64 < e.nextAddr then w.endEnrol p .full else w.setStage p .assigning
  | none => w

/-- After the retirements of a FULL: assignment begins, or the abort that waited is taken (09 R167, R170). -/
def World.afterRetiring (w : World) (p : PortId) (e : Enrolment) : World :=
  if e.aborting then w.endEnrol p .aborted else w.setStage p .assigning

/-- The end of a chain reset (09 R171 step 5). -/
def World.finishReset (w : World) (p : PortId) : World :=
  let g := (w.updPort p fun x => { x with entries := [], releasePending := false, cursor := 0 }).setPortState p .idle
  match g.ringAt p with
  | some r => g.setRing r .untested
  | none => g

/-- What has become due on a port once its seats, exchanges or ring test have changed: the end of the retirements, the next
assignment step, or the end of a ring test. -/
def World.settle (w : World) (p : PortId) : World :=
  match (w.port p).state, (w.port p).enrol with
  | .resetting, _ =>
    if !(w.port p).releasePending && (w.hall.seatsOf p).isEmpty then w.finishReset p else w
  | .enrolling, some e =>
    match e.stage with
    | .retiring => if (w.hall.seatsOf p).isEmpty then w.afterRetiring p e else w
    | .polling after =>
      if (w.port p).wait.isNone && !((w.port p).entries.any fun x => after < x.address) then w.setStage p .assigning
      else w
    | _ => w
  | .running, _ => w.settleTest p
  | _, _ => w

/-- RELEASE_ALL from the primary port, and on a ring then from the secondary port (09 R167, R171). -/
def World.sendRelease (w : World) (p : PortId) : World :=
  match w.ringAt p with
  | some r => (w.send (primaryPort r) releaseAllFrame).send (secondaryPort r) releaseAllFrame
  | none => w.send p releaseAllFrame

/-- The cable cleared, and the retirements begun. -/
def World.release (w : World) (p : PortId) : World :=
  (((w.sendRelease p).updPort p fun x =>
    { x with
      releasePending := false
      enrol := x.enrol.map fun e => if e.stage = .releasing then { e with stage := .retiring } else e })).settle p

/-- RELEASE_ALL at once, or after the loop test in flight (09 R164; log entry 14). -/
def World.releaseWhenFree (w : World) (p : PortId) : World :=
  if (w.ringAt p).isSome && w.loopInFlight p then w.updPort p fun x => { x with releasePending := true }
  else w.release p

/-- The seat made from the reservation, with its poll entry (09 R168). -/
def World.seatMade (w : World) (p : PortId) (n : SeatId) (kind : UnitKind) : World :=
  match (w.port p).enrol with
  | some e =>
    (w.updPort p fun x =>
      { x with
        entries := x.entries ++ [⟨e.nextAddr, n, 0, 0, false, true⟩]
        enrol := some { e with made := e.made + 1, first := some (e.first.getD e.nextAddr), last := some e.nextAddr }
      }).onHall fun h => h.makeSeat n p e.nextAddr kind
  | none => w

/-- Steps 4 and 5 of an assignment step, after a seat has been made (09 R168, R170). -/
def World.afterSeat (w : World) (p : PortId) : World :=
  match (w.port p).enrol with
  | some e =>
    if e.aborting then w.endEnrol p .aborted
    else if e.nextAddr = 64 then w.endEnrol p .full
    else w.updEnrol p fun x => { x with nextAddr := x.nextAddr + 1, stage := .polling 0 }
  | none => w

/-- The end of an enrolment whose step made no seat; an abort that waited gives its own result (09 R168, R170). -/
def World.endUnmade (w : World) (p : PortId) (n : SeatId) (res : EnrolResult) : World :=
  let aborting := (w.port p).enrol.elim false (·.aborting)
  (w.unreserve n).endEnrol p (if aborting then .aborted else res)

/-- Nothing acknowledged the ASSIGN (09 R168). -/
def World.assignSilent (w : World) (p : PortId) (n : SeatId) : World :=
  w.endUnmade p n (if (w.ringAt p).isSome then .ringOpen else .done)

/-! ## Results of loop tests (09 R165) -/

/-- The rows of a ring test's polls, in ascending address. -/
def World.testRows (w : World) (p : PortId) : List RingTestRow :=
  (w.port p).entries.map fun e => ⟨e.address, e.seat, none, none⟩

/-- The result recorded with the session clock, and taken by a ring test that waits for it (09 R164, R166). -/
def World.recordLoop (w : World) (r : RingId) (passed : Bool) : World :=
  w.updRing r fun x =>
    { x with
      inFlight := false
      lastLoop := some (passed, w.clock)
      run := x.run.map fun t =>
        if t.loopPassed.isNone then ⟨some passed, w.testRows (primaryPort r)⟩ else t }

/-- The result acts on the ring state (09 R165). -/
def World.loopResult (w : World) (r : RingId) (passed : Bool) : World :=
  match (w.ring r).state, passed with
  | .linear, _ => w
  | .closed, true => w.reportCounted (primaryPort r)
  | _, true => w.setRing r .closed
  | _, false => w.setRing r .opened

/-- What waited for the loop test goes on: the EXTEND, the RELEASE_ALL, or the ring test. -/
def World.afterLoop (w : World) (p : PortId) (passed : Bool) : World :=
  match (w.port p).releasePending, (w.port p).stage? with
  | true, _ => w.release p
  | false, some .looping => if passed then w.extendReady p else w.endEnrol p .ringOpen
  | false, _ => w.settle p

/-- A loop test in flight ends with a result. -/
def World.loopEnded (w : World) (r : RingId) (passed : Bool) : World :=
  if (w.ring r).inFlight then
    (((w.recordLoop r passed).loopResult r passed).setPeriodic r).afterLoop (primaryPort r) passed
  else w

/-! ## Polls (09 R160 to R162) -/

/-- The language of an output, if it has one. -/
def Output.lang? (o : Output) : Option Lang :=
  o.use.map (·.lang)

/-- The desk display of a POLL to a DESK seat (09 R160; log entry 20). -/
def Hall.deskDisplay (h : Hall) (n : SeatId) (d : DeskFields) : DeskDisplay :=
  let out := (h.boothOf n).map fun b => h.output b d.selected
  { live := d.live
    selected := d.selected
    lang := out.bind Output.lang?
    state := out.elim Config.noOutputState fun o => outputStateByte o.use
    relay := d.relay
    relayLang := match d.relay with
      | .floor => none
      | .output b o => (h.output b o).lang? }

/-- A POLL built from the records standing (09 R160). -/
def Hall.pollOf (h : Hall) (e : PollEntry) (s : Seat) : List Byte :=
  pollFrame e.address e.lastBit (indicatorByte s.indicator) (tunedByte s.tuned) (s.desk.map (h.deskDisplay e.seat))

/-- The end from which normal polling reaches a seat (09 R161, R165). -/
def World.firstVia (w : World) (p : PortId) (n : SeatId) : Reach :=
  if w.ringState p = .opened then (w.hall.seat? n).elim .primary (·.reach) else .primary

/-- The next normal poll: the second try of a missed seat, else the next address, and after the highest the lowest. A second
try that a ring test has held up is made from the end other than the one the seat's reach then names (log entry 35). -/
def World.normalPoll (w : World) (p : PortId) : Option Exchange :=
  let r := w.port p
  match r.retry.bind (w.entry? p) with
  | some e => some ⟨e.address, (w.firstVia p e.seat).other, false⟩
  | none =>
    ((r.entries.find? fun e => r.cursor < e.address).or r.entries.head?).map fun e =>
      ⟨e.address, w.firstVia p e.seat, false⟩

/-- The poll a port begins next, if it polls now: never with an exchange open or a loop test in flight. -/
def World.nextPoll (w : World) (p : PortId) : Option Exchange :=
  let r := w.port p
  if r.wait.isSome || ((w.ringAt p).isSome && w.loopInFlight p) then none
  else match r.state, r.stage? with
    | .running, _ =>
      match (w.ring (ringOfPort p)).run with
      | some t => t.next r.entries
      | none => w.normalPoll p
    | .enrolling, some (.polling after) =>
      (r.entries.find? fun e => after < e.address).map fun e => ⟨e.address, .primary, false⟩
    | _, _ => none

/-- The port record once a poll has begun; the polls of a ring test leave a second try waiting (log entry 35). -/
def PortRec.began (x : PortRec) (ex : Exchange) : PortRec :=
  { x with
    wait := some ex
    retry := if ex.forTest then x.retry else none
    cursor := if ex.forTest || x.state != .running then x.cursor else ex.address }

/-- A poll begun: the POLL goes out from its end, and the exchange is open. -/
def World.beginPoll (w : World) (p : PortId) (ex : Exchange) : World :=
  match w.entry? p ex.address with
  | some e =>
    match w.hall.seat? e.seat with
    | some s => (w.send (endPort p ex.via) (w.hall.pollOf e s)).updPort p fun x => x.began ex
    | none => w
  | none => w

/-- The exchange open at a port, with the port whose record holds it. -/
def World.exchangeAt (w : World) (port : PortId) : Option (PortId × Exchange) :=
  (w.port (w.root port)).wait.bind fun ex =>
    if endPort (w.root port) ex.via = port then some (w.root port, ex) else none

/-- The reservation for which a probing POLL waits. -/
def World.probing? (w : World) (p : PortId) : Option SeatId :=
  (w.port p).enrol.bind fun e =>
    match e.stage with
    | .probing n => some n
    | _ => none

/-- Whether a REPLY is accepted in the open exchange (09 R161); a probing POLL accepts any unit kind (09 R168). -/
def World.accepts (w : World) (p : PortId) (ex : Exchange) (r : Reply) : Bool :=
  replyFits r && r.address.toNat = ex.address &&
    ((w.probing? p).isSome ||
      ((w.entry? p ex.address).bind fun e => w.hall.seat? e.seat).elim false fun s => s.kind = r.kind)

/-- An accepted reply taken (09 R162): keys only when its bit is new. -/
def World.takeReply (w : World) (p : PortId) (ex : Exchange) (r : Reply) : World :=
  match w.entry? p ex.address with
  | some e =>
    (w.updEntry p ex.address fun x =>
      { x with missPrimary := 0, missSecondary := 0, reported := false, lastBit := r.seqBit }).onHall fun h =>
        h.seatAnswered w.clock e.seat ex.via r.slot r.badge (if r.seqBit = e.lastBit then [] else r.events)
  | none => w

/-- The polls between assignment steps go on from the address polled (09 R168 step 5). -/
def World.afterPoll (w : World) (p : PortId) (ex : Exchange) : World :=
  w.updEnrol p fun e =>
    match e.stage with
    | .polling _ => { e with stage := .polling ex.address }
    | _ => e

/-- An exchange ends with an accepted reply or a miss. -/
def World.exchangeEnded (w : World) (p : PortId) (ex : Exchange) (answer : Option Reply) : World :=
  let g := w.updPort p fun x => { x with wait := none }
  match w.probing? p, answer with
  | some n, some r => ((g.seatMade p n r.kind).takeReply p ex r).afterSeat p
  | some n, none => g.assignSilent p n
  | none, some r => (((g.takeReply p ex r).noteTest p ex true).afterPoll p ex).settle p
  | none, none =>
    ((if ex.forTest then g.testMiss p ex else g.countMiss p ex).afterPoll p ex).settle p

/-- A REPLY arriving in an open exchange: accepted, or a miss (09 R161). -/
def World.replyArrives (w : World) (port : PortId) (r : Reply) : World :=
  match w.exchangeAt port with
  | some (p, ex) => w.exchangeEnded p ex (if w.accepts p ex r then some r else none)
  | none => w

/-- A window that closes without an accepted REPLY. -/
def World.windowCloses (w : World) (port : PortId) : World :=
  match w.exchangeAt port with
  | some (p, ex) => w.exchangeEnded p ex none
  | none => w

/-! ## Assignment answers (09 R168) -/

/-- The reservation for which an ASSIGN waits in its window, with the address sent. -/
def World.window? (w : World) (p : PortId) : Option (SeatId × Nat) :=
  (w.port p).enrol.bind fun e =>
    match e.stage with
    | .window n => some (n, e.nextAddr)
    | _ => none

/-- The acknowledged address has its seat. -/
def World.acknowledged (w : World) (p : PortId) (n : SeatId) (kind : UnitKind) : World :=
  (w.seatMade p n kind).afterSeat p

/-- One POLL to the assigned address with acknowledgement 1 (09 R168; log entry 19). -/
def World.probe (w : World) (p : PortId) (n : SeatId) (address : Nat) : World :=
  ((w.send p (pollFrame address true Config.probeIndicator Config.probeTuned none)).setStage p (.probing n)).updPort p
    fun x => { x with wait := some ⟨address, .primary, false⟩ }

/-- An ASSIGN_ACK in the window: the assigned address, or another one. -/
def World.ackArrives (w : World) (p : PortId) (address : Nat) (kind : UnitKind) : World :=
  match w.window? p with
  | some (n, a) => if address = a then w.acknowledged p n kind else w.probe p n a
  | none => w

/-- Bytes arriving in the window that are no ASSIGN_ACK naming the address. 09 R168 does not say at which port of a ring a
frame with a bad CRC counts: the model takes it at the port that holds the window, the primary, and a bad frame at the
secondary port is disregarded and leaves the window open (log entry 41). -/
def World.badAnswer (w : World) (p : PortId) (frame : List Byte) : World :=
  match w.window? p, frame, decodeUp frame with
  | none, _, _ => w
  | _, [], _ => w
  | some (n, a), _, none => w.probe p n a
  | some _, _, some (.assignAck address kind) => w.ackArrives p address.toNat kind
  | some _, _, some _ => w

/-- An assignment step begins: a seat reserved and the ASSIGN sent, or the end of the enrolment (09 R168). -/
def World.assign (w : World) (p : PortId) : World :=
  match (w.port p).enrol with
  | some e =>
    if e.stage = .assigning && !((w.ringAt p).isSome && w.loopInFlight p) then
      match w.hall.freeSeat with
      | some n =>
        (((w.onHall fun h => h.setPos n .reserved).setStage p (.window n))).send p (assignFrame e.nextAddr)
      | none => w.endEnrol p .seatTableFull
    else w
  | none => w

/-! ## Starting and stopping -/

/-- The highest address held by a seat of a port or ring (09 R167). -/
def Hall.highest (h : Hall) (p : PortId) : Nat :=
  ((h.seatsOf p).filterMap fun n => (h.seat? n).map (·.address)).foldl max 0

/-- The port ENROLLING, its polling, periodic timer and ring test stopped (09 R167). -/
def World.enrolling (w : World) (p : PortId) (e : Enrolment) : World :=
  let g := (((w.abandonTest p).updPort p fun x =>
    { x with enrol := some e, wait := none, retry := none })).setPortState p .enrolling
  match g.ringAt p with
  | some r => g.setPeriodic r
  | none => g

/-- A FULL enrolment begins (09 R167). -/
def World.beginFull (w : World) (p : PortId) : World :=
  let g := w.enrolling p ⟨.full, 1, 0, none, none, .releasing, false⟩
  (match g.ringAt p with
    | some r => g.setRing r .untested
    | none => g).releaseWhenFree p

/-- An EXTEND begins (09 R167). -/
def World.beginExtend (w : World) (p : PortId) : World :=
  let g := w.enrolling p ⟨.extend, w.hall.highest p + 1, 0, none, none, .looping, false⟩
  match g.ringAt p with
  | some r => g.startLoop r
  | none => g.extendReady p

/-- ENROLL_ABORT taken at the point the enrolment has reached (09 R170; log entry 17). -/
def World.abortEnrol (w : World) (p : PortId) (e : Enrolment) : World :=
  match e.stage with
  | .retiring => w.updEnrol p fun x => { x with aborting := true }
  | .window _ => w.updEnrol p fun x => { x with aborting := true }
  | .probing _ => w.updEnrol p fun x => { x with aborting := true }
  | _ => (w.updPort p fun x => { x with releasePending := false }).endEnrol p .aborted

/-- An enrolment that a chain reset ends at once (09 R171 step 2). -/
def World.dropEnrol (w : World) (p : PortId) : World :=
  match (w.port p).enrol with
  | some e =>
    let g := e.stage.reserved.elim w w.unreserve
    (g.updPort p fun x => x.endEnrol e .aborted w.clock).onHall fun h => h.raise (.enrollDone p)
  | none => w

/-- A chain reset begins (09 R171). -/
def World.beginReset (w : World) (p : PortId) : World :=
  let g := (((w.abandonTest p).updPort p fun x => { x with wait := none, retry := none })).setPortState p .resetting
  let g := match g.ringAt p with
    | some r => g.setPeriodic r
    | none => g
  (g.dropEnrol p).releaseWhenFree p

/-- The polling of a retired seat stops (02 R35 step 4, 09 R173). -/
def PortRec.stopPolling (x : PortRec) (n : SeatId) : PortRec :=
  let gone := (x.entries.filter fun e => e.seat = n).map (·.address)
  { x with
    entries := x.entries.filter fun e => e.seat ≠ n
    wait := x.wait.filter fun ex => !gone.contains ex.address
    retry := x.retry.filter fun a => !gone.contains a }

/-- A seat retired whole (02 R35), and what has become due on its port. -/
def World.retireSeat (w : World) (p : PortId) (n : SeatId) (cause : RetireCause) : World :=
  ((w.onHall fun h => h.retire w.clock n cause).updPort p fun x => x.stopPolling n).settle p

/-- Whether the retirements of a FULL or of a chain reset are under way on a port. -/
def PortRec.retiring (x : PortRec) : Bool :=
  match x.state, x.stage? with
  | .resetting, _ => !x.releasePending
  | .enrolling, some .retiring => true
  | _, _ => false

/-- The next retirement of a FULL or of a chain reset: the lowest seat of the port. -/
def World.retireNext (w : World) (p : PortId) : World :=
  if (w.port p).retiring then
    match (w.hall.seatsOf p).head? with
    | some n => w.retireSeat p n .chainReset
    | none => w.settle p
  else w

/-! ## Reading (09 R172) -/

/-- Whether a seat answered from each end in the last ring test. A seat made since at the same number and address is given
the old row: 09 R172 does not say whether the test covers it (log entry 34). -/
def RingTestRecord.answered (t : RingTestRecord) (e : PollEntry) : Option (Option Bool × Option Bool) :=
  (t.rows.find? fun row => row.address = e.address && row.seat = e.seat).map fun row =>
    (row.viaPrimary, row.viaSecondary)

def World.entryReport (w : World) (p : PortId) (e : PollEntry) : EntryReport :=
  ⟨e, (w.hall.seat? e.seat).map (·.reach), (w.ring (ringOfPort p)).lastTest.bind fun t => t.answered e⟩

def RingRec.report (r : RingRec) : RingReport :=
  ⟨r.state, r.inFlight, r.lastLoop, r.lastTest.map fun t => (t.loopPassed, t.clock, t.abandoned)⟩

/-- The answer of CHAIN_READ (09 R172). -/
def World.chainPayload (w : World) (p : PortId) (first : Nat) : Payload :=
  let r := w.port p
  .chain r.state ((w.ringAt p).map fun k => (w.ring k).report) (w.hall.seatsOf p).length
    (r.enrol.map fun e => (e.kind, e.nextAddr, e.made)) r.lastEnrol
    (((r.entries.filter fun e => first ≤ e.address).take 16).map (w.entryReport p))

end Sys2Proof
end

