-- ==== Sys2Proof/Machine/Chains.lean ====
section
/-! DEFINITION. Chain Controller (chapter 9), the commands: polls and their answers, loop tests, enrolment steps, the chain
requests, and SEAT_RETIRE with the end of the seat's polling. -/

namespace Sys2Proof.Machine

/-! ## Targets -/

/-- A chain target interpreted (09 R156): the port whose record stands for it, or a refusal. -/
def withTarget (w : World) (target : Byte) (k : PortId → Handled) : Handled :=
  match targetOf target with
  | none => refusal w .badArgument
  | some (.port p) =>
    if paired w.chain (ringOfPort p) && p = secondaryPort (ringOfPort p) then refusal w .badArgument else k p
  | some (.ring r) => if paired w.chain r then k (primaryPort r) else refusal w .wrongState

/-! ## Polling -/

/-- POLL (09 R160, R161): the port begins its next poll, if one is due. -/
def execPoll (port : PortId) (s : State) : Host.Outcome State Fault Refusal :=
  event (fun w =>
    match w.nextPoll port with
    | some ex => w.beginPoll port ex
    | none => w) s

/-- REPLY (09 R161, R162); outside an open exchange it is disregarded (09 R160). -/
def execReply (port : PortId) (r : Reply) (s : State) : Host.Outcome State Fault Refusal :=
  event (fun w => w.replyArrives port r) s

/-- POLL_MISS (09 R161, R163): the window closes on the bytes that arrived, if any. Bytes that are a REPLY are judged as
one. -/
def execPollMiss (port : PortId) (frame : List Byte) (s : State) : Host.Outcome State Fault Refusal :=
  event (fun w =>
    match decodeUp frame with
    | some (.reply r) => w.replyArrives port r
    | _ => w.windowCloses port) s

/-! ## Rings -/

/-- CHAIN_CONFIG(ring, ON) on idle ports (09 R157). -/
def pairPorts (w : World) (r : RingId) : World :=
  if paired w.chain r then w else w.updRing r fun x => { x with state := .untested }

/-- CHAIN_CONFIG(ring, OFF) on idle ports (09 R157); a loop test still in flight ends unheard (log entry 15). -/
def unpairPorts (w : World) (r : RingId) : World :=
  if paired w.chain r then
    w.updRing r fun x =>
      { x with state := .linear, lastLoop := none, lastTest := none, inFlight := false, periodic := none, run := none }
  else w

/-- CHAIN_CONFIG (09 R157): no attention item is raised. -/
def execChainConfig (ring value : Byte) (s : State) : Host.Outcome State Fault Refusal :=
  request 5 0x60#8 (fun w =>
    match ringOf ring, onOffOf value.toNat with
    | some r, some on =>
      if (w.port (primaryPort r)).state ≠ .idle ∨ (w.port (secondaryPort r)).state ≠ .idle then refusal w .wrongState
      else done (if on then pairPorts w r else unpairPorts w r)
    | _, _ => refusal w .badArgument) s

/-- RING_TEST (09 R166). -/
def execRingTest (target : Byte) (s : State) : Host.Outcome State Fault Refusal :=
  request 4 0x65#8 (fun w =>
    withTarget w target fun p =>
      match w.ringAt p with
      | none => refusal w .wrongState
      | some r =>
        if (w.port p).state ≠ .running then refusal w .wrongState
        else if (w.ring r).run.isSome then refusal w .busy
        else ⟨(w.updRing r fun x => { x with run := some ⟨none, []⟩ }).startLoop r, .accepted, .empty⟩) s

/-- PERIODIC_LOOP_TEST (09 R164): an expiry of a running periodic timer. -/
def execPeriodicLoopTest (ring : RingId) (s : State) : Host.Outcome State Fault Refusal :=
  event (fun w =>
    if (w.ring ring).periodic.isSome then
      let g := w.updRing ring fun x => { x with periodic := none }
      if (w.ring ring).state = .closed ∨ (w.ring ring).state = .opened then g.startLoop ring else g
    else w) s

/-- LOOP_ARRIVAL (09 R164, R165); another number is disregarded (11 R186). -/
def execLoopArrival (ring : RingId) (number : Byte) (s : State) : Host.Outcome State Fault Refusal :=
  event (fun w => if (w.ring ring).testNo = number then w.loopEnded ring true else w) s

/-- LOOP_TIMEOUT (09 R164, R165). -/
def execLoopTimeout (ring : RingId) (s : State) : Host.Outcome State Fault Refusal :=
  event (fun w => w.loopEnded ring false) s

/-! ## Enrolment -/

/-- ENROLL(FULL) (09 R167). -/
def execEnrollFull (target : Byte) (s : State) : Host.Outcome State Fault Refusal :=
  request 5 0x61#8 (fun w =>
    withTarget w target fun p =>
      if (w.port p).state = .enrolling ∨ (w.port p).state = .resetting then refusal w .busy
      else ⟨w.beginFull p, .accepted, .empty⟩) s

/-- ENROLL(EXTEND) (09 R167). -/
def execEnrollExtend (target : Byte) (s : State) : Host.Outcome State Fault Refusal :=
  request 5 0x61#8 (fun w =>
    withTarget w target fun p =>
      if (w.port p).state = .enrolling ∨ (w.port p).state = .resetting then refusal w .busy
      else if (w.port p).state ≠ .running then refusal w .wrongState
      else ⟨w.beginExtend p, .accepted, .empty⟩) s

/-- ENROLL_ABORT (09 R170). -/
def execEnrollAbort (target : Byte) (s : State) : Host.Outcome State Fault Refusal :=
  request 4 0x62#8 (fun w =>
    withTarget w target fun p =>
      match (w.port p).state, (w.port p).enrol with
      | .enrolling, some e => done (w.abortEnrol p e)
      | _, _ => refusal w .wrongState) s

/-- CHAIN_SEAT_RETIRE (09 R167, R171; 02 R35): one retirement of a FULL or a chain reset. -/
def execChainSeatRetire (port : PortId) (s : State) : Host.Outcome State Fault Refusal :=
  event (fun w => if w.root port = port then w.retireNext port else w) s

/-- ASSIGN_STEP (09 R168). -/
def execAssignStep (port : PortId) (s : State) : Host.Outcome State Fault Refusal :=
  event (fun w => w.assign port) s

/-- ASSIGN_ACK (09 R168); outside its window it is disregarded (09 R160). -/
def execAssignAck (port : PortId) (address : Byte) (kind : UnitKind) (s : State) : Host.Outcome State Fault Refusal :=
  event (fun w => w.ackArrives port address.toNat kind) s

/-- ASSIGN_RETURNED (09 R168): the ASSIGN arrives at the secondary port of a ring. -/
def execAssignReturned (ring : RingId) (s : State) : Host.Outcome State Fault Refusal :=
  event (fun w =>
    match paired w.chain ring, w.window? (primaryPort ring) with
    | true, some (n, _) => w.endUnmade (primaryPort ring) n .done
    | _, _ => w) s

/-- ASSIGN_BAD_ANSWER (09 R168, 11 R186). -/
def execAssignBadAnswer (port : PortId) (frame : List Byte) (s : State) : Host.Outcome State Fault Refusal :=
  event (fun w => w.badAnswer port frame) s

/-- ASSIGN_TIMEOUT (09 R168). -/
def execAssignTimeout (port : PortId) (s : State) : Host.Outcome State Fault Refusal :=
  event (fun w =>
    match w.window? port with
    | some (n, _) => w.assignSilent port n
    | none => w) s

/-! ## Reset, retirement and reading -/

/-- CHAIN_RESET (09 R171). -/
def execChainReset (target : Byte) (s : State) : Host.Outcome State Fault Refusal :=
  request 4 0x63#8 (fun w =>
    withTarget w target fun p =>
      if (w.port p).state = .resetting then refusal w .busy
      else ⟨w.beginReset p, .accepted, .empty⟩) s

/-- SEAT_RETIRE (02 R34, R35; 09 R173). -/
def execSeatRetire (seat : Half) (s : State) : Host.Outcome State Fault Refusal :=
  request 5 0x24#8 (fun w =>
    withSeat w seat fun n r =>
      if r.link = .gone then done (w.retireSeat r.port n .seatRetired) else refusal w .wrongState) s

/-- CHAIN_READ (09 R172). -/
def execChainRead (target first : Byte) (s : State) : Host.Outcome State Fault Refusal :=
  request 5 0x64#8 (fun w =>
    withTarget w target fun p =>
      match within 1 64 first.toNat with
      | some a => ⟨w, .ok, w.chainPayload p a⟩
      | none => refusal w .badArgument) s

end Sys2Proof.Machine
end

