-- ==== Sys2Proof/Machine/Port.lean ====
section
/-! DEFINITION. Host Port and Attention (chapter 10): transactions, refused frames, attention requests, hall reset and its
steps, IDENTIFY, and device reset. -/

namespace Sys2Proof

/-! ## Transactions (10 R174, R175) -/

/-- The end of a read transaction of `n` bytes: the bytes shifted out, and a whole UNREAD frame READ, in every port phase. A
transaction with no byte shifts none. -/
def HostPort.read (p : HostPort) (n : Nat) : HostPort :=
  if n = 0 then p.release else ((p.transact n).readDone n).release

/-- Device reset of the Host Port (10 R183): a chip select that stands asserted is waited out. -/
def HostPort.afterReset (p : HostPort) : HostPort :=
  { HostPort.reset with cs := if p.cs = .released then .released else .ignored, discards := p.discards }

/-- The levels of the inputs are the outside's: they stand through a device reset (log entry 23). -/
def World.afterReset (w : World) : World :=
  { World.reset with
    layout := { Layout.reset with lines := w.layout.lines }
    hall := { Hall.reset with routeQueue := routeRefill, inFlight := none, link := [], hold := w.hall.hold }.startFrame }

/-- The part code (11 R185). -/
def partCode : Half := 0x4F12#16

/-- The capacities of the part (10 R182). -/
def capacities : Capacities where
  seats := 256
  sections := 12
  walls := 16
  floors := 6
  voiceSlots := 16
  channels := 32
  booths := 12
  poolEntries := 96
  chainPorts := 4

/-- The attention kinds of a mask argument: twelve, so bits 12 to 15 name none (10 R179, 11 R185). -/
def maskOf (kinds : Half) : Option (BitVec 12) :=
  if kinds.toNat < 4096 then some (kinds.setWidth 12) else none

end Sys2Proof

namespace Sys2Proof.Machine

/-- ANSWER_READ (10 R175): a read transaction of `bytes` bytes. -/
def execAnswerRead (bytes : Nat) (s : State) : Host.Outcome State Fault Refusal :=
  .next { s with port := s.port.read bytes }

/-- WRITE_DISCARDED (10 R175): a write whose bytes are not given; one that the port takes is no such write. -/
def execWriteDiscarded (s : State) : Host.Outcome State Fault Refusal :=
  if s.port.takesWrite then .next s else .next { s with port := s.port.discard }

/-- CHIP_SELECT_ASSERTED (10 R175). -/
def execChipSelectAsserted (s : State) : Host.Outcome State Fault Refusal :=
  .next { s with port := s.port.select }

/-- READ_ATTENTION (10 R180). -/
def execReadAttention (s : State) : Host.Outcome State Fault Refusal :=
  request 3 0x70#8 (fun w => ⟨inHall w w.hall.clearAttention, .ok, .attention w.hall.items⟩) s

/-- ATTENTION_MASK (10 R179): the mask replaced within the request's event. -/
def execAttentionMask (kinds : Half) (s : State) : Host.Outcome State Fault Refusal :=
  match s.port.takesWrite, maskOf kinds with
  | true, some m => request 5 0x71#8 (fun w => ⟨w, .ok, .mask m⟩) { s with port := { s.port with mask := m } }
  | _, _ => request 5 0x71#8 (fun w => refusal w .badArgument) s

/-- IDENTIFY (10 R182); the hardware issue has no value in the spec (log entry 10). -/
def execIdentify (s : State) : Host.Outcome State Fault Refusal :=
  request 3 0x74#8 (fun w => ⟨w, .ok, .identity partCode Config.hardwareIssue capacities w.clock⟩) s

/-! ## Hall reset (10 R181) -/

/-- HALL_RESET: with the part code the reset begins and its answer waits for the last step. -/
def execHallReset (confirmation : Half) (s : State) : Host.Outcome State Fault Refusal :=
  if s.port.takesWrite && confirmation = partCode then .next { s with port := (s.port.transact 5).execute .closing }
  else request 5 0x72#8 (fun w => refusal w .badArgument) s

/-- The lowest-numbered LIVE floor. -/
def lowestLive (h : Hall) : Option FloorId :=
  h.floors.lowest Floor.isLive

/-- HALL_RESET_FLOOR_CLOSE (03 R60, 10 R181 step 1). -/
def execHallResetFloorClose (s : State) : Host.Outcome State Fault Refusal :=
  match s.port.hall, lowestLive s.world.hall with
  | .closing, some f => event (fun w => inHall w (w.hall.closeFloor w.clock f)) s
  | _, _ => .next s

/-- HALL_RESET_SEAT_REFRESH (02 R39, 10 R181 step 2): once no floor is LIVE. -/
def execHallResetSeatRefresh (s : State) : Host.Outcome State Fault Refusal :=
  match s.port.hall, lowestLive s.world.hall with
  | .closing, none =>
    event (fun w => inHall w w.hall.refreshSeats) { s with port := { s.port with hall := .refreshed } }
  | _, _ => .next s

/-- HALL_RESET_ROUTE_REFILL (06 R115, 10 R181 step 3). -/
def execHallResetRouteRefill (s : State) : Host.Outcome State Fault Refusal :=
  match s.port.hall with
  | .refreshed => event (fun w => inHall w w.hall.refillRoutes) { s with port := { s.port with hall := .refilled } }
  | _ => .next s

/-- HALL_RESET_ATTENTION_CLEAR (10 R181 steps 4 and 5, R177): the set emptied and the answer OK placed. -/
def execHallResetAttentionClear (s : State) : Host.Outcome State Fault Refusal :=
  match s.port.hall with
  | .refilled =>
    event (fun w => inHall w w.hall.clearAttention) { s with port := s.port.place ⟨.ok, 0x72#8, .empty⟩ }
  | _ => .next s

/-- DEVICE_RESET (10 R183 and the reset rule of every block). -/
def execDeviceReset (s : State) : Host.Outcome State Fault Refusal :=
  .next { s with world := s.world.afterReset, port := s.port.afterReset }

/-! ## Frames as bytes (10 R174 to R176) -/

/-- Layout, seat and attention requests run from their frames. -/
def runFirst (i : Instr) (s : State) : Option (Host.Outcome State Fault Refusal) :=
  match i with
  | .layoutOpen k => some (execLayoutOpen k s)
  | .layoutConfirm k => some (execLayoutConfirm k s)
  | .layoutClose => some (execLayoutClose s)
  | .sectionSet a b => some (execSectionSet a b s)
  | .wallDefine a b c d e f g h => some (execWallDefine a b c d e f g h s)
  | .wallRemove a => some (execWallRemove a s)
  | .wallSet a b => some (execWallSet a b s)
  | .wallRead a => some (execWallRead a s)
  | .mergeConfirm a => some (execMergeConfirm a s)
  | .mergeRefuse a => some (execMergeRefuse a s)
  | .seatPlace n a => some (execSeatPlace n a s)
  | .seatRole n a => some (execSeatRole n a s)
  | .seatRead n => some (execSeatRead n s)
  | .seatFind k => some (execSeatFind k s)
  | .seatRetire n => some (execSeatRetire n s)
  | .maskSet a b => some (execMaskSet a b s)
  | .rosterChanges => some (execRosterChanges s)
  | .readAttention => some (execReadAttention s)
  | .attentionMask k => some (execAttentionMask k s)
  | .hallReset k => some (execHallReset k s)
  | .clockRead => some (execClockRead s)
  | .identify => some (execIdentify s)
  | _ => none

/-- Floor, speech, booth and chain requests run from their frames. -/
def runSecond (i : Instr) (s : State) : Option (Host.Outcome State Fault Refusal) :=
  match i with
  | .floorOpen a b c => some (execFloorOpen a b c s)
  | .floorClose a => some (execFloorClose a s)
  | .floorSet a b => some (execFloorSet a b s)
  | .floorRead a => some (execFloorRead a s)
  | .bankWrite a items => some (execBankWrite a items s)
  | .bankRead a b => some (execBankRead a b s)
  | .bankSwapNormal a => some (execBankSwapNormal a s)
  | .bankSwapForce a => some (execBankSwapForce a s)
  | .bankCancel a => some (execBankCancel a s)
  | .grant a n b => some (execGrant a n b s)
  | .closeMic n => some (execCloseMic n s)
  | .queueInsert a n b => some (execQueueInsert a n b s)
  | .queueRemove n => some (execQueueRemove n s)
  | .queueClear a => some (execQueueClear a s)
  | .floorPriorityOn a => some (execFloorPriorityOn a s)
  | .floorPriorityOff a => some (execFloorPriorityOff a s)
  | .speakersRead a => some (execSpeakersRead a s)
  | .queueRead a b => some (execQueueRead a b s)
  | .boothAssign a b => some (execBoothAssign a b s)
  | .boothOutput a b c d => some (execBoothOutput a b c d s)
  | .boothOutputClear a b => some (execBoothOutputClear a b s)
  | .boothAddDesk a n => some (execBoothAddDesk a n s)
  | .boothRemoveDesk a n => some (execBoothRemoveDesk a n s)
  | .boothSet a b c => some (execBoothSet a b c s)
  | .boothRelease a => some (execBoothRelease a s)
  | .boothRead a => some (execBoothRead a s)
  | .channelRead a => some (execChannelRead a s)
  | .chainConfig a b => some (execChainConfig a b s)
  | .enrollFull a => some (execEnrollFull a s)
  | .enrollExtend a => some (execEnrollExtend a s)
  | .enrollAbort a => some (execEnrollAbort a s)
  | .chainReset a => some (execChainReset a s)
  | .chainRead a b => some (execChainRead a b s)
  | .ringTest a => some (execRingTest a s)
  | _ => none

/-- A request handed to the block that owns its record (10 R176); a command that is no request changes nothing. -/
def runRequest (i : Instr) (s : State) : Host.Outcome State Fault Refusal :=
  ((runFirst i s).or (runSecond i s)).getD (.next s)

/-- A write of a frame judged by 10 R176: refused with the echo of its first byte, or handed to its owner
(log entry 24). -/
def writeFrame (code : Byte) (bytes : List Byte) (s : State) : Host.Outcome State Fault Refusal :=
  match judgeFrame bytes with
  | .badFrame => request bytes.length code (fun w => refusal w .badFrame) s
  | .unknownRequest => request bytes.length code (fun w => refusal w .unknownRequest) s
  | .badLength => request bytes.length code (fun w => refusal w .badLength) s
  | .undefinedKind => request bytes.length code (fun w => refusal w .badArgument) s
  | .request i => runRequest i s

/-- REQUEST_FRAME_REFUSED (10 R174 to R176): a transaction of these bytes. No byte changes nothing, a first byte of filler
makes it a read, and any other makes it a write. -/
def execRequestFrameRefused (bytes : List Byte) (s : State) : Host.Outcome State Fault Refusal :=
  match bytes with
  | [] => .next { s with port := s.port.release }
  | code :: rest =>
    if code = filler then .next { s with port := s.port.read bytes.length }
    else writeFrame code (code :: rest) s

end Sys2Proof.Machine
end

