-- ==== Sys2Proof/Machine/Dispatch.lean ====
section
/-! DEFINITION. The meaning of every command: one arm for each constructor of Instr. -/

namespace Sys2Proof.Machine

def exec (i : Instr) (s : State) : Host.Outcome State Fault Refusal :=
  match i with
  -- Layout Unit (chapter 1)
  | .layoutOpen key => Sys2Proof.Machine.execLayoutOpen key s
  | .layoutConfirm key => Sys2Proof.Machine.execLayoutConfirm key s
  | .layoutClose => Sys2Proof.Machine.execLayoutClose s
  | .armWindowExpiry => Sys2Proof.Machine.execArmWindowExpiry s
  | .idleTimerExpiry => Sys2Proof.Machine.execIdleTimerExpiry s
  | .sectionSet sec active => Sys2Proof.Machine.execSectionSet sec active s
  | .wallDefine wall secA secB source line polarity settle policy => Sys2Proof.Machine.execWallDefine wall secA secB source line polarity settle policy s
  | .wallRemove wall => Sys2Proof.Machine.execWallRemove wall s
  | .wallSet wall pos => Sys2Proof.Machine.execWallSet wall pos s
  | .wallRead wall => Sys2Proof.Machine.execWallRead wall s
  | .mergeConfirm wall => Sys2Proof.Machine.execMergeConfirm wall s
  | .mergeRefuse wall => Sys2Proof.Machine.execMergeRefuse wall s
  | .wallLineChange line high => Sys2Proof.Machine.execWallLineChange line high s
  | .settleTimerExpiry wall => Sys2Proof.Machine.execSettleTimerExpiry wall s
  -- Seat Table (chapter 2)
  | .seatPlace seat sec => Sys2Proof.Machine.execSeatPlace seat sec s
  | .seatRole seat role => Sys2Proof.Machine.execSeatRole seat role s
  | .seatRead seat => Sys2Proof.Machine.execSeatRead seat s
  | .seatFind key => Sys2Proof.Machine.execSeatFind key s
  | .seatRetire seat => Sys2Proof.Machine.execSeatRetire seat s
  | .maskSet role keys => Sys2Proof.Machine.execMaskSet role keys s
  | .rosterChanges => Sys2Proof.Machine.execRosterChanges s
  -- Floor Table (chapter 3)
  | .floorOpen floor anchor precedence => Sys2Proof.Machine.execFloorOpen floor anchor precedence s
  | .floorClose floor => Sys2Proof.Machine.execFloorClose floor s
  | .floorSet floor precedence => Sys2Proof.Machine.execFloorSet floor precedence s
  | .floorRead floor => Sys2Proof.Machine.execFloorRead floor s
  | .bankWrite floor items => Sys2Proof.Machine.execBankWrite floor items s
  | .bankRead floor bank => Sys2Proof.Machine.execBankRead floor bank s
  | .bankSwapNormal floor => Sys2Proof.Machine.execBankSwapNormal floor s
  | .bankSwapForce floor => Sys2Proof.Machine.execBankSwapForce floor s
  | .bankCancel floor => Sys2Proof.Machine.execBankCancel floor s
  -- Speech Arbiter (chapter 4)
  | .grant floor seat displace => Sys2Proof.Machine.execGrant floor seat displace s
  | .closeMic seat => Sys2Proof.Machine.execCloseMic seat s
  | .queueInsert floor seat position => Sys2Proof.Machine.execQueueInsert floor seat position s
  | .queueRemove seat => Sys2Proof.Machine.execQueueRemove seat s
  | .queueClear floor => Sys2Proof.Machine.execQueueClear floor s
  | .floorPriorityOn floor => Sys2Proof.Machine.execFloorPriorityOn floor s
  | .floorPriorityOff floor => Sys2Proof.Machine.execFloorPriorityOff floor s
  | .speakersRead floor => Sys2Proof.Machine.execSpeakersRead floor s
  | .queueRead floor first => Sys2Proof.Machine.execQueueRead floor first s
  -- Interpretation Unit (chapter 7) and Channel Allocator (chapter 6)
  | .boothAssign booth floor => Sys2Proof.Machine.execBoothAssign booth floor s
  | .boothOutput booth output language channel => Sys2Proof.Machine.execBoothOutput booth output language channel s
  | .boothOutputClear booth output => Sys2Proof.Machine.execBoothOutputClear booth output s
  | .boothAddDesk booth seat => Sys2Proof.Machine.execBoothAddDesk booth seat s
  | .boothRemoveDesk booth seat => Sys2Proof.Machine.execBoothRemoveDesk booth seat s
  | .boothSet booth policy delay => Sys2Proof.Machine.execBoothSet booth policy delay s
  | .boothRelease booth => Sys2Proof.Machine.execBoothRelease booth s
  | .boothRead booth => Sys2Proof.Machine.execBoothRead booth s
  | .channelRead channel => Sys2Proof.Machine.execChannelRead channel s
  -- Route Output (chapter 6)
  | .routeFrameDone => Sys2Proof.Machine.execRouteFrameDone s
  | .holdActive => Sys2Proof.Machine.execHoldActive s
  | .holdInactive => Sys2Proof.Machine.execHoldInactive s
  -- Turn Timer Bank (chapter 5)
  | .sessionTick => Sys2Proof.Machine.execSessionTick s
  | .turnTimerZeroCut seat => Sys2Proof.Machine.execTurnTimerZeroCut seat s
  | .turnTimerZeroWarn seat => Sys2Proof.Machine.execTurnTimerZeroWarn seat s
  | .flashEnd seat => Sys2Proof.Machine.execFlashEnd seat s
  | .clockRead => Sys2Proof.Machine.execClockRead s
  -- Chain Controller (chapter 9), with the grace and fallback timers
  | .poll port => Sys2Proof.Machine.execPoll port s
  | .reply port r => Sys2Proof.Machine.execReply port r s
  | .pollMiss port frame => Sys2Proof.Machine.execPollMiss port frame s
  | .graceExpiry seat => Sys2Proof.Machine.execGraceExpiry seat s
  | .fallbackDelayExpiry booth output => Sys2Proof.Machine.execFallbackDelayExpiry booth output s
  | .chainConfig ring value => Sys2Proof.Machine.execChainConfig ring value s
  | .enrollFull target => Sys2Proof.Machine.execEnrollFull target s
  | .enrollExtend target => Sys2Proof.Machine.execEnrollExtend target s
  | .enrollAbort target => Sys2Proof.Machine.execEnrollAbort target s
  | .chainSeatRetire port => Sys2Proof.Machine.execChainSeatRetire port s
  | .assignStep port => Sys2Proof.Machine.execAssignStep port s
  | .assignAck port address kind => Sys2Proof.Machine.execAssignAck port address kind s
  | .assignReturned ring => Sys2Proof.Machine.execAssignReturned ring s
  | .assignBadAnswer port frame => Sys2Proof.Machine.execAssignBadAnswer port frame s
  | .assignTimeout port => Sys2Proof.Machine.execAssignTimeout port s
  | .chainReset target => Sys2Proof.Machine.execChainReset target s
  | .chainRead target first => Sys2Proof.Machine.execChainRead target first s
  | .ringTest target => Sys2Proof.Machine.execRingTest target s
  | .periodicLoopTest ring => Sys2Proof.Machine.execPeriodicLoopTest ring s
  | .loopArrival ring number => Sys2Proof.Machine.execLoopArrival ring number s
  | .loopTimeout ring => Sys2Proof.Machine.execLoopTimeout ring s
  -- Host Port (chapter 10)
  | .answerRead bytes => Sys2Proof.Machine.execAnswerRead bytes s
  | .requestFrameRefused bytes => Sys2Proof.Machine.execRequestFrameRefused bytes s
  | .writeDiscarded => Sys2Proof.Machine.execWriteDiscarded s
  | .readAttention => Sys2Proof.Machine.execReadAttention s
  | .attentionMask kinds => Sys2Proof.Machine.execAttentionMask kinds s
  | .hallReset confirmation => Sys2Proof.Machine.execHallReset confirmation s
  | .hallResetFloorClose => Sys2Proof.Machine.execHallResetFloorClose s
  | .hallResetSeatRefresh => Sys2Proof.Machine.execHallResetSeatRefresh s
  | .hallResetRouteRefill => Sys2Proof.Machine.execHallResetRouteRefill s
  | .hallResetAttentionClear => Sys2Proof.Machine.execHallResetAttentionClear s
  | .identify => Sys2Proof.Machine.execIdentify s
  | .deviceReset => Sys2Proof.Machine.execDeviceReset s
  | .chipSelectAsserted => Sys2Proof.Machine.execChipSelectAsserted s

end Sys2Proof.Machine
end

