-- ==== Sys2Proof/Machine/Step.lean ====
section
/-! DEFINITION. One step of the part: the command at the front of the queue is taken, whole. -/

namespace Sys2Proof.Machine

/-- The state with another queue of waiting commands. -/
def State.withPending (s : State) (cs : List Instr) : State :=
  { s with pending := cs }

/-- The front command runs on the state with the queue's rest; on an empty queue the part idles (log entry 1). -/
def step (s : State) : Host.Outcome State Fault Refusal :=
  match s.pending with
  | [] => .next s
  | c :: rest => exec c (s.withPending rest)

/-- The command a table word spells, put at the front of the queue. The table gives no bits, so no word spells one. -/
def State.withFetchWord (s : State) (nbits w : Nat) : State :=
  match decodeTableWord nbits w with
  | some i => s.withPending (i :: s.pending)
  | none => s

end Sys2Proof.Machine
end

