-- ==== Sys2Proof/Safety.lean ====
section
/-! DEFINITION. What the certificates speak of: the state after an event, the invariants that hold between any two commands, and
the families of commands by what they may change. -/

namespace Sys2Proof.Machine

/-- The state after an event of the part: its world, and ATTN judged afresh (10 R179). -/
def State.after (s : State) (w : World) : State :=
  { s with world := w, port := s.port.judge w.hall }

/-- The port takes a write (10 R175). -/
def State.takes (s : State) : Prop :=
  s.port.takesWrite = true

/-! ## The Host Port between commands (10 R175, R177, R179, R181) -/

/-- READY stands exactly for an UNREAD answer, RECEIVING exactly for a transaction the port follows, a hall reset exactly
while a request executes, whose answer buffer is EMPTY, and ATTN exactly for an item whose kind is in the mask. -/
def PortInv (p : HostPort) (h : Hall) : Prop :=
  (p.ready = true ↔ ∃ a, p.buffer = .unread a) ∧
  (p.phase = .receiving ↔ p.cs = .asserted) ∧
  (p.phase = .executing ↔ p.hall ≠ .none) ∧
  (p.phase = .executing → p.buffer = .empty) ∧
  (p.attn = true ↔ ∃ i ∈ attnItems, h.stands i = true ∧ p.mask.getLsbD i.kind.val = true)

/-! ## The Layout Unit between commands (01 R5, R11, R13 to R16) -/

/-- A defined wall: two distinct active sections; a settle timer exactly while its line reports another state than the sensed
one; and a merge PENDING or REFUSED only while it is sensed OPEN and applied CLOSED. -/
def WallInv (l : Layout) (x : Wall) : Prop :=
  x.secA ≠ x.secB ∧ l.active.getLsbD x.secA.val = true ∧ l.active.getLsbD x.secB.val = true ∧
  (x.settleLeft.isSome = true ↔ ∃ pos, l.reported x = some pos ∧ pos ≠ x.sensed) ∧
  (x.merge ≠ .idle → x.sensed = .opened ∧ x.applied = .closed)

/-- A pending entry holds the sensed state of a defined wall, which differs from its applied state, and no merge waits. -/
def PendingInv (l : Layout) (i : WallId) (pos : WallPos) : Prop :=
  ∃ x, l.wall i = some x ∧ x.sensed = pos ∧ x.applied ≠ pos ∧ x.merge = .idle

/-- The layout between commands: the pending wall set is empty while the lock is LOCKED. -/
def LayoutInv (l : Layout) : Prop :=
  (∀ i x, l.wall i = some x → WallInv l x) ∧
  (∀ i pos, l.pendingWalls.get i = some pos → PendingInv l i pos) ∧
  (l.lock = .locked → ∀ i, l.pendingWalls.get i = none)

end Sys2Proof.Machine

namespace Sys2Proof

/-- The seats of the speaker list and of the queue of every floor. -/
def Hall.listed (h : Hall) : List SeatId :=
  (List.finRange 6).flatMap fun f => (h.floor f).speakers.map (·.seat) ++ (h.floor f).queue.map (·.seat)

/-- A channel's hold fits its owner's state (06 R101, R105): OWNED by a LIVE floor, LENT to the carrier of a FOLDED one, or
RESERVED for an output of a FOLDED one. -/
def Hall.holdFits (h : Hall) (u : ChanUse) : Prop :=
  match u.hold with
  | .owned => (h.floor u.owner).state = .live
  | .lent x => (h.floor u.owner).state = .folded x
  | .reserved => (∃ x, (h.floor u.owner).state = .folded x) ∧ u.origin ≠ .original

/-- A channel's origin names it back (06 R101, 07 R117): its owner's original channel, whose language is 0 exactly while it is
OWNED; or the channel of an output of a booth of its owner, with that output's language, RESERVED exactly while the output is
HELD. -/
def Hall.originFits (h : Hall) (c : ChannelId) (u : ChanUse) : Prop :=
  match u.origin with
  | .original => (h.floor u.owner).original? = some c ∧ u.lang = if u.hold = .owned then some 0 else none
  | .output b o => ∃ v, (h.output b o).use = some v ∧ v.chan = c ∧ u.lang = some v.lang ∧ v.lang ≠ 0 ∧
      (h.booths.get b).floor = some u.owner ∧ (u.hold = .reserved ↔ v.state = .held)

end Sys2Proof

namespace Sys2Proof.Machine

/-! ## Speakers, queues and voice slots between commands (03 R57, 04 R61 to R65) -/

/-- A seat stands in at most one list, once; floors that are not LIVE have empty lists; no floor has more delegates than its
limit nor a longer queue than its cap; at most 96 entries wait; and a slot is HELD exactly for one speaker entry, its gate
open exactly while that entry is not muted. -/
def SpeechInv (h : Hall) : Prop :=
  h.listed.Nodup ∧
  (∀ f, (h.floor f).state ≠ .live → (h.floor f).speakers = [] ∧ (h.floor f).queue = []) ∧
  (∀ f, (h.floor f).delegates ≤ (h.floor f).bank.limit ∧ (h.floor f).queue.length ≤ (h.floor f).bank.cap) ∧
  (h.floors.rows.map fun f => f.queue.length).sum ≤ 96 ∧
  (∀ f e, e ∈ (h.floor f).speakers → h.slots.get e.slot = some ⟨e.seat, f, !e.muted⟩) ∧
  ∀ k v, h.slots.get k = some v → ∃ e ∈ (h.floor v.floor).speakers, e.slot = k ∧ e.seat = v.seat

/-! ## Channels and outputs between commands (03 R40, 06 R101, R105, R106, 07 R117) -/

/-- Channels, outputs and floors name one another: a FREE channel carries SILENCE, every other fits its owner's state and is
named by its origin; a floor that is not CLOSED has its original channel and a FOLDED one a LIVE carrier; an output in use
has its channel; an UNASSIGNED booth uses none, an assigned one has a floor that is not CLOSED; a LIVE desk stands on its
selected output, which is LIVE with it; and no language stands twice in a LIVE floor's map, nor among the channels of one
owner. -/
def ChannelInv (h : Hall) : Prop :=
  (∀ c, (h.channels.get c).use = none → (h.channels.get c).content = .silence) ∧
  (∀ c u, (h.channels.get c).use = some u → h.holdFits u ∧ h.originFits c u) ∧
  (∀ f, (h.floor f).state = .closed ↔ (h.floor f).sess = none) ∧
  (∀ f c, (h.floor f).original? = some c →
    ∃ u, (h.channels.get c).use = some u ∧ u.owner = f ∧ u.origin = .original) ∧
  (∀ f x, (h.floor f).state = .folded x → (h.floor x).state = .live) ∧
  (∀ b o v, (h.output b o).use = some v →
    ∃ u, (h.channels.get v.chan).use = some u ∧ u.origin = .output b o) ∧
  (∀ b, (h.booths.get b).floor = none → (h.output b .a).use = none ∧ (h.output b .b).use = none) ∧
  (∀ b f, (h.booths.get b).floor = some f → (h.floor f).state ≠ .closed) ∧
  (∀ n d, h.desk? n = some d → d.live = true →
    ∃ b u g, h.boothOf n = some b ∧ (h.output b d.selected).use = some u ∧ u.state = .live n g) ∧
  (∀ f l c d u v, h.inMap f (h.channels.get c) = true → h.inMap f (h.channels.get d) = true →
    (h.channels.get c).use = some u → (h.channels.get d).use = some v → u.lang = some l → v.lang = some l → c = d) ∧
  ∀ l c d u v, (h.channels.get c).use = some u → (h.channels.get d).use = some v → u.owner = v.owner →
    u.lang = some l → v.lang = some l → c = d

/-! ## Families of commands -/

/-- The requests that read records and change none. -/
def isRead : Instr → Bool
  | .wallRead _ | .seatRead _ | .seatFind _ | .floorRead _ | .bankRead _ _ | .speakersRead _ | .queueRead _ _
  | .boothRead _ | .channelRead _ | .clockRead | .chainRead _ _ | .identify => true
  | _ => false

/-- The commands that may change a record of the Layout Unit. -/
def changesLayout : Instr → Bool
  | .layoutOpen _ | .layoutConfirm _ | .layoutClose | .armWindowExpiry | .idleTimerExpiry | .sectionSet _ _
  | .wallDefine _ _ _ _ _ _ _ _ | .wallRemove _ | .wallSet _ _ | .mergeConfirm _ | .mergeRefuse _
  | .wallLineChange _ _ | .settleTimerExpiry _ | .seatPlace _ _ | .sessionTick | .deviceReset
  | .requestFrameRefused _ => true
  | _ => false

/-- The commands that may change a record of the Chain Controller. -/
def changesChain : Instr → Bool
  | .poll _ | .reply _ _ | .pollMiss _ _ | .chainConfig _ _ | .enrollFull _ | .enrollExtend _ | .enrollAbort _
  | .chainSeatRetire _ | .assignStep _ | .assignAck _ _ _ | .assignReturned _ | .assignBadAnswer _ _
  | .assignTimeout _ | .chainReset _ | .ringTest _ | .periodicLoopTest _ | .loopArrival _ _ | .loopTimeout _
  | .seatRetire _ | .sessionTick | .deviceReset | .requestFrameRefused _ => true
  | _ => false

/-- The commands of a hall reset and of a chain reset (10 R181, 09 R171). -/
def isHallOrChainReset : Instr → Bool
  | .hallReset _ | .hallResetFloorClose | .hallResetSeatRefresh | .hallResetRouteRefill | .hallResetAttentionClear
  | .chainReset _ | .chainSeatRetire _ => true
  | _ => false

/-- The host requests of the Speech Arbiter (04 section 4.9). -/
def isSpeech : Instr → Bool
  | .grant _ _ _ | .closeMic _ | .queueInsert _ _ _ | .queueRemove _ | .queueClear _ | .floorPriorityOn _
  | .floorPriorityOff _ | .speakersRead _ | .queueRead _ _ => true
  | _ => false

/-- The host requests of the Interpretation Unit (07 section 7.3). -/
def isBooth : Instr → Bool
  | .boothAssign _ _ | .boothOutput _ _ _ _ | .boothOutputClear _ _ | .boothAddDesk _ _ | .boothRemoveDesk _ _
  | .boothSet _ _ _ | .boothRelease _ | .boothRead _ => true
  | _ => false

end Sys2Proof.Machine
end

