-- ==== Sys2Proof/Certificates/Slice0/Obligations.lean ====
section
/-! DEFINITION. The statements for the provers. A statement that a command completes gives the next state it answers, as an
equation or by what that state holds. -/

open Sys2Proof Sys2Proof.Machine

/-! ## The step and the Host Port -/

/-- A command at the front of the queue runs on the state with the queue's rest. That an empty queue idles is the model's
choice (log entry 1). -/
def Obligations.StepRunsFrontCommand : Prop :=
  (∀ (c : Instr) (rest : List Instr) (s : State),
    step (s.withPending (c :: rest)) = exec c (s.withPending rest)) ∧
  ∀ s : State, s.pending = [] → step s = .next s

/-- Every command answers a next state, and leaves the queue as it was. That the queue stands through DEVICE_RESET is the
model's choice (log entry 23), and that an event which does not apply answers a next state is an inference of the model
(log entry 5). -/
def Obligations.EveryCommandRuns : Prop :=
  ∀ (c : Instr) (s : State), ∃ t, exec c s = .next t ∧ t.pending = s.pending

/-- A request taken is answered in the same event (10 R177): the buffer UNREAD with the code's echo, READY asserted, the port
IDLE, ATTN judged. While its bytes went in, the frame held before it went out (10 R174, R175; log entry 26). HALL_RESET has
its own statement. -/
def Obligations.RequestIsAnswered : Prop :=
  ∀ (i : Instr) (code : Byte) (args : List Byte) (s : State),
    requestArgs i = some (code, args) → (∀ c, i ≠ .hallReset c) → s.takes →
    ∃ t st p, exec i s = .next t ∧ t.port.buffer = .unread ⟨st, code, p⟩ ∧ t.port.ready = true ∧
      t.port.phase = .idle ∧ t.port.cs = .released ∧ t.port.attn = t.world.hall.calls t.port.mask ∧
      t.port.readOut = s.port.buffer.shifted (args.length + 3)

/-- A refused request changes no record of any block, and its answer has an empty payload (10 R176). BAD_KEY alone relocks
the layout (01 R2). -/
def Obligations.RefusedRequestChangesNothing : Prop :=
  ∀ (i : Instr) (code : Byte) (args : List Byte) (s t : State) (st : Status) (p : Payload),
    requestArgs i = some (code, args) → s.takes → exec i s = .next t → t.port.buffer = .unread ⟨st, code, p⟩ →
    st ≠ .ok → st ≠ .accepted → st ≠ .badKey → t.world = s.world ∧ p = .empty

/-- A write that began while a request executed is discarded whole: no answer, no record changed, chip select released, and
the bytes shifted out are those of the frame held, then filler (10 R174, R175; log entry 26). How many bytes a
WRITE_DISCARDED has is free, but for the first; the model counts such writes (log entry 37). -/
def Obligations.UntakenWriteIsDiscarded : Prop :=
  (∀ (i : Instr) (code : Byte) (args : List Byte) (s : State), requestArgs i = some (code, args) → ¬ s.takes →
    exec i s = .next { s with
      port := { s.port with cs := .released, readOut := s.port.buffer.shifted (args.length + 3) } }) ∧
  (∀ (code : Byte) (rest : List Byte) (s : State), code ≠ 0xFF#8 → ¬ s.takes →
    exec (.requestFrameRefused (code :: rest)) s = .next { s with
      port := { s.port with cs := .released, readOut := s.port.buffer.shifted (rest.length + 1) } }) ∧
  ∀ s : State, ¬ s.takes → ∃ n, 0 < n ∧ exec .writeDiscarded s = .next { s with
    port := { s.port with
      cs := .released, readOut := s.port.buffer.shifted n, discards := s.port.discards + 1 } }

/-- The frame of every well-formed request is read as that request, with every operand (10 R176, 11 R184, R185). -/
def Obligations.RequestFrameIsReadBack : Prop :=
  ∀ (i : Instr) (code : Byte) (args : List Byte),
    i.wellFormed = true → requestArgs i = some (code, args) → judgeFrame (requestFrame code args) = .request i

/-- A write of the frame of a request is that request, an inference of the model on the row REQUEST_FRAME_REFUSED (log
entry 24). The three refusals of a frame, in the order of their checks (10 R176): BAD_FRAME for a short frame or a bad check
byte, UNKNOWN_REQUEST for a code of no request, BAD_LENGTH for a length the request does not admit. -/
def Obligations.FramesRunOrAreRefused : Prop :=
  (∀ (i : Instr) (code : Byte) (args : List Byte) (s : State),
    i.wellFormed = true → requestArgs i = some (code, args) →
    exec (.requestFrameRefused (requestFrame code args)) s = exec i s) ∧
  (∀ (code : Byte) (rest : List Byte) (s : State), s.takes → code ≠ 0xFF#8 →
    ((code :: rest).length < 3 ∨ (code :: rest).getLast? ≠ some (checkByte (code :: rest).dropLast)) →
    exec (.requestFrameRefused (code :: rest)) s =
      .next (s.answered (rest.length + 1) code ⟨s.world, .badFrame, .empty⟩)) ∧
  (∀ (code : Byte) (args : List Byte) (s : State), s.takes → code ≠ 0xFF#8 → args.length ≤ 48 →
    requestTable.lookup code = none →
    exec (.requestFrameRefused (requestFrame code args)) s =
      .next (s.answered (args.length + 3) code ⟨s.world, .unknownRequest, .empty⟩)) ∧
  ∀ (code : Byte) (args : List Byte) (s : State), s.takes → code ≠ 0xFF#8 → args.length ≤ 48 →
    parseRequest code args = .badLength →
    exec (.requestFrameRefused (requestFrame code args)) s =
      .next (s.answered (args.length + 3) code ⟨s.world, .badLength, .empty⟩)

/-- READY, the port phase, the answer buffer and ATTN agree after every step (10 R175, R177, R179, R181). -/
def Obligations.HostPortInvariantIsKept : Prop :=
  ∀ s t : State, PortInv s.port s.world.hall → step s = .next t → PortInv t.port t.world.hall

/-- The layout keeps its invariant through every step (01 R5, R7, R11, R13 to R18). -/
def Obligations.LayoutInvariantIsKept : Prop :=
  ∀ s t : State, LayoutInv s.world.layout → step s = .next t → LayoutInv t.world.layout

/-- Speaker lists, queues and voice slots keep their invariant through every step (03 R53, R57, 04 R61 to R65, R68). -/
def Obligations.SpeechInvariantIsKept : Prop :=
  ∀ s t : State, SpeechInv s.world.hall → step s = .next t → SpeechInv t.world.hall

/-- Channels, outputs, booths and floors keep their invariant through every step (03 R40, 06 R101 to R106, 07 R117, R129,
08 R143, R144, R152). -/
def Obligations.ChannelInvariantIsKept : Prop :=
  ∀ s t : State, ChannelInv s.world.hall → step s = .next t → ChannelInv t.world.hall

/-- The four invariants hold right after device reset. -/
def Obligations.InvariantsHoldAtReset : Prop :=
  PortInv State.reset.port State.reset.world.hall ∧ LayoutInv State.reset.world.layout ∧
    SpeechInv State.reset.world.hall ∧ ChannelInv State.reset.world.hall

/-- A whole read of an UNREAD answer makes it READ and deasserts READY; a read in part changes neither. A READ answer is
shifted out again, and an EMPTY buffer gives filler. In every phase the bytes shifted out are the frame's, then filler; a
transaction with no byte shifts none (10 R174, R175). Chip select is followed from an IDLE port. -/
def Obligations.ReadTransactions : Prop :=
  (∀ (s : State) (a : Answer) (n : Nat), s.port.buffer = .unread a → (answerFrame a).length ≤ n →
    exec (.answerRead n) s = .next { s with
      port := { s.port with
        buffer := .read a, ready := false, cs := .released
        phase := if s.port.phase = .receiving then .idle else s.port.phase
        readOut := answerFrame a ++ List.replicate (n - (answerFrame a).length) 0xFF#8 } }) ∧
  (∀ (s : State) (a : Answer) (n : Nat), s.port.buffer = .unread a → 0 < n → n < (answerFrame a).length →
    exec (.answerRead n) s = .next { s with
      port := { s.port with
        cs := .released, phase := if s.port.phase = .receiving then .idle else s.port.phase
        readOut := (answerFrame a).take n } }) ∧
  (∀ (s : State) (a : Answer) (n : Nat), s.port.buffer = .read a → 0 < n →
    exec (.answerRead n) s = .next { s with
      port := { s.port with
        cs := .released, phase := if s.port.phase = .receiving then .idle else s.port.phase
        readOut := (answerFrame a).take n ++ List.replicate (n - (answerFrame a).length) 0xFF#8 } }) ∧
  (∀ (s : State) (n : Nat), s.port.buffer = .empty → 0 < n →
    exec (.answerRead n) s = .next { s with
      port := { s.port with
        cs := .released, phase := if s.port.phase = .receiving then .idle else s.port.phase
        readOut := List.replicate n 0xFF#8 } }) ∧
  (∀ s : State, exec (.answerRead 0) s = .next { s with
      port := { s.port with
        cs := .released, phase := if s.port.phase = .receiving then .idle else s.port.phase } }) ∧
  (∀ s : State, s.port.phase = .idle → s.port.cs = .released →
    exec .chipSelectAsserted s = .next { s with port := { s.port with phase := .receiving, cs := .asserted } }) ∧
  ∀ s : State, s.port.phase = .executing → s.port.cs = .released →
    exec .chipSelectAsserted s = .next { s with port := { s.port with cs := .ignored } }

/-- READ_ATTENTION carries every item of the set in order and empties the set; ATTN is deasserted (10 R180). -/
def Obligations.ReadAttentionEmptiesTheSet : Prop :=
  ∀ s : State, s.takes → ∃ t, exec .readAttention s = .next t ∧
    t.port.buffer = .unread ⟨.ok, 0x70#8, .attention (attnItems.filter s.world.hall.stands)⟩ ∧
    (∀ i, t.world.hall.stands i = false) ∧ t.port.attn = false ∧ t.port.mask = s.port.mask ∧
    t.world = { s.world with hall := { s.world.hall with attention := t.world.hall.attention } }

/-- ATTENTION_MASK replaces the mask and judges ATTN by it; a set that names a thirteenth kind is refused (10 R179). -/
def Obligations.AttentionMaskIsReplaced : Prop :=
  (∀ (kinds : Half) (s : State), s.takes → kinds.toNat < 4096 → ∃ t, exec (.attentionMask kinds) s = .next t ∧
    t.port.mask = kinds.setWidth 12 ∧ t.port.buffer = .unread ⟨.ok, 0x71#8, .mask (kinds.setWidth 12)⟩ ∧
    t.port.attn = s.world.hall.calls (kinds.setWidth 12) ∧ t.world = s.world) ∧
  ∀ (kinds : Half) (s : State), s.takes → 4096 ≤ kinds.toNat →
    exec (.attentionMask kinds) s = .next (s.answered 5 0x71#8 ⟨s.world, .badArgument, .empty⟩)

/-- CLOCK_READ is answered OK with the session clock and changes no state (05 R91). -/
def Obligations.ClockRead : Prop :=
  ∀ s : State, s.takes → exec .clockRead s = .next (s.answered 3 0x73#8 ⟨s.world, .ok, .clock s.world.clock⟩)

/-- IDENTIFY is answered OK, changes no record and carries the part code, the hardware issue, the capacities and the session
clock (10 R182; the issue's value is free, log entry 10). HALL_RESET with the part code begins a hall reset: the port EXECUTING, no
answer yet, no record changed, the frame held before it shifted out and discarded; any other value is refused (10 R175,
R181). -/
def Obligations.IdentifyAndHallReset : Prop :=
  (∀ s : State, s.takes → exec .identify s = .next (s.answered 3 0x74#8
    ⟨s.world, .ok, .identity 0x4F12#16 Config.hardwareIssue ⟨256, 12, 16, 6, 16, 32, 12, 96, 4⟩ s.world.clock⟩)) ∧
  (∀ s : State, s.takes → exec (.hallReset 0x4F12#16) s = .next { s with
    port := { s.port with
      phase := .executing, cs := .released, buffer := .empty, ready := false, hall := .closing
      readOut := s.port.buffer.shifted 5 } }) ∧
  ∀ (c : Half) (s : State), s.takes → c ≠ 0x4F12#16 →
    exec (.hallReset c) s = .next (s.answered 5 0x72#8 ⟨s.world, .badArgument, .empty⟩)

/-- The steps of a hall reset in their order (10 R181, 03 R60, 02 R39, 06 R115): the lowest LIVE floor closed, the seats
refreshed once none is LIVE, the routes refilled, the attention set emptied with the answer OK placed. -/
def Obligations.HallResetSteps : Prop :=
  (∀ (s : State) (f : FloorId), s.port.hall = .closing → (s.world.hall.floor f).state = .live →
    (∀ g, g < f → (s.world.hall.floor g).state ≠ .live) →
    ∃ t, exec .hallResetFloorClose s = .next t ∧ t.world.hall.floor f = Floor.reset ∧ t.port.hall = .closing) ∧
  (∀ s : State, s.port.hall = .closing → (∀ g, (s.world.hall.floor g).state ≠ .live) →
    ∃ t, exec .hallResetSeatRefresh s = .next t ∧ t.port.hall = .refreshed ∧
      t.world.hall.floors = s.world.hall.floors ∧ t.world.hall.channels = s.world.hall.channels ∧
      ∀ n r, t.world.hall.seat? n = some r → r.role ≠ .desk → r.desk = none → r.tuned = none) ∧
  (∀ s : State, s.port.hall = .refreshed → ∃ t, exec .hallResetRouteRefill s = .next t ∧ t.port.hall = .refilled ∧
    (s.world.hall.inFlight.isSome = true ∨ s.world.hall.hold = true →
      t.world.hall.routeQueue = routeRefill ∧ t.world.hall.inFlight = s.world.hall.inFlight) ∧
    (s.world.hall.inFlight = none → s.world.hall.hold = false →
      t.world.hall.routeQueue = routeRefill.tail ∧ t.world.hall.inFlight = some (.slot 0 none))) ∧
  ∀ s : State, s.port.hall = .refilled → ∃ t, exec .hallResetAttentionClear s = .next t ∧
    (∀ i, t.world.hall.stands i = false) ∧ t.port.attn = false ∧ t.port.mask = s.port.mask ∧
    t.port.buffer = .unread ⟨.ok, 0x72#8, .empty⟩ ∧ t.port.ready = true ∧ t.port.phase = .idle ∧ t.port.hall = .none

/-- Device reset (10 R183, 05 R89, 02 R19, 03 R40, 06 R101, R115, 07 R117, 09 R156, 01 R1, R5, R6). That the wall line levels
and HOLD stand, and that chip select asserted is waited out, is how the model takes inputs (log entries 6 and 23). -/
def Obligations.DeviceReset : Prop :=
  ∀ s : State, ∃ t, exec .deviceReset s = .next t ∧
    t.port.phase = .idle ∧ t.port.buffer = .empty ∧ t.port.ready = false ∧ t.port.attn = false ∧
    t.port.mask = BitVec.allOnes 12 ∧ t.world.clock = 0#32 ∧ t.world.chain = Chain.reset ∧
    t.world.layout = { Layout.reset with lines := s.world.layout.lines } ∧
    (∀ i, t.world.hall.stands i = false) ∧ (∀ n, t.world.hall.seats.get n = .free) ∧
    (∀ n, t.world.hall.marks.get n = false) ∧ t.world.hall.cursor = 0 ∧
    t.world.hall.maskDelegate = BitVec.allOnes 2 ∧ t.world.hall.maskChair = BitVec.allOnes 4 ∧
    t.world.hall.maskDesk = BitVec.allOnes 5 ∧ (∀ f, t.world.hall.floor f = Floor.reset) ∧
    (∀ n, t.world.hall.slots.get n = none) ∧ (∀ c, t.world.hall.channels.get c = Channel.reset) ∧
    (∀ b, t.world.hall.booths.get b = Booth.reset) ∧ t.world.hall.hold = s.world.hall.hold ∧
    t.world.hall.inFlight.toList ++ t.world.hall.routeQueue = routeRefill

/-! ## Frames -/

/-- The session clock changes by SESSION_TICK and DEVICE_RESET alone (05 R89). The key masks change by MASK_SET alone, the
roster cursor by ROSTER_CHANGES alone, the HOLD level by its line alone, and every one by device reset (02 R27, R37,
06 R114). ROSTER_CHANGES collects the marked numbers from the one after the cursor on and round, at most 16, with their
records' parts, clears their marks and no other, and moves the cursor to the last (02 R37). -/
def Obligations.ClockAndSettingsAreKept : Prop :=
  (∀ (c : Instr) (s t : State), exec c s = .next t → c ≠ .sessionTick → c ≠ .deviceReset →
    t.world.clock = s.world.clock) ∧
  (∀ (c : Instr) (s t : State), exec c s = .next t → c ≠ .deviceReset → (∀ b, c ≠ .requestFrameRefused b) →
    ((∀ r k, c ≠ .maskSet r k) → t.world.hall.maskDelegate = s.world.hall.maskDelegate ∧
      t.world.hall.maskChair = s.world.hall.maskChair ∧ t.world.hall.maskDesk = s.world.hall.maskDesk) ∧
    (c ≠ .rosterChanges → t.world.hall.cursor = s.world.hall.cursor) ∧
    (c ≠ .holdActive → c ≠ .holdInactive → t.world.hall.hold = s.world.hall.hold)) ∧
  ∀ s : State, s.takes → ∃ t ns more, exec .rosterChanges s = .next t ∧
    ns = (((List.finRange 256).drop s.world.hall.cursor ++ (List.finRange 256).take s.world.hall.cursor).filter
      fun n => s.world.hall.marks.get n).take 16 ∧
    t.port.buffer = .unread ⟨.ok, 0x26#8, .roster (ns.map fun n =>
      ⟨n, (s.world.hall.seat? n).map fun r =>
        ⟨r.port, r.address, r.reach, r.kind, r.role, r.place, r.link, r.badge.isSome, r.tuned⟩⟩) more⟩ ∧
    (∀ n, t.world.hall.marks.get n = (s.world.hall.marks.get n && !ns.contains n)) ∧
    (more = true ↔ ∃ n, t.world.hall.marks.get n = true) ∧
    t.world.hall.cursor = (ns.getLast?.map fun n => n.val + 1).getD s.world.hall.cursor ∧
    t.world = { s.world with
      hall := { s.world.hall with marks := t.world.hall.marks, cursor := t.world.hall.cursor } }

/-- A reading request changes no record. SEAT_READ returns the whole record with the grace that remains, in whole seconds
rounded up; SEAT_FIND finds a seat by its place, or lists in ascending order the first 16 seats that hold a badge code with
the count of all (02 R38); WALL_READ carries the wall's number and record with its pending entry, the settle time that
remains in whole seconds rounded up, the level of its line, the lock and the active sections (01 R10). That SEAT_FIND of an
address that is no address, 0 or 65 to 255, is NOT_FOUND is the model's reading (log entry 28). -/
def Obligations.ReadsChangeNothing : Prop :=
  (∀ (c : Instr) (s t : State), isRead c = true → exec c s = .next t → t.world = s.world) ∧
  (∀ (seat : Half) (n : SeatId) (r : Seat) (s : State), s.takes → seat.toNat = n.val + 1 →
    s.world.hall.seat? n = some r → (∀ left, r.link ≠ .lostGrace left) →
    exec (.seatRead seat) s = .next (s.answered 5 0x21#8
      ⟨s.world, .ok, .seat n r none (r.lastRefusal.map keyRefusalByte)⟩)) ∧
  (∀ (seat : Half) (n : SeatId) (r : Seat) (left : Nat) (s : State), s.takes → seat.toNat = n.val + 1 →
    s.world.hall.seat? n = some r → r.link = .lostGrace left →
    exec (.seatRead seat) s = .next (s.answered 5 0x21#8
      ⟨s.world, .ok, .seat n r (some ((left + 9) / 10)) (r.lastRefusal.map keyRefusalByte)⟩)) ∧
  (∀ (seat : Half) (n : SeatId) (s : State), s.takes → seat.toNat = n.val + 1 → s.world.hall.seat? n = none →
    exec (.seatRead seat) s = .next (s.answered 5 0x21#8 ⟨s.world, .notFound, .empty⟩)) ∧
  (∀ (code : Badge) (s : State), s.takes → ∃ ns, ns = (List.finRange 256).filter (fun n =>
      (s.world.hall.seat? n).elim false fun r => r.badge = some code) ∧
    exec (.seatFind (.card code)) s = .next (s.answered 7 0x22#8
      ⟨s.world, .ok, .seatsWithBadge (ns.take 16) ns.length⟩)) ∧
  (∀ (p a : Byte) (q : PortId) (n : SeatId) (r : Seat) (s : State), s.takes → p.toNat = q.val →
    ((s.world.ring (ringOfPort q)).state = .linear ∨ q = primaryPort (ringOfPort q)) →
    s.world.hall.seat? n = some r → r.port = q → r.address = a.toNat →
    (∀ m v, s.world.hall.seat? m = some v → v.port = q → v.address = a.toNat → m = n) →
    exec (.seatFind (.place p a)) s = .next (s.answered 5 0x22#8 ⟨s.world, .ok, .seatAt n⟩)) ∧
  (∀ (p a : Byte) (q : PortId) (s : State), s.takes → p.toNat = q.val →
    ((s.world.ring (ringOfPort q)).state = .linear ∨ q = primaryPort (ringOfPort q)) →
    (∀ m v, s.world.hall.seat? m = some v → v.port = q → v.address ≠ a.toNat) →
    exec (.seatFind (.place p a)) s = .next (s.answered 5 0x22#8 ⟨s.world, .notFound, .empty⟩)) ∧
  (∀ (w : Byte) (i : WallId) (s : State), s.takes → w.toNat = i.val + 1 → s.world.layout.wall i = none →
    exec (.wallRead w) s = .next (s.answered 4 0x17#8 ⟨s.world, .ok,
      .wall i none (s.world.layout.pendingWalls.get i) none none s.world.layout.lock.state s.world.layout.active⟩)) ∧
  ∀ (w : Byte) (i : WallId) (x : Wall) (s : State), s.takes → w.toNat = i.val + 1 →
    s.world.layout.wall i = some x →
    (∀ n p, x.source = .line n p → exec (.wallRead w) s = .next (s.answered 4 0x17#8 ⟨s.world, .ok,
      .wall i (some x) (s.world.layout.pendingWalls.get i) (x.settleLeft.map fun left => (left + 9) / 10)
        (some (s.world.layout.lines.get n)) s.world.layout.lock.state s.world.layout.active⟩)) ∧
    (x.source = .request → x.settleLeft = none → exec (.wallRead w) s = .next (s.answered 4 0x17#8 ⟨s.world, .ok,
      .wall i (some x) (s.world.layout.pendingWalls.get i) none none s.world.layout.lock.state
        s.world.layout.active⟩))

/-- Only the commands of the Layout Unit change its records, and only those of the Chain Controller change its. -/
def Obligations.LayoutAndChainAreKept : Prop :=
  (∀ (c : Instr) (s t : State), changesLayout c = false → exec c s = .next t → t.world.layout = s.world.layout) ∧
  ∀ (c : Instr) (s t : State), changesChain c = false → exec c s = .next t → t.world.chain = s.world.chain

/-- The speech requests leave channels, booths, layout and chains as they are; the booth requests leave floors, voice slots,
layout and chains. -/
def Obligations.SpeechAndBoothFrames : Prop :=
  (∀ (c : Instr) (s t : State), isSpeech c = true → exec c s = .next t →
    t.world.hall.channels = s.world.hall.channels ∧ t.world.hall.booths = s.world.hall.booths ∧
    t.world.layout = s.world.layout ∧ t.world.chain = s.world.chain) ∧
  ∀ (c : Instr) (s t : State), isBooth c = true → exec c s = .next t →
    t.world.hall.floors = s.world.hall.floors ∧ t.world.hall.slots = s.world.hall.slots ∧
    t.world.layout = s.world.layout ∧ t.world.chain = s.world.chain

/-! ## Layout Unit -/

/-- LAYOUT_OPEN by its whole rule (01 R1): key 0 refused in every lock state; a key taken in LOCKED arms the lock for 5 s,
which is 50 ticks; in ARMED and OPEN it is refused and nothing changes. Device reset leaves the lock LOCKED, and hall reset
and chain reset leave it as it is. -/
def Obligations.LayoutOpen : Prop :=
  (∀ s : State, s.takes →
    exec (.layoutOpen 0#16) s = .next (s.answered 5 0x10#8 ⟨s.world, .badArgument, .empty⟩)) ∧
  (∀ (key : Half) (s : State), s.takes → key ≠ 0#16 → s.world.layout.lock = .locked →
    exec (.layoutOpen key) s = .next (s.answered 5 0x10#8
      ⟨{ s.world with layout := { s.world.layout with lock := .armed key 50 } }, .ok, .empty⟩)) ∧
  (∀ (key : Half) (s : State), s.takes → key ≠ 0#16 → s.world.layout.lock ≠ .locked →
    exec (.layoutOpen key) s = .next (s.answered 5 0x10#8 ⟨s.world, .wrongState, .empty⟩)) ∧
  (∀ s : State, ∃ t, exec .deviceReset s = .next t ∧ t.world.layout.lock = .locked) ∧
  ∀ (c : Instr) (s t : State), isHallOrChainReset c = true → exec c s = .next t →
    t.world.layout.lock = s.world.layout.lock

/-- The layout lock with no wall pending (01 R2, R3): confirmed, closed by the host, and returned to LOCKED by either timer. -/
def Obligations.LayoutLock : Prop :=
  (∀ (key : Half) (left : Nat) (s : State), s.takes → s.world.layout.lock = .armed key left →
    exec (.layoutConfirm key) s = .next (s.answered 5 0x11#8
      ⟨{ s.world with layout := { s.world.layout with lock := .opened key 300 } }, .ok, .empty⟩)) ∧
  (∀ s : State, s.takes → s.world.layout.lock ≠ .locked → (∀ i, s.world.layout.pendingWalls.get i = none) →
    exec .layoutClose s = .next (s.answered 3 0x12#8
      ⟨{ s.world with layout := { s.world.layout with lock := .locked } }, .ok, .empty⟩)) ∧
  (∀ (key : Half) (left : Nat) (s : State), s.world.layout.lock = .armed key left →
    (∀ i, s.world.layout.pendingWalls.get i = none) →
    exec .armWindowExpiry s = .next (s.after
      { s.world with layout := { s.world.layout with lock := .locked } })) ∧
  ∀ (key : Half) (left : Nat) (s : State), s.world.layout.lock = .opened key left →
    (∀ i, s.world.layout.pendingWalls.get i = none) →
    exec .idleTimerExpiry s = .next (s.after
      { s.world with
        layout := { s.world.layout with lock := .locked }, hall := s.world.hall.raise .layoutExpired })

/-- Each return to LOCKED empties the pending wall set: its entries are applied one after another in ascending wall number,
under LOCKED (01 R2, R3, R16). A pending CLOSED ends the merge and closes an applied OPEN wall (01 R14); a pending OPEN of a
HELD wall between two LIVE floors raises MERGE_PENDING and waits, and any other is applied (01 R15). -/
def Obligations.RelockEmptiesPendingSet : Prop :=
  (∀ s : State, s.takes → s.world.layout.lock ≠ .locked → ∃ t, exec .layoutClose s = .next t ∧
    t.world = s.world.relock ∧ t.world.layout.lock = .locked ∧ ∀ i, t.world.layout.pendingWalls.get i = none) ∧
  (∀ (key other : Half) (left : Nat) (s : State), s.takes → s.world.layout.lock = .armed key left → other ≠ key →
    ∃ t, exec (.layoutConfirm other) s = .next t ∧ t.port.buffer = .unread ⟨.badKey, 0x11#8, .empty⟩ ∧
      t.world = s.world.relock ∧ t.world.layout.lock = .locked ∧ ∀ i, t.world.layout.pendingWalls.get i = none) ∧
  (∀ (key : Half) (left : Nat) (s : State), s.world.layout.lock = .armed key left →
    ∃ t, exec .armWindowExpiry s = .next t ∧ t.world = s.world.relock ∧
      t.world.layout.lock = .locked ∧ ∀ i, t.world.layout.pendingWalls.get i = none) ∧
  (∀ (key : Half) (left : Nat) (s : State), s.world.layout.lock = .opened key left →
    ∃ t, exec .idleTimerExpiry s = .next t ∧
      t.world = { s.world.relock with hall := s.world.relock.hall.raise .layoutExpired } ∧
      t.world.hall.stands .layoutExpired = true ∧
      t.world.layout.lock = .locked ∧ ∀ i, t.world.layout.pendingWalls.get i = none) ∧
  (∀ w : World, w.relock =
    (List.finRange 16).foldl World.applyPending { w with layout := { w.layout with lock := .locked } }) ∧
  (∀ (w : World) (i : WallId), w.layout.pendingWalls.get i = none → w.applyPending i = w) ∧
  ∀ (w : World) (i : WallId) (pos : WallPos) (x : Wall), w.layout.pendingWalls.get i = some pos →
    w.layout.wall i = some x →
    ∃ l, l = { w.layout with pendingWalls := w.layout.pendingWalls.set i none } ∧
      (x.sensed = .closed → x.applied = .opened → ∃ ws, ws = l.walls.set i
          (some { x with merge := .idle, applied := .closed }) ∧
        w.applyPending i = { w with
          layout := { l with walls := ws }, hall := w.hall.appliedClosed w.clock ws x.secA x.secB }) ∧
      (x.sensed = .opened → x.applied = .closed → x.policy = .held → w.hall.betweenFloors x = true →
        w.applyPending i = { w with
          layout := { l with walls := l.walls.set i (some { x with merge := .pending }) }
          hall := w.hall.raise (.mergePending i) }) ∧
      (x.sensed = .opened → x.applied = .closed → (x.policy = .auto ∨ w.hall.betweenFloors x = false) →
        ∃ ws, ws = l.walls.set i (some { x with applied := .opened }) ∧
          w.applyPending i = { w with
            layout := { l with walls := ws }, hall := w.hall.appliedOpen w.clock ws x.secA x.secB })

/-- A section set active or inactive (01 R4, R5); the idle timer restarts. Active is coded 0 (log entry 12). An edit with
arguments in range is refused LAYOUT_LOCKED while the lock is not OPEN (01 R4 check 2). -/
def Obligations.SectionSet : Prop :=
  (∀ (b : Byte) (k : SectionId) (key : Half) (left : Nat) (s : State), s.takes → b.toNat = k.val + 1 →
    s.world.layout.lock = .opened key left → s.world.hall.inUse k = false →
    exec (.sectionSet b 0#8) s = .next (s.answered 5 0x13#8
      ⟨{ s.world with
          layout := { s.world.layout with
            active := s.world.layout.active ||| (1#12 <<< k.val), lock := .opened key 300 } }, .ok, .empty⟩)) ∧
  (∀ (b : Byte) (k : SectionId) (key : Half) (left : Nat) (s : State), s.takes → b.toNat = k.val + 1 →
    s.world.layout.lock = .opened key left → s.world.hall.inUse k = false →
    (∀ i x, s.world.layout.wall i = some x → x.secA ≠ k ∧ x.secB ≠ k) →
    (∀ n r, s.world.hall.seat? n = some r → r.place ≠ some k) →
    exec (.sectionSet b 1#8) s = .next (s.answered 5 0x13#8
      ⟨{ s.world with
          layout := { s.world.layout with
            active := s.world.layout.active &&& ~~~(1#12 <<< k.val), lock := .opened key 300 } }, .ok, .empty⟩)) ∧
  ∀ (s : State), s.takes → s.world.layout.isOpen = false →
    (∀ (b : Byte) (k : SectionId) (a : Byte), b.toNat = k.val + 1 → a.toNat < 2 →
      exec (.sectionSet b a) s = .next (s.answered 5 0x13#8 ⟨s.world, .layoutLocked, .empty⟩)) ∧
    (∀ (w : Byte) (i : WallId), w.toNat = i.val + 1 →
      exec (.wallRemove w) s = .next (s.answered 4 0x15#8 ⟨s.world, .layoutLocked, .empty⟩)) ∧
    ∀ (seat : Half) (sec : Byte), 1 ≤ seat.toNat → seat.toNat ≤ 256 → sec.toNat ≤ 12 →
      exec (.seatPlace seat sec) s = .next (s.answered 6 0x20#8 ⟨s.world, .layoutLocked, .empty⟩)

/-- A wall defined or redefined on a LINE source (01 R7, R8), and one removed (01 R9). -/
def Obligations.WallDefineAndRemove : Prop :=
  (∀ (w a b line pol settle policy : Byte) (i : WallId) (x y : SectionId) (n : LineId) (key : Half) (left : Nat)
    (s : State), s.takes → w.toNat = i.val + 1 → a.toNat = x.val + 1 → b.toNat = y.val + 1 → line.toNat = n.val →
    pol.toNat < 2 → 1 ≤ settle.toNat → settle.toNat ≤ 20 → policy.toNat < 2 →
    s.world.layout.lock = .opened key left → x ≠ y →
    s.world.layout.active.getLsbD x.val = true → s.world.layout.active.getLsbD y.val = true →
    s.world.hall.inUse x = false → s.world.hall.inUse y = false →
    (∀ z, s.world.layout.wall i = some z → s.world.hall.inUse z.secA = false ∧ s.world.hall.inUse z.secB = false) →
    (∀ j z, j ≠ i → s.world.layout.wall j = some z → z.between x y = false ∧ z.onLine n = false) →
    ∃ p m, (p = if pol = 0#8 then Polarity.openWhenHigh else .openWhenLow) ∧
      (m = if policy = 0#8 then MergePolicy.auto else .held) ∧
      exec (.wallDefine w a b 0#8 line pol settle policy) s = .next (s.answered 11 0x14#8
        ⟨{ s.world with
            layout := { s.world.layout with
              walls := s.world.layout.walls.set i (some
                { secA := x, secB := y, source := .line n p, settle := settle.toNat, policy := m
                  sensed := reportedBy p (s.world.layout.lines.get n)
                  applied := reportedBy p (s.world.layout.lines.get n), merge := .idle, settleLeft := none })
              pendingWalls := s.world.layout.pendingWalls.set i none
              lock := .opened key 300 } }, .ok, .empty⟩)) ∧
  ∀ (w : Byte) (i : WallId) (z : Wall) (key : Half) (left : Nat) (s : State), s.takes → w.toNat = i.val + 1 →
    s.world.layout.lock = .opened key left → s.world.layout.wall i = some z →
    s.world.hall.inUse z.secA = false → s.world.hall.inUse z.secB = false →
    exec (.wallRemove w) s = .next (s.answered 4 0x15#8
      ⟨{ s.world with
          layout := { s.world.layout with
            walls := s.world.layout.walls.set i none, pendingWalls := s.world.layout.pendingWalls.set i none
            lock := .opened key 300 } }, .ok, .empty⟩)

/-- A sensed change of a REQUEST wall by WALL_SET, OPEN coded 0 and CLOSED 1 (log entry 12). While the lock is not LOCKED it
is recorded in the pending wall set (01 R12, R13). Under LOCKED it is applied at once (01 R14, R15): CLOSED ends the merge
and closes an applied OPEN wall, with an applied-CLOSED event handed to the Floor Table; OPEN of a HELD wall between two LIVE
floors raises MERGE_PENDING and waits, and any other is applied with an applied-OPEN event. A value equal to the sensed state
changes nothing. MERGE_CONFIRM hands an applied-OPEN event to the Floor Table (01 R17). -/
def Obligations.WallSetAndMergeConfirm : Prop :=
  (∀ (w : Byte) (i : WallId) (x : Wall) (s : State), s.takes → w.toNat = i.val + 1 →
    s.world.layout.wall i = some x → x.source = .request → s.world.layout.lock ≠ .locked → x.sensed = .closed →
    exec (.wallSet w 0#8) s = .next (s.answered 5 0x16#8
      ⟨{ s.world with
          layout := { s.world.layout with
            walls := s.world.layout.walls.set i (some { x with sensed := .opened, settleLeft := none })
            pendingWalls := s.world.layout.pendingWalls.set i
              (if x.applied = .opened then none else some .opened) } }, .ok, .empty⟩)) ∧
  (∀ (w : Byte) (i : WallId) (x : Wall) (s : State), s.takes → w.toNat = i.val + 1 →
    s.world.layout.wall i = some x → x.source = .request → s.world.layout.lock ≠ .locked → x.sensed = .opened →
    exec (.wallSet w 1#8) s = .next (s.answered 5 0x16#8
      ⟨{ s.world with
          layout := { s.world.layout with
            walls := s.world.layout.walls.set i
              (some { x with sensed := .closed, settleLeft := none, merge := .idle })
            pendingWalls := s.world.layout.pendingWalls.set i
              (if x.applied = .closed then none else some .closed) } }, .ok, .empty⟩)) ∧
  (∀ (w : Byte) (i : WallId) (x : Wall) (s : State), s.takes → w.toNat = i.val + 1 →
    s.world.layout.wall i = some x → x.source = .request → s.world.layout.lock = .locked → x.sensed = .closed →
    ∃ y, y = { x with sensed := .opened, settleLeft := none } ∧
      (x.applied = .opened → exec (.wallSet w 0#8) s = .next (s.answered 5 0x16#8
        ⟨{ s.world with layout := { s.world.layout with walls := s.world.layout.walls.set i (some y) } },
          .ok, .empty⟩)) ∧
      (x.applied = .closed → x.policy = .held → s.world.hall.betweenFloors x = true →
        exec (.wallSet w 0#8) s = .next (s.answered 5 0x16#8
          ⟨{ s.world with
              layout := { s.world.layout with
                walls := s.world.layout.walls.set i (some { y with merge := .pending }) }
              hall := s.world.hall.raise (.mergePending i) }, .ok, .empty⟩)) ∧
      (x.applied = .closed → (x.policy = .auto ∨ s.world.hall.betweenFloors x = false) →
        ∃ ws, ws = s.world.layout.walls.set i (some { y with applied := .opened }) ∧
          exec (.wallSet w 0#8) s = .next (s.answered 5 0x16#8
            ⟨{ s.world with
                layout := { s.world.layout with walls := ws }
                hall := s.world.hall.appliedOpen s.world.clock ws x.secA x.secB }, .ok, .empty⟩))) ∧
  (∀ (w : Byte) (i : WallId) (x : Wall) (s : State), s.takes → w.toNat = i.val + 1 →
    s.world.layout.wall i = some x → x.source = .request → s.world.layout.lock = .locked → x.sensed = .opened →
    ∃ y, y = { x with sensed := .closed, settleLeft := none, merge := .idle } ∧
      (x.applied = .closed → exec (.wallSet w 1#8) s = .next (s.answered 5 0x16#8
        ⟨{ s.world with layout := { s.world.layout with walls := s.world.layout.walls.set i (some y) } },
          .ok, .empty⟩)) ∧
      (x.applied = .opened → ∃ ws, ws = s.world.layout.walls.set i (some { y with applied := .closed }) ∧
        exec (.wallSet w 1#8) s = .next (s.answered 5 0x16#8
          ⟨{ s.world with
              layout := { s.world.layout with walls := ws }
              hall := s.world.hall.appliedClosed s.world.clock ws x.secA x.secB }, .ok, .empty⟩))) ∧
  (∀ (w v : Byte) (i : WallId) (x : Wall) (s : State), s.takes → w.toNat = i.val + 1 →
    s.world.layout.wall i = some x → x.source = .request →
    (v = 0#8 ∧ x.sensed = .opened ∨ v = 1#8 ∧ x.sensed = .closed) →
    exec (.wallSet w v) s = .next (s.answered 5 0x16#8 ⟨s.world, .ok, .empty⟩)) ∧
  ∀ (w : Byte) (i : WallId) (x : Wall) (s : State), s.takes → w.toNat = i.val + 1 →
    s.world.layout.wall i = some x → s.world.layout.lock = .locked → x.merge = .pending →
    ∃ l, l = { s.world.layout with
        walls := s.world.layout.walls.set i (some { x with merge := .idle, applied := .opened }) } ∧
      exec (.mergeConfirm w) s = .next (s.answered 4 0x18#8
        ⟨{ s.world with
            layout := l, hall := s.world.hall.appliedOpen s.world.clock l.walls x.secA x.secB }, .ok, .empty⟩)

/-- MERGE_REFUSE by its whole rule (01 R18): refused out of range, undefined or not PENDING, and REFUSED otherwise, in every
lock state. -/
def Obligations.MergeRefuse : Prop :=
  (∀ (w : Byte) (s : State), s.takes → w.toNat = 0 ∨ 16 < w.toNat →
    exec (.mergeRefuse w) s = .next (s.answered 4 0x19#8 ⟨s.world, .badArgument, .empty⟩)) ∧
  (∀ (w : Byte) (i : WallId) (s : State), s.takes → w.toNat = i.val + 1 → s.world.layout.wall i = none →
    exec (.mergeRefuse w) s = .next (s.answered 4 0x19#8 ⟨s.world, .notFound, .empty⟩)) ∧
  (∀ (w : Byte) (i : WallId) (x : Wall) (s : State), s.takes → w.toNat = i.val + 1 →
    s.world.layout.wall i = some x → x.merge ≠ .pending →
    exec (.mergeRefuse w) s = .next (s.answered 4 0x19#8 ⟨s.world, .wrongState, .empty⟩)) ∧
  ∀ (w : Byte) (i : WallId) (x : Wall) (s : State), s.takes → w.toNat = i.val + 1 →
    s.world.layout.wall i = some x → x.merge = .pending →
    exec (.mergeRefuse w) s = .next (s.answered 4 0x19#8
      ⟨{ s.world with
          layout := { s.world.layout with
            walls := s.world.layout.walls.set i (some { x with merge := .refused }) } }, .ok, .empty⟩)

/-- A wall line changes level (01 R11): the settle timer of its wall starts when the line reports another state than the
sensed one, and is cancelled when it reports the sensed one again. A settle timer that expires makes the sensed state the
reported one. On an unlocked layout that is recorded pending (01 R13); under LOCKED it is applied at once (01 R14, R15). -/
def Obligations.LineDebounce : Prop :=
  (∀ (n : LineId) (high : Bool) (s : State), s.world.layout.lines.get n ≠ high →
    ∃ t, exec (.wallLineChange n high) s = .next t ∧ t.world.hall = s.world.hall ∧
      t.world.layout.lines = s.world.layout.lines.set n high ∧ t.world.layout.lock = s.world.layout.lock ∧
      (∀ i x p, s.world.layout.wall i = some x → x.source = .line n p → reportedBy p high ≠ x.sensed →
        x.settleLeft = none → t.world.layout.wall i = some { x with settleLeft := some (x.settle * 5) }) ∧
      (∀ i x p, s.world.layout.wall i = some x → x.source = .line n p → reportedBy p high = x.sensed →
        t.world.layout.wall i = some { x with settleLeft := none }) ∧
      ∀ i x, s.world.layout.wall i = some x → x.onLine n = false → t.world.layout.wall i = some x) ∧
  (∀ (i : WallId) (x : Wall) (n : LineId) (p : Polarity) (left : Nat) (s : State), s.world.layout.wall i = some x →
    x.source = .line n p → x.settleLeft = some left → s.world.layout.lock ≠ .locked →
    reportedBy p (s.world.layout.lines.get n) = .opened →
    exec (.settleTimerExpiry i) s = .next (s.after
      { s.world with
        layout := { s.world.layout with
          walls := s.world.layout.walls.set i (some { x with sensed := .opened, settleLeft := none })
          pendingWalls := s.world.layout.pendingWalls.set i
            (if x.applied = .opened then none else some .opened) } })) ∧
  (∀ (i : WallId) (x : Wall) (n : LineId) (p : Polarity) (left : Nat) (s : State), s.world.layout.wall i = some x →
    x.source = .line n p → x.settleLeft = some left → s.world.layout.lock ≠ .locked →
    reportedBy p (s.world.layout.lines.get n) = .closed →
    exec (.settleTimerExpiry i) s = .next (s.after
      { s.world with
        layout := { s.world.layout with
          walls := s.world.layout.walls.set i (some { x with sensed := .closed, settleLeft := none, merge := .idle })
          pendingWalls := s.world.layout.pendingWalls.set i
            (if x.applied = .closed then none else some .closed) } })) ∧
  (∀ (i : WallId) (x : Wall) (n : LineId) (p : Polarity) (left : Nat) (s : State), s.world.layout.wall i = some x →
    x.source = .line n p → x.settleLeft = some left → s.world.layout.lock = .locked →
    reportedBy p (s.world.layout.lines.get n) = .opened → x.applied = .closed →
    ∃ y, y = { x with sensed := .opened, settleLeft := none } ∧
      (x.policy = .held → s.world.hall.betweenFloors x = true →
        exec (.settleTimerExpiry i) s = .next (s.after
          { s.world with
            layout := { s.world.layout with
              walls := s.world.layout.walls.set i (some { y with merge := .pending }) }
            hall := s.world.hall.raise (.mergePending i) })) ∧
      ((x.policy = .auto ∨ s.world.hall.betweenFloors x = false) →
        ∃ ws, ws = s.world.layout.walls.set i (some { y with applied := .opened }) ∧
          exec (.settleTimerExpiry i) s = .next (s.after
            { s.world with
              layout := { s.world.layout with walls := ws }
              hall := s.world.hall.appliedOpen s.world.clock ws x.secA x.secB }))) ∧
  ∀ (i : WallId) (x : Wall) (n : LineId) (p : Polarity) (left : Nat) (s : State), s.world.layout.wall i = some x →
    x.source = .line n p → x.settleLeft = some left → s.world.layout.lock = .locked →
    reportedBy p (s.world.layout.lines.get n) = .closed →
    ∃ y, y = { x with sensed := .closed, settleLeft := none, merge := .idle } ∧
      (x.applied = .closed → exec (.settleTimerExpiry i) s = .next (s.after
        { s.world with layout := { s.world.layout with walls := s.world.layout.walls.set i (some y) } })) ∧
      (x.applied = .opened → ∃ ws, ws = s.world.layout.walls.set i (some { y with applied := .closed }) ∧
        exec (.settleTimerExpiry i) s = .next (s.after
          { s.world with
            layout := { s.world.layout with walls := ws }
            hall := s.world.hall.appliedClosed s.world.clock ws x.secA x.secB }))

/-! ## Seat Table -/

/-- SEAT_PLACE of a listener's seat in an active dark section (01 R4, 02 R22), and SEAT_ROLE on an idle chair unit
(02 R21). -/
def Obligations.SeatPlaceAndRole : Prop :=
  (∀ (seat : Half) (sec : Byte) (n : SeatId) (k : SectionId) (r : Seat) (key : Half) (left : Nat) (s : State),
    s.takes → seat.toNat = n.val + 1 → sec.toNat = k.val + 1 → s.world.layout.lock = .opened key left →
    s.world.hall.seat? n = some r → (∀ p, r.place = some p → s.world.hall.inUse p = false) →
    s.world.hall.inUse k = false → s.world.layout.active.getLsbD k.val = true → r.role ≠ .desk →
    ∃ t tuned, exec (.seatPlace seat sec) s = .next t ∧
      t.world.hall.seat? n = some { r with place := some k, tuned := tuned } ∧
      (r.place ≠ some k → t.world.hall.marks.get n = true) ∧
      t.world.layout = { s.world.layout with lock := .opened key 300 } ∧
      t.world.hall.floors = s.world.hall.floors ∧ t.port.buffer = .unread ⟨.ok, 0x20#8, .empty⟩) ∧
  ∀ (seat : Half) (n : SeatId) (r : Seat) (s : State), s.takes → seat.toNat = n.val + 1 →
    s.world.hall.seat? n = some r → r.kind = .chairUnit → s.world.hall.speaks n = false →
    s.world.hall.queued n = false → s.world.hall.holds n = false → r.role = .chair →
    ∃ t ind, exec (.seatRole seat 0#8) s = .next t ∧
      t.world.hall.seat? n = some { r with role := .delegate, indicator := ind } ∧
      t.world.hall.marks.get n = true ∧ t.world.hall.floors = s.world.hall.floors ∧
      t.port.buffer = .unread ⟨.ok, 0x23#8, .empty⟩

/-- MASK_SET by its rule (02 R27): the mask of a role replaced by a set of its family and nothing else changed; a role that
is none, and a set that names a key outside the family, refused. -/
def Obligations.MaskSet : Prop :=
  (∀ (keys : Byte) (s : State), s.takes → keys.toNat < 4 →
    exec (.maskSet 0#8 keys) s = .next (s.answered 5 0x25#8
      ⟨{ s.world with hall := { s.world.hall with maskDelegate := keys.setWidth 2 } }, .ok, .empty⟩)) ∧
  (∀ (keys : Byte) (s : State), s.takes → keys.toNat < 16 →
    exec (.maskSet 1#8 keys) s = .next (s.answered 5 0x25#8
      ⟨{ s.world with hall := { s.world.hall with maskChair := keys.setWidth 4 } }, .ok, .empty⟩)) ∧
  (∀ (keys : Byte) (s : State), s.takes → keys.toNat < 32 →
    exec (.maskSet 2#8 keys) s = .next (s.answered 5 0x25#8
      ⟨{ s.world with hall := { s.world.hall with maskDesk := keys.setWidth 5 } }, .ok, .empty⟩)) ∧
  ∀ (role keys : Byte) (s : State), s.takes →
    (role = 0#8 ∧ 4 ≤ keys.toNat) ∨ (role = 1#8 ∧ 16 ≤ keys.toNat) ∨ (role = 2#8 ∧ 32 ≤ keys.toNat) ∨ 3 ≤ role.toNat →
    exec (.maskSet role keys) s = .next (s.answered 5 0x25#8 ⟨s.world, .badArgument, .empty⟩)

/-- SEAT_RETIRE of a GONE seat frees its number, sets its mark and ends its polling (02 R34, R35, 09 R173); a seat that is
not GONE is refused. A seat whose grace expires is GONE without a badge, and its mark is set (02 R32). -/
def Obligations.RetireAndGrace : Prop :=
  (∀ (seat : Half) (n : SeatId) (r : Seat) (s : State), s.takes → seat.toNat = n.val + 1 →
    s.world.hall.seat? n = some r → r.link = .gone →
    ∃ t, exec (.seatRetire seat) s = .next t ∧ t.world.hall.seats.get n = .free ∧
      t.world.hall.marks.get n = true ∧ (∀ e ∈ (t.world.port r.port).entries, e.seat ≠ n) ∧
      t.port.buffer = .unread ⟨.ok, 0x24#8, .empty⟩) ∧
  (∀ (seat : Half) (n : SeatId) (r : Seat) (s : State), s.takes → seat.toNat = n.val + 1 →
    s.world.hall.seat? n = some r → r.link ≠ .gone →
    exec (.seatRetire seat) s = .next (s.answered 5 0x24#8 ⟨s.world, .wrongState, .empty⟩)) ∧
  ∀ (n : SeatId) (r : Seat) (left : Nat) (s : State), s.world.hall.seat? n = some r → r.link = .lostGrace left →
    ∃ t q, exec (.graceExpiry n) s = .next t ∧ t.world.hall.seat? n = some q ∧ q.link = .gone ∧ q.badge = none ∧
      q.place = r.place ∧ q.port = r.port ∧ q.address = r.address ∧ q.role = r.role ∧
      t.world.hall.marks.get n = true

/-! ## Floor Table -/

/-- FLOOR_OPEN on an active dark anchor (03 R42, R43): the lowest FREE channel OWNED with language 0 and the floor's mix, and
the record filled with the defaults. -/
def Obligations.FloorOpen : Prop :=
  ∀ (fb ab pb : Byte) (f : FloorId) (a : SectionId) (c : ChannelId) (s : State), s.takes →
    fb.toNat = f.val + 1 → ab.toNat = a.val + 1 → pb.toNat ≤ 7 → (s.world.hall.floor f).state = .closed →
    s.world.layout.active.getLsbD a.val = true → s.world.hall.dark a = true →
    (s.world.hall.channels.get c).use = none → (∀ d, d < c → (s.world.hall.channels.get d).use ≠ none) →
    ∃ t m, m = component s.world.layout.walls a ∧ exec (.floorOpen fb ab pb) s = .next t ∧
      t.world.hall.floor f = { Floor.reset with
        state := .live, sess := some ⟨a, pb.toNat, c, Bank.initial, Bank.initial, .a⟩, members := m } ∧
      (∀ g, g ≠ f → t.world.hall.floor g = s.world.hall.floor g) ∧
      t.world.hall.channels = s.world.hall.channels.set c ⟨some ⟨.owned, f, some 0, .original⟩, .floorMix f⟩ ∧
      t.world.hall.booths = s.world.hall.booths ∧ t.world.hall.slots = s.world.hall.slots ∧
      t.port.buffer = .unread ⟨.ok, 0x30#8, .floorOpened c m⟩

/-- FLOOR_CLOSE returns a floor's record to the CLOSED condition (03 R40, R44, R45, 08 R155); a LIVE floor owns no channel
afterwards. -/
def Obligations.FloorClose : Prop :=
  (∀ (fb : Byte) (f : FloorId) (s : State), s.takes → fb.toNat = f.val + 1 → (s.world.hall.floor f).state ≠ .closed →
    ∃ t, exec (.floorClose fb) s = .next t ∧ t.world.hall.floor f = Floor.reset ∧
      ((s.world.hall.floor f).state = .live → ∀ c u, (t.world.hall.channels.get c).use = some u → u.owner ≠ f) ∧
      t.port.buffer = .unread ⟨.ok, 0x31#8, .empty⟩) ∧
  ∀ (fb : Byte) (f : FloorId) (s : State), s.takes → fb.toNat = f.val + 1 →
    (s.world.hall.floor f).state = .closed →
    exec (.floorClose fb) s = .next (s.answered 4 0x31#8 ⟨s.world, .wrongState, .empty⟩)

/-- What the Floor Table does with an applied wall event (03 R48): between two dark sections nothing; between a LIVE floor and a
dark section it annexes (03 R49); between two LIVE floors it folds the one of lower precedence, on a tie of higher number,
into the other (08 R139 to R146); a wall closed within one LIVE floor unfolds it (08 R147 to R154). The records, lists,
holders, original channels, outputs and adopted entries that each leaves. -/
def Obligations.FoldAndUnfold : Prop :=
  (∀ (now : Clock) (walls : Tbl (Option Wall) 16) (h : Hall) (a b : SectionId),
    (h.floorAt a = none → h.floorAt b = none → h.appliedOpen now walls a b = h) ∧
    (∀ x, h.floorAt a = some x → h.floorAt b = some x → h.appliedOpen now walls a b = h) ∧
    (∀ x, h.floorAt a = some x → h.floorAt b = none →
      h.appliedOpen now walls a b = h.annex x (component walls b)) ∧
    (∀ x, h.floorAt a = none → h.floorAt b = some x →
      h.appliedOpen now walls a b = h.annex x (component walls a)) ∧
    (∀ x y, h.floorAt a = some x → h.floorAt b = some y → x ≠ y → ∃ p q, (p = x ∧ q = y ∨ p = y ∧ q = x) ∧
      ((h.floor q).precedence < (h.floor p).precedence ∨ (h.floor q).precedence = (h.floor p).precedence ∧ p < q) ∧
      h.appliedOpen now walls a b = h.foldInto now p q) ∧
    ((∀ x, h.floorAt a = some x → h.floorAt b ≠ some x) → h.appliedClosed now walls a b = h) ∧
    ∀ x, h.floorAt a = some x → h.floorAt b = some x → h.appliedClosed now walls a b = h.unfold now walls x) ∧
  (∀ (h : Hall) (x : FloorId) (joined : SecSet), ∃ t, t = h.annex x joined ∧
    t.floor x = { h.floor x with members := (h.floor x).members ||| joined } ∧
    (∀ f, f ≠ x → t.floor f = h.floor f) ∧ t.stands (.foldChanged x) = true ∧
    t.slots = h.slots ∧ t.channels = h.channels ∧ t.booths = h.booths ∧
    ∀ n r, h.seat? n = some r → ∃ v, t.seat? n = some { r with tuned := v } ∧
      v = if r.place.elim false (fun p => (joined &&& ~~~(h.floor x).members).getLsbD p.val)
        then t.resolve n r else r.tuned) ∧
  (∀ (now : Clock) (h : Hall) (x y : FloorId), x ≠ y → (h.floor x).state = .live → (h.floor y).state = .live →
    ∃ t, t = h.foldInto now x y ∧ (t.floor x).state = .live ∧
      (t.floor x).members = (h.floor x).members ||| (h.floor y).members ∧
      (t.floor y).state = .folded x ∧ (t.floor y).home = (h.floor y).members ∧ (t.floor y).members = 0#12 ∧
      (t.floor y).speakers = [] ∧ (t.floor y).queue = [] ∧ (t.floor y).holders = [] ∧
      (t.floor y).requestHolds = false ∧ (t.floor y).swapPending = false ∧ (t.floor y).adopted = none ∧
      ((h.floor y).swapPending = true → t.stands (.swapDone y) = true ∧
        (t.floor y).sess.map (·.current) = (h.floor y).sess.map fun s => s.current.other) ∧
      (∀ z, (h.floor z).state = .folded y →
        (t.floor z).state = .folded x ∧ (t.floor z).home = (h.floor z).home ∧ t.stands (.foldChanged z) = true) ∧
      (∀ z, z ≠ x → z ≠ y → (h.floor z).state ≠ .folded y →
        (t.floor z).state = (h.floor z).state ∧ (t.floor z).members = (h.floor z).members) ∧
      (∀ n, n ∈ (t.floor x).holders ↔ n ∈ (h.floor x).holders ∨ n ∈ (h.floor y).holders) ∧
      (t.floor x).requestHolds = ((h.floor x).requestHolds || (h.floor y).requestHolds) ∧
      t.stands (.foldChanged x) = true ∧ t.stands (.foldChanged y) = true) ∧
  (∀ (now : Clock) (h : Hall) (x y : FloorId), x ≠ y → (h.floor x).state = .live → (h.floor y).state = .live →
    SpeechInv h → ∃ t es qs, t = h.foldInto now x y ∧ es = (h.floor x).speakers ++ (h.floor y).speakers ∧
      qs = (h.floor x).queue ++ (h.floor y).queue ∧
      ((es.filter fun e => e.kind = .delegate).length ≤ (h.floor x).bank.limit →
        (h.floor x).bank.badgeRequired = false →
        es.map (·.seat) <+: (t.floor x).speakers.map (·.seat) ∧
        (∀ e, e ∈ (h.floor y).speakers →
          ∃ v, t.slots.get e.slot = some v ∧ v.seat = e.seat ∧ v.floor = x) ∧
        ((h.floor x).bank.autoAdvance = false → (t.floor x).queue = qs.take (h.floor x).bank.cap ∧
          ∀ w, (qs.drop (h.floor x).bank.cap).head? = some w →
            (t.floor x).lastRemoval = some (w.seat, .mergeOverflow))) ∧
      (∀ e r, e ∈ (es.filter fun e => e.kind = .delegate).drop (h.floor x).bank.limit → h.seat? e.seat = some r →
        ∃ q, t.seat? e.seat = some q ∧ q.lastTurn =
          some ⟨.mergeExcess, x, (now - e.start).toNat / 10, e.timer.elim 0 (·.overrun)⟩) ∧
      ((h.floor x).bank.badgeRequired = true → ∀ n,
        ((∃ e ∈ (h.floor y).speakers, e.seat = n) ∨ ∃ w ∈ (h.floor y).queue, w.seat = n) → h.badged n = false →
        (∀ e, e ∈ (t.floor x).speakers → e.seat ≠ n) ∧ ∀ w, w ∈ (t.floor x).queue → w.seat ≠ n)) ∧
  (∀ (now : Clock) (h : Hall) (x y : FloorId), x ≠ y → (h.floor x).state = .live → (h.floor y).state = .live →
    ChannelInv h → ∃ t, t = h.foldInto now x y ∧
      (∀ z c, z = y ∨ (h.floor z).state = .folded y → (h.floor z).original? = some c →
        t.channels.get c = ⟨some ⟨.lent x, z, none, .original⟩, .floorMix x⟩) ∧
      ∀ b o z u, z = y ∨ (h.floor z).state = .folded y → (h.booths.get b).floor = some z →
        (h.output b o).use = some u →
        (u.state = .held ∨ h.languageTaken x u.lang = true →
          (t.output b o).use = some { u with state := .held } ∧
          (t.channels.get u.chan).use = some ⟨.reserved, z, some u.lang, .output b o⟩) ∧
        (u.state ≠ .held →
          (∀ c v, c ≠ u.chan → (h.channels.get c).use = some v → v.lang ≠ some u.lang) →
          (t.output b o).use = some u ∧
          (t.channels.get u.chan).use = some ⟨.lent x, z, some u.lang, .output b o⟩)) ∧
  (∀ (now : Clock) (h : Hall) (x y : FloorId), x ≠ y → (h.floor x).state = .live → (h.floor y).state = .live →
    (h.floor x).adopted = none → (h.floor x).sess ≠ none →
    ∃ t as, t = h.foldInto now x y ∧ (t.floor x).adopted = some as ∧
      (∀ k l, (h.floor x).bank.listen.get k = some l → (t.floor x).bank.listen.get k = some l) ∧
      (∀ a, a ∈ as → (∃ k, a.place = .slot k ∧ (t.floor x).bank.listen.get k = some a.lang) ∨
        a.place = .short ∧ t.stands (.adoptShort x) = true) ∧
      ∀ z k l, z = y ∨ (h.floor z).state = .folded y → (h.floor z).bank.listen.get k = some l →
        (z = y → ∀ a, a ∈ (h.floor y).adopted.getD [] → a.place ≠ .slot k) →
        (∃ j, (t.floor x).bank.listen.get j = some l) ∨ ∃ a, a ∈ as ∧ a.lang = l ∧ a.place = .short) ∧
  (∀ (now : Clock) (walls : Tbl (Option Wall) 16) (h : Hall) (x : FloorId) (s : Session), (h.floor x).sess = some s →
    ∃ cut, cut = (h.floor x).members &&& ~~~(component walls s.anchor) ∧ (cut = 0#12 → h.unfold now walls x = h) ∧
      (cut ≠ 0#12 → h.unfold now walls x =
        ((cutParts walls 12 cut).foldl (Hall.takePart now x) h).endUnfold now x
          (decide (0 < (h.floor x).delegates)))) ∧
  (∀ (now : Clock) (h : Hall) (x : FloorId) (c : SecSet), SpeechInv h →
    (∀ z s, (h.floor z).state = .folded x → (h.floor z).sess = some s → c.getLsbD s.anchor.val = false) →
    ∃ t, t = Hall.takePart now x h c ∧ (t.floor x).state = (h.floor x).state ∧
      (t.floor x).members = (h.floor x).members &&& ~~~c ∧
      (t.floor x).speakers.map (·.seat) = ((h.floor x).speakers.map (·.seat)).filter (fun n => !h.sits c n) ∧
      (t.floor x).queue = (h.floor x).queue.filter (fun w => !h.sits c w.seat) ∧
      (t.floor x).holders = (h.floor x).holders.filter (fun n => !h.sits c n) ∧
      (∀ e, e ∈ (h.floor x).speakers → h.sits c e.seat = true → ∃ q, t.seat? e.seat = some q ∧ q.lastTurn =
        some ⟨.splitDark, x, (now - e.start).toNat / 10, e.timer.elim 0 (·.overrun)⟩) ∧
      (∀ z, z ≠ x → t.floor z = h.floor z) ∧ t.channels = h.channels ∧ t.booths = h.booths) ∧
  (∀ (now : Clock) (h : Hall) (x r : FloorId) (c : SecSet), SpeechInv h → ChannelInv h →
    (h.floor x).state = .live → h.ranked (h.anchoredIn x c) = some r →
    (∀ z, z ∈ h.anchoredIn x c → z ≠ r → (h.floor z).precedence < (h.floor r).precedence ∨
      (h.floor z).precedence = (h.floor r).precedence ∧ r < z) ∧
    ∃ t, t = Hall.takePart now x h c ∧ (t.floor r).state = .live ∧ (t.floor r).members = c ∧
      (t.floor r).home = 0#12 ∧ (t.floor r).swapPending = false ∧ (t.floor r).requestHolds = false ∧
      (t.floor r).holders = (h.floor x).holders.filter (fun n => h.sits c n) ∧
      (t.floor x).state = .live ∧ (t.floor x).members = (h.floor x).members &&& ~~~c ∧
      (t.floor x).holders = (h.floor x).holders.filter (fun n => !h.sits c n) ∧
      (t.floor x).speakers.map (·.seat) = ((h.floor x).speakers.map (·.seat)).filter (fun n => !h.sits c n) ∧
      (t.floor x).queue = (h.floor x).queue.filter (fun w => !h.sits c w.seat) ∧
      ((h.speakersIn x c).countP (fun e => e.kind = .delegate) ≤ (h.floor r).bank.limit →
        (h.floor r).bank.badgeRequired = false →
        (t.floor r).speakers.map (·.seat) = (h.speakersIn x c).map (·.seat) ∧
        (t.floor r).queue = (h.queueIn x c).take (h.floor r).bank.cap) ∧
      (∀ z, z ∈ h.anchoredIn x c → t.stands (.foldChanged z) = true ∧
        (z ≠ r → (t.floor z).state = .folded r ∧ (t.floor z).home = (h.floor z).home)) ∧
      (∀ z, z ≠ x → z ∉ h.anchoredIn x c → t.floor z = h.floor z) ∧
      (∀ k, (h.floor r).original? = some k →
        t.channels.get k = ⟨some ⟨.owned, r, some 0, .original⟩, .floorMix r⟩) ∧
      (∀ z k, z ∈ h.anchoredIn x c → z ≠ r → (h.floor z).original? = some k →
        t.channels.get k = ⟨some ⟨.lent r, z, none, .original⟩, .floorMix r⟩) ∧
      ∀ b o u, (h.booths.get b).floor = some r → (h.output b o).use = some u →
        (t.channels.get u.chan).use = some ⟨.owned, r, some u.lang, .output b o⟩ ∧
        (t.output b o).use = some { u with
          state := if u.state = .held then
              (if (h.booths.get b).delay = 0 then .fallback else .silent ((h.booths.get b).delay * 10))
            else u.state }) ∧
  ∀ (now : Clock) (h : Hall) (x : FloorId) (spoke : Bool), ∃ t, t = h.endUnfold now x spoke ∧
    t.stands (.foldChanged x) = true ∧
    (∀ z w, (h.floor z).state = .folded w → (t.floor z).state = .folded w ∧
      (t.floor z).home = (h.floor z).home &&& (h.floor w).members ∧
      ((h.floor z).home &&& (h.floor w).members ≠ (h.floor z).home → t.stands (.foldChanged z) = true)) ∧
    ((∀ z, (h.floor z).state ≠ .folded x) → (t.floor x).adopted = none)

/-- FLOOR_SET by its whole rule (03 R46); a floor that is not CLOSED has its session fields. -/
def Obligations.FloorSet : Prop :=
  (∀ (fb pb : Byte) (s : State), s.takes → fb.toNat = 0 ∨ 6 < fb.toNat ∨ 7 < pb.toNat →
    exec (.floorSet fb pb) s = .next (s.answered 5 0x32#8 ⟨s.world, .badArgument, .empty⟩)) ∧
  (∀ (fb pb : Byte) (f : FloorId) (s : State), s.takes → fb.toNat = f.val + 1 → pb.toNat ≤ 7 →
    (s.world.hall.floor f).state = .closed →
    exec (.floorSet fb pb) s = .next (s.answered 5 0x32#8 ⟨s.world, .wrongState, .empty⟩)) ∧
  ∀ (fb pb : Byte) (f : FloorId) (x : Session) (s : State), s.takes → fb.toNat = f.val + 1 → pb.toNat ≤ 7 →
    (s.world.hall.floor f).state ≠ .closed → (s.world.hall.floor f).sess = some x →
    exec (.floorSet fb pb) s = .next (s.answered 5 0x32#8
      ⟨{ s.world with
          hall := { s.world.hall with
            floors := s.world.hall.floors.set f
              { s.world.hall.floor f with sess := some { x with precedence := pb.toNat } } } }, .ok, .empty⟩)

/-- FLOOR_READ of a LIVE floor carries its record with the counts of its lists (03 R47); a CLOSED floor its state alone.
SPEAKERS_READ and QUEUE_READ of a LIVE floor carry its lists; SPEAKERS_READ of a FOLDED floor carries an empty list and its
carrier (04 R83). -/
def Obligations.FloorAndSpeechReads : Prop :=
  (∀ (fb : Byte) (f : FloorId) (x : Session) (s : State), s.takes → fb.toNat = f.val + 1 →
    (s.world.hall.floor f).state = .live → (s.world.hall.floor f).sess = some x →
    ∃ r, r = s.world.hall.floor f ∧
      exec (.floorRead fb) s = .next (s.answered 4 0x33#8 ⟨s.world, .ok,
        .floor f .live x.anchor x.precedence r.members (s.world.hall.foldedInto f) x.original x.current r.swapPending
          r.holders r.requestHolds r.adopted (r.speakers.countP fun e => e.kind = .delegate)
          (r.speakers.countP fun e => e.kind = .chair) r.queue.length⟩)) ∧
  (∀ (fb : Byte) (f : FloorId) (s : State), s.takes → fb.toNat = f.val + 1 →
    (s.world.hall.floor f).state = .closed →
    exec (.floorRead fb) s = .next (s.answered 4 0x33#8 ⟨s.world, .ok, .floorClosed⟩)) ∧
  (∀ (fb : Byte) (f : FloorId) (s : State), s.takes → fb.toNat = f.val + 1 → (s.world.hall.floor f).state = .live →
    exec (.speakersRead fb) s = .next (s.answered 4 0x46#8
      ⟨s.world, .ok, .speakers none (s.world.hall.floor f).speakers⟩)) ∧
  (∀ (fb : Byte) (f c : FloorId) (s : State), s.takes → fb.toNat = f.val + 1 →
    (s.world.hall.floor f).state = .folded c →
    exec (.speakersRead fb) s = .next (s.answered 4 0x46#8 ⟨s.world, .ok, .speakers (some c) []⟩)) ∧
  ∀ (fb : Byte) (f : FloorId) (s : State), s.takes → fb.toNat = f.val + 1 → (s.world.hall.floor f).state = .live →
    (s.world.hall.floor f).queue.length ≤ 16 →
    exec (.queueRead fb 1#8) s = .next (s.answered 5 0x47#8 ⟨s.world, .ok,
      .queue none (s.world.hall.floor f).queue false (s.world.hall.floor f).firstReachablePos
        (s.world.hall.floor f).queue.length (s.world.hall.floor f).bank.cap s.world.hall.poolFree
        (s.world.hall.floor f).lastRemoval⟩)

/-- BANK_WRITE of one delegate limit in range writes it into the non-current bank and changes nothing else; BANK_READ(CURRENT)
reads the current bank (03 R50). Whatever its items, BANK_WRITE changes nothing in the world but the non-current bank of the
floor it names: every other part of that floor's record, its current bank among them, stands (03 R51, R52). -/
def Obligations.BankWriteAndRead : Prop :=
  (∀ (fb : Byte) (v : Half) (f : FloorId) (x : Session) (s : State), s.takes → fb.toNat = f.val + 1 →
    (s.world.hall.floor f).state ≠ .closed → (s.world.hall.floor f).sess = some x →
    (s.world.hall.floor f).swapPending = false → 1 ≤ v.toNat → v.toNat ≤ 8 →
    (x.bank x.current.other).valid = true →
    exec (.bankWrite fb [⟨1#8, v⟩]) s = .next (s.answered 7 0x34#8
      ⟨{ s.world with
          hall := { s.world.hall with
            floors := s.world.hall.floors.set f
              { s.world.hall.floor f with
                sess := some (x.setBank x.current.other
                  { x.bank x.current.other with limit := v.toNat }) } } }, .ok, .empty⟩)) ∧
  (∀ (fb : Byte) (f : FloorId) (x : Session) (s : State), s.takes → fb.toNat = f.val + 1 →
    (s.world.hall.floor f).state ≠ .closed → (s.world.hall.floor f).sess = some x →
    (s.world.hall.floor f).adopted = none →
    exec (.bankRead fb 2#8) s = .next (s.answered 5 0x35#8 ⟨s.world, .ok,
      .bank (x.bank x.current) x.current true (s.world.hall.floor f).swapPending []⟩)) ∧
  ∀ (fb : Byte) (items : List BankItem) (s t : State), exec (.bankWrite fb items) s = .next t →
    (∀ f, (t.world.hall.floor f).bank = (s.world.hall.floor f).bank ∧
      t.world.hall.floor f = { s.world.hall.floor f with sess := (t.world.hall.floor f).sess } ∧
      ((s.world.hall.floor f).sess = none → (t.world.hall.floor f).sess = none) ∧
      (∀ x, (s.world.hall.floor f).sess = some x → ∃ b, (t.world.hall.floor f).sess = some
        (match x.current with
          | .a => { x with bankB := b }
          | .b => { x with bankA := b })) ∧
      (fb.toNat ≠ f.val + 1 → t.world.hall.floor f = s.world.hall.floor f)) ∧
    t.world = { s.world with hall := { s.world.hall with floors := t.world.hall.floors } }

/-- BANK_SWAP(NORMAL) on a LIVE floor with delegates becomes pending and is answered ACCEPTED; on a quiet floor, and under
FORCE, the other bank becomes current at once (03 R53, R56). -/
def Obligations.BankSwap : Prop :=
  (∀ (fb : Byte) (f : FloorId) (x : Session) (s : State), s.takes → fb.toNat = f.val + 1 →
    (s.world.hall.floor f).state = .live → (s.world.hall.floor f).sess = some x →
    (s.world.hall.floor f).swapPending = false → 0 < (s.world.hall.floor f).delegates →
    exec (.bankSwapNormal fb) s = .next (s.answered 5 0x36#8
      ⟨{ s.world with
          hall := { s.world.hall with
            floors := s.world.hall.floors.set f { s.world.hall.floor f with swapPending := true } } },
        .accepted, .empty⟩)) ∧
  (∀ (fb : Byte) (f : FloorId) (x : Session) (s : State), s.takes → fb.toNat = f.val + 1 →
    (s.world.hall.floor f).state ≠ .closed → (s.world.hall.floor f).sess = some x →
    (s.world.hall.floor f).swapPending = false →
    (s.world.hall.floor f).delegates = 0 →
    ∃ t y, exec (.bankSwapNormal fb) s = .next t ∧ (t.world.hall.floor f).sess = some y ∧
      y.current = x.current.other ∧ (t.world.hall.floor f).swapPending = false ∧
      t.port.buffer = .unread ⟨.ok, 0x36#8, .empty⟩) ∧
  ∀ (fb : Byte) (f : FloorId) (x : Session) (s : State), s.takes → fb.toNat = f.val + 1 →
    (s.world.hall.floor f).state ≠ .closed → (s.world.hall.floor f).sess = some x →
    ∃ t y, exec (.bankSwapForce fb) s = .next t ∧ (t.world.hall.floor f).sess = some y ∧
      y.current = x.current.other ∧ (t.world.hall.floor f).swapPending = false ∧
      t.port.buffer = .unread ⟨.ok, 0x36#8, .empty⟩

/-- BANK_CANCEL by its rule (03 R55): refused out of range, CLOSED or with nothing pending, and the pending swap cleared
otherwise. -/
def Obligations.BankCancel : Prop :=
  (∀ (fb : Byte) (s : State), s.takes → fb.toNat = 0 ∨ 6 < fb.toNat →
    exec (.bankCancel fb) s = .next (s.answered 4 0x37#8 ⟨s.world, .badArgument, .empty⟩)) ∧
  (∀ (fb : Byte) (f : FloorId) (s : State), s.takes → fb.toNat = f.val + 1 →
    (s.world.hall.floor f).state = .closed ∨ (s.world.hall.floor f).swapPending = false →
    exec (.bankCancel fb) s = .next (s.answered 4 0x37#8 ⟨s.world, .wrongState, .empty⟩)) ∧
  ∀ (fb : Byte) (f : FloorId) (x : Session) (s : State), s.takes → fb.toNat = f.val + 1 →
    (s.world.hall.floor f).state ≠ .closed → (s.world.hall.floor f).sess = some x →
    (s.world.hall.floor f).swapPending = true →
    exec (.bankCancel fb) s = .next (s.answered 4 0x37#8
      ⟨{ s.world with
          hall := { s.world.hall with
            floors := s.world.hall.floors.set f { s.world.hall.floor f with swapPending := false } } }, .ok, .empty⟩)

/-! ## Speech Arbiter and Turn Timer Bank -/

/-- GRANT of an idle reachable delegate below the limit (04 R79, R65): a speaker entry on the lowest FREE slot, begun at the
session clock, with the turn timer of the current bank loaded (05 R92, R93), and the slot HELD for it. -/
def Obligations.Grant : Prop :=
  ∀ (fb : Byte) (seat : Half) (f : FloorId) (n : SeatId) (r : Seat) (slot : SlotId) (s : State), s.takes →
    fb.toNat = f.val + 1 → seat.toNat = n.val + 1 → (s.world.hall.floor f).state = .live →
    s.world.hall.seat? n = some r → r.role = .delegate → s.world.hall.floorOf r = some f → r.link = .reachable →
    s.world.hall.speaks n = false → (r.badge.isSome = true ∨ (s.world.hall.floor f).bank.badgeRequired = false) →
    (s.world.hall.floor f).delegates < (s.world.hall.floor f).bank.limit →
    s.world.hall.slots.get slot = none → (∀ k, k < slot → s.world.hall.slots.get k ≠ none) →
    ∃ t e b v, exec (.grant fb seat 1#8) s = .next t ∧ e ∈ (t.world.hall.floor f).speakers ∧ e.seat = n ∧
      e.kind = .delegate ∧ e.slot = slot ∧ e.start = s.world.clock ∧ e.linkMute = false ∧
      e.priorityMute = (s.world.hall.floor f).muteActive ∧
      b = (s.world.hall.floor f).bank ∧
      v = min ((((s.world.hall.floor f).queue.find? fun w => w.seat = n).bind (·.remaining)).getD b.turnLimit)
        b.turnLimit ∧
      e.timer = (if b.turnLimit = 0 then none else some
        { loaded := v, remaining := v, ticks := 0, mode := b.turnMode, lead := b.lead
          phase := if b.lead ≠ 0 ∧ v ≤ b.lead then .lastPeriod else .normal
          overrun := 0, running := !(s.world.hall.floor f).muteActive }) ∧
      t.world.hall.slots.get slot = some ⟨n, f, !(s.world.hall.floor f).muteActive⟩ ∧
      t.port.buffer = .unread ⟨.ok, 0x40#8, .granted slot⟩

/-- CLOSE_MIC ends the turn REVOKED (04 R80), and a running CUT timer at zero ends it TIME_UP (05 R95, 04 R84): the speaker
entry leaves the list, the seat's last turn is written, and with nobody waiting the voice slot is FREE (04 R66). A slot that
falls FREE is handed on to the first reachable entry of the floor that waits (04 R67, R68). A turn end that makes a floor
quiet completes its pending swap and raises SWAP_DONE (03 R54, 04 R66). That the CUT command ends a turn whatever time its
timer has left is the model's choice (log entries 3 and 4). A running WARN timer at zero enters OVERRUN with its tick count
at 0 (05 R94, R96); a refused flash ends (05 R99). -/
def Obligations.TurnEndsAndTimers : Prop :=
  (∀ (seat : Half) (f : FloorId) (n : SeatId) (r : Seat) (e : Speaker) (s : State), s.takes → SpeechInv s.world.hall →
    seat.toNat = n.val + 1 → s.world.hall.seat? n = some r → e ∈ (s.world.hall.floor f).speakers → e.seat = n →
    ∃ t q, exec (.closeMic seat) s = .next t ∧ t.world.hall.seat? n = some q ∧
      q.lastTurn = some ⟨.revoked, f, (s.world.clock - e.start).toNat / 10, e.timer.elim 0 (·.overrun)⟩ ∧
      (∀ g x, x ∈ (t.world.hall.floor g).speakers → x.seat ≠ n) ∧
      t.world.hall.slots.get e.slot ≠ s.world.hall.slots.get e.slot ∧
      ((∀ g, (s.world.hall.floor g).queue = []) → (s.world.hall.floor f).swapPending = false →
        t.world.hall.slots = s.world.hall.slots.set e.slot none ∧
        (t.world.hall.floor f).speakers = (s.world.hall.floor f).speakers.filter fun x => x.seat ≠ n) ∧
      t.world.hall.stands (.speakersChanged f) = true ∧ t.world.hall.marks.get n = true ∧
      t.port.buffer = .unread ⟨.ok, 0x41#8, .empty⟩) ∧
  (∀ (seat : Half) (f : FloorId) (n : SeatId) (r : Seat) (e : Speaker) (w : Waiting) (s : State), s.takes →
    SpeechInv s.world.hall → seat.toNat = n.val + 1 → s.world.hall.seat? n = some r →
    e ∈ (s.world.hall.floor f).speakers → e.seat = n → e.kind = .delegate →
    (s.world.hall.floor f).swapPending = false → (s.world.hall.floor f).bank.autoAdvance = true →
    ((s.world.hall.floor f).bank.mode = .opened ∨ (s.world.hall.floor f).bank.mode = .request) →
    (s.world.hall.floor f).muteActive = false → (s.world.hall.floor f).firstReachable = some w →
    (∀ g, g ≠ f → (s.world.hall.floor g).queue = []) → (∀ k, s.world.hall.slots.get k ≠ none) →
    ∃ t x, exec (.closeMic seat) s = .next t ∧ x ∈ (t.world.hall.floor f).speakers ∧ x.seat = w.seat ∧
      x.slot = e.slot ∧ x.start = s.world.clock ∧ t.world.hall.slots.get e.slot = some ⟨w.seat, f, true⟩ ∧
      (t.world.hall.floor f).queue = (s.world.hall.floor f).queue.filter fun y => y.seat ≠ w.seat) ∧
  (∀ (seat : Half) (f : FloorId) (n : SeatId) (r : Seat) (e : Speaker) (x : Session) (s : State), s.takes →
    seat.toNat = n.val + 1 → s.world.hall.seat? n = some r → s.world.hall.speakerFloor n = some f →
    (s.world.hall.floor f).state = .live → (s.world.hall.floor f).speakers = [e] → e.seat = n → e.kind = .delegate →
    (s.world.hall.floor f).swapPending = true → (s.world.hall.floor f).sess = some x →
    ∃ t y, exec (.closeMic seat) s = .next t ∧ t.world.hall.stands (.swapDone f) = true ∧
      (t.world.hall.floor f).swapPending = false ∧ (t.world.hall.floor f).sess = some y ∧
      y.current = x.current.other) ∧
  (∀ (n : SeatId) (f : FloorId) (r : Seat) (e : Speaker) (tm : Timer) (s : State), SpeechInv s.world.hall →
    s.world.hall.seat? n = some r → e ∈ (s.world.hall.floor f).speakers → e.seat = n → e.timer = some tm →
    tm.running = true → tm.mode = .cut → tm.phase ≠ .overrun →
    ∃ t q, exec (.turnTimerZeroCut n) s = .next t ∧ t.world.hall.seat? n = some q ∧
      q.lastTurn = some ⟨.timeUp, f, (s.world.clock - e.start).toNat / 10, tm.overrun⟩ ∧
      (∀ g x, x ∈ (t.world.hall.floor g).speakers → x.seat ≠ n) ∧
      t.world.hall.slots.get e.slot ≠ s.world.hall.slots.get e.slot ∧
      ((∀ g, (s.world.hall.floor g).queue = []) → (s.world.hall.floor f).swapPending = false →
        t.world.hall.slots = s.world.hall.slots.set e.slot none ∧
        (t.world.hall.floor f).speakers = (s.world.hall.floor f).speakers.filter fun x => x.seat ≠ n) ∧
      t.world.hall.stands (.speakersChanged f) = true) ∧
  (∀ (n : SeatId) (f : FloorId) (e : Speaker) (tm : Timer) (s : State), s.world.hall.speakerFloor n = some f →
    (s.world.hall.floor f).speakers.find? (fun x => x.seat = n) = some e → e.timer = some tm → tm.running = true →
    tm.mode = .warn → tm.phase ≠ .overrun →
    ∃ t, exec (.turnTimerZeroWarn n) s = .next t ∧
      t.world.hall.floor f = { s.world.hall.floor f with
        speakers := (s.world.hall.floor f).speakers.map fun x =>
          if x.seat = n then
            { x with timer := x.timer.map fun y => { y with remaining := 0, ticks := 0, phase := .overrun } }
          else x } ∧ t.world.hall.slots = s.world.hall.slots) ∧
  ∀ (n : SeatId) (r : Seat) (k : Nat) (s : State), s.world.hall.seat? n = some r → r.flash = some k →
    ∃ t ind, exec (.flashEnd n) s = .next t ∧ ind ≠ .refused ∧
      t.world.hall.seat? n = some { r with flash := none, indicator := ind } ∧
      t.world.hall.floors = s.world.hall.floors ∧ t.world.hall.marks = s.world.hall.marks

/-- The queue requests on a floor with auto advance OFF (04 R81, R82): an entry placed, one removed, all cleared. -/
def Obligations.QueueRequests : Prop :=
  (∀ (fb pos : Byte) (seat : Half) (f : FloorId) (n : SeatId) (r : Seat) (s : State), s.takes →
    fb.toNat = f.val + 1 → seat.toNat = n.val + 1 → (s.world.hall.floor f).state = .live →
    (s.world.hall.floor f).bank.autoAdvance = false → s.world.hall.seat? n = some r → r.role = .delegate →
    s.world.hall.floorOf r = some f → r.link = .reachable →
    (r.badge.isSome = true ∨ (s.world.hall.floor f).bank.badgeRequired = false) → s.world.hall.speaks n = false →
    s.world.hall.queued n = false → 1 ≤ pos.toNat → pos.toNat ≤ (s.world.hall.floor f).queue.length + 1 →
    (s.world.hall.floor f).queue.length < (s.world.hall.floor f).bank.cap → 0 < s.world.hall.poolFree →
    ∃ t, exec (.queueInsert fb seat pos) s = .next t ∧
      (t.world.hall.floor f).queue = (s.world.hall.floor f).queue.insertIdx (pos.toNat - 1)
        ⟨n, s.world.clock, .hostInsert, none, false⟩ ∧ t.world.hall.stands (.queueChanged f) = true ∧
      t.port.buffer = .unread ⟨.ok, 0x42#8, .empty⟩) ∧
  (∀ (seat : Half) (f : FloorId) (n : SeatId) (r : Seat) (s : State), s.takes → seat.toNat = n.val + 1 →
    s.world.hall.seat? n = some r → s.world.hall.queueFloor n = some f →
    (s.world.hall.floor f).bank.autoAdvance = false →
    ∃ t, exec (.queueRemove seat) s = .next t ∧
      (t.world.hall.floor f).queue = (s.world.hall.floor f).queue.filter (fun e => e.seat ≠ n) ∧
      (t.world.hall.floor f).lastRemoval = some (n, .removed) ∧ t.world.hall.stands (.queueChanged f) = true ∧
      t.port.buffer = .unread ⟨.ok, 0x43#8, .empty⟩) ∧
  ∀ (fb : Byte) (f : FloorId) (s : State), s.takes → fb.toNat = f.val + 1 → (s.world.hall.floor f).state = .live →
    (s.world.hall.floor f).queue ≠ [] →
    ∃ t, exec (.queueClear fb) s = .next t ∧ (t.world.hall.floor f).queue = [] ∧
      (t.world.hall.floor f).lastRemoval =
        (s.world.hall.floor f).queue.getLast?.map (fun e => (e.seat, RemovalCause.cleared)) ∧
      t.port.buffer = .unread ⟨.ok, 0x44#8, .empty⟩

/-- FLOOR_PRIORITY(ON) applies the current priority action (04 R76, R78): MUTE_WHILE_HELD holds priority and mutes every
delegate speaker; CLOSE_ALL ends every delegate's turn PRIORITY_CLOSE and keeps the chairs; CLOSE_AND_CLEAR clears the queue
as well. OFF lets the host's hold go, and where the last hold goes every priority mute is lifted (04 R77). -/
def Obligations.FloorPriority : Prop :=
  (∀ (fb : Byte) (f : FloorId) (s : State), s.takes → fb.toNat = f.val + 1 → (s.world.hall.floor f).state = .live →
    (s.world.hall.floor f).bank.action = .muteWhileHeld →
    ∃ t, exec (.floorPriorityOn fb) s = .next t ∧ (t.world.hall.floor f).requestHolds = true ∧
      (∀ e ∈ (t.world.hall.floor f).speakers, e.kind = .delegate → e.priorityMute = true) ∧
      t.port.buffer = .unread ⟨.ok, 0x45#8, .empty⟩) ∧
  (∀ (fb : Byte) (f : FloorId) (s : State), s.takes → fb.toNat = f.val + 1 → (s.world.hall.floor f).state = .live →
    SpeechInv s.world.hall → (s.world.hall.floor f).bank.action ≠ .muteWhileHeld →
    (s.world.hall.floor f).swapPending = false → (s.world.hall.floor f).bank.autoAdvance = false →
    ∃ t, exec (.floorPriorityOn fb) s = .next t ∧ (t.world.hall.floor f).requestHolds = true ∧
      (t.world.hall.floor f).speakers = (s.world.hall.floor f).speakers.filter (fun e => e.kind = .chair) ∧
      (∀ e r, e ∈ (s.world.hall.floor f).speakers → e.kind = .delegate → s.world.hall.seat? e.seat = some r →
        ∃ q, t.world.hall.seat? e.seat = some q ∧ q.lastTurn =
          some ⟨.priorityClose, f, (s.world.clock - e.start).toNat / 10, e.timer.elim 0 (·.overrun)⟩) ∧
      ((s.world.hall.floor f).bank.action = .closeAll →
        (t.world.hall.floor f).queue = (s.world.hall.floor f).queue) ∧
      ((s.world.hall.floor f).bank.action = .closeAndClear → (t.world.hall.floor f).queue = [] ∧
        ∀ w, (s.world.hall.floor f).queue.getLast? = some w →
          (t.world.hall.floor f).lastRemoval = some (w.seat, .cleared)) ∧
      t.port.buffer = .unread ⟨.ok, 0x45#8, .empty⟩) ∧
  (∀ (fb : Byte) (f : FloorId) (s : State), s.takes → fb.toNat = f.val + 1 → (s.world.hall.floor f).state = .live →
    ∃ t, exec (.floorPriorityOff fb) s = .next t ∧ (t.world.hall.floor f).requestHolds = false ∧
      (t.world.hall.floor f).holders = (s.world.hall.floor f).holders ∧
      t.port.buffer = .unread ⟨.ok, 0x45#8, .empty⟩) ∧
  ∀ (fb : Byte) (f : FloorId) (s : State), s.takes → fb.toNat = f.val + 1 → (s.world.hall.floor f).state = .live →
    SpeechInv s.world.hall → (s.world.hall.floor f).requestHolds = true → (s.world.hall.floor f).holders = [] →
    ∃ t, exec (.floorPriorityOff fb) s = .next t ∧
      (∀ e ∈ (t.world.hall.floor f).speakers, e.priorityMute = false) ∧
      ∀ e ∈ (s.world.hall.floor f).speakers,
        t.world.hall.slots.get e.slot = some ⟨e.seat, f, !e.linkMute⟩

/-- A tick (05 R89): the clock advances by one, and where no CUT timer comes to zero every turn timer counts it by 05 R94.
That the other timers lower their time left at the tick is the model's choice (log entry 2). How one tick acts on a turn
timer: 05 R94, R96, R97. -/
def Obligations.SessionTick : Prop :=
  (∀ s : State, ∃ t, exec .sessionTick s = .next t ∧ t.world.clock = s.world.clock + 1) ∧
  (∀ s : State, (∀ f e, e ∈ (s.world.hall.floor f).speakers → e.tick.timeIsUp = false) →
    ∃ t, exec .sessionTick s = .next t ∧
      (∀ f, t.world.hall.floor f = { s.world.hall.floor f with
        speakers := (s.world.hall.floor f).speakers.map fun e => { e with timer := e.timer.map Timer.tick } }) ∧
      t.world.hall.slots = s.world.hall.slots ∧ t.world.hall.channels = s.world.hall.channels) ∧
  (∀ t : Timer, t.running = false → t.tick = t) ∧
  (∀ t : Timer, t.running = true → t.ticks < 9 → t.tick = { t with ticks := t.ticks + 1 }) ∧
  (∀ t : Timer, t.running = true → t.ticks = 9 → t.phase ≠ .overrun → 1 < t.remaining →
    t.tick = { t with
      ticks := 0, remaining := t.remaining - 1
      phase := if t.lead ≠ 0 ∧ t.phase = .normal ∧ t.remaining - 1 = t.lead then .lastPeriod else t.phase }) ∧
  (∀ t : Timer, t.running = true → t.ticks = 9 → t.phase ≠ .overrun → t.remaining = 1 → t.mode = .warn →
    t.tick = { t with ticks := 0, remaining := 0, phase := .overrun }) ∧
  ∀ t : Timer, t.running = true → t.ticks = 9 → t.phase = .overrun →
    t.tick = { t with ticks := 0, overrun := min (t.overrun + 1) 65535 }

/-! ## Interpretation Unit, Channel Allocator and Route Output -/

/-- BOOTH_ASSIGN of an UNASSIGNED booth to a LIVE floor (07 R120), BOOTH_SET (07 R125), BOOTH_RELEASE (07 R126), and a desk
joining and leaving a booth's desk list (07 R123, R124). -/
def Obligations.BoothRequests : Prop :=
  (∀ (bb fb : Byte) (b : BoothId) (f : FloorId) (s : State), s.takes → bb.toNat = b.val + 1 → fb.toNat = f.val + 1 →
    (s.world.hall.booths.get b).floor = none → (s.world.hall.floor f).state = .live →
    ∃ t, exec (.boothAssign bb fb) s = .next t ∧
      t.world.hall.booths = s.world.hall.booths.set b { s.world.hall.booths.get b with floor := some f } ∧
      t.world.hall.channels = s.world.hall.channels ∧ t.port.buffer = .unread ⟨.ok, 0x50#8, .empty⟩) ∧
  (∀ (bb delay : Byte) (b : BoothId) (s : State), s.takes → bb.toNat = b.val + 1 → delay.toNat ≤ 10 →
    exec (.boothSet bb 1#8 delay) s = .next (s.answered 6 0x54#8
      ⟨{ s.world with
          hall := { s.world.hall with
            booths := s.world.hall.booths.set b
              { s.world.hall.booths.get b with policy := .handover, delay := delay.toNat } } }, .ok, .empty⟩)) ∧
  (∀ (bb : Byte) (b : BoothId) (f : FloorId) (s : State), s.takes → bb.toNat = b.val + 1 →
    (s.world.hall.booths.get b).floor = some f →
    ∃ t, exec (.boothRelease bb) s = .next t ∧ (t.world.hall.booths.get b).floor = none ∧
      (t.world.hall.booths.get b).outA.use = none ∧ (t.world.hall.booths.get b).outB.use = none ∧
      (t.world.hall.booths.get b).desks = (s.world.hall.booths.get b).desks ∧
      (t.world.hall.booths.get b).policy = (s.world.hall.booths.get b).policy ∧
      (t.world.hall.booths.get b).delay = (s.world.hall.booths.get b).delay ∧
      t.port.buffer = .unread ⟨.ok, 0x55#8, .empty⟩) ∧
  (∀ (bb : Byte) (seat : Half) (b : BoothId) (n : SeatId) (r : Seat) (s : State), s.takes → bb.toNat = b.val + 1 →
    seat.toNat = n.val + 1 → s.world.hall.seat? n = some r → r.role = .desk → s.world.hall.boothOf n = none →
    (s.world.hall.booths.get b).desks.contains n = false → (s.world.hall.booths.get b).desks.length < 4 →
    ∃ t, exec (.boothAddDesk bb seat) s = .next t ∧
      t.world.hall.booths = s.world.hall.booths.set b
        { s.world.hall.booths.get b with desks := (s.world.hall.booths.get b).desks ++ [n] } ∧
      t.world.hall.channels = s.world.hall.channels ∧ t.port.buffer = .unread ⟨.ok, 0x52#8, .empty⟩) ∧
  ∀ (bb : Byte) (seat : Half) (b : BoothId) (n : SeatId) (r : Seat) (s : State), s.takes → bb.toNat = b.val + 1 →
    seat.toNat = n.val + 1 → s.world.hall.seat? n = some r → (s.world.hall.booths.get b).desks.contains n = true →
    ∃ t, exec (.boothRemoveDesk bb seat) s = .next t ∧
      (t.world.hall.booths.get b).desks = (s.world.hall.booths.get b).desks.filter (fun m => m ≠ n) ∧
      (∀ q d, t.world.hall.seat? n = some q → q.desk = some d → d.relay = .floor) ∧
      t.port.buffer = .unread ⟨.ok, 0x53#8, .empty⟩

/-- BOOTH_OUTPUT gives an UNUSED output, A or B, its language and a channel, the lowest FREE one or the FREE one it names: OWNED
by the booth's floor while that is LIVE, LENT to the carrier while it is FOLDED; the output is SILENT with its fallback delay
started, or FALLBACK at once with a delay of 0 (07 R118, R119, R121, 06 R102). With NONE it clears an output and frees its
channel, and a live desk is recorded as its last release; an UNUSED output is left as it is (07 R122, 06 R103). A fallback delay
that expires makes the output FALLBACK with the serving floor's mix (07 R119). -/
def Obligations.BoothOutputs : Prop :=
  (∀ (bb ob lang cb : Byte) (b : BoothId) (o : Out) (f g : FloorId) (hold : ChanHold) (l : Lang) (c : ChannelId)
    (s : State), s.takes → bb.toNat = b.val + 1 → ob = (if o = .a then 0#8 else 1#8) → lang.toNat = l.val → l.val ≠ 0 →
    (s.world.hall.booths.get b).floor = some f →
    ((s.world.hall.floor f).state = .live ∧ g = f ∧ hold = .owned ∨
      (s.world.hall.floor f).state = .folded g ∧ hold = .lent g) →
    (s.world.hall.output b o).use = none →
    (∀ d u, (s.world.hall.channels.get d).use = some u → u.lang ≠ some l) →
    (s.world.hall.channels.get c).use = none →
    (cb = 0xFF#8 ∧ (∀ d, d < c → (s.world.hall.channels.get d).use ≠ none) ∨ cb.toNat = c.val) →
    ∃ t, exec (.boothOutput bb ob lang cb) s = .next t ∧
      (t.world.hall.output b o).use = some ⟨l, c,
        if (s.world.hall.booths.get b).delay = 0 then .fallback
        else .silent ((s.world.hall.booths.get b).delay * 10)⟩ ∧
      (∀ q, q ≠ o → t.world.hall.output b q = s.world.hall.output b q) ∧
      t.world.hall.channels.get c = ⟨some ⟨hold, f, some l, .output b o⟩,
        if (s.world.hall.booths.get b).delay = 0 then .floorMix g else .silence⟩ ∧
      (∀ d, d ≠ c → t.world.hall.channels.get d = s.world.hall.channels.get d) ∧
      ((s.world.hall.booths.get b).delay = 0 → t.world.hall.stands (.boothFallback b) = true) ∧
      t.port.buffer = .unread ⟨.ok, 0x51#8, .outputChannel c⟩) ∧
  (∀ (bb ob : Byte) (b : BoothId) (o : Out) (f : FloorId) (u : OutUse) (s : State), s.takes → bb.toNat = b.val + 1 →
    ob = (if o = .a then 0#8 else 1#8) → (s.world.hall.booths.get b).floor = some f →
    (s.world.hall.output b o).use = some u → (s.world.hall.channels.get u.chan).use ≠ none →
    ∃ t, exec (.boothOutputClear bb ob) s = .next t ∧ (t.world.hall.output b o).use = none ∧
      (t.world.hall.output b o).lastRelease = (match u.state with
        | .live n _ => some (n, .outputCleared)
        | _ => (s.world.hall.output b o).lastRelease) ∧
      (∀ q, q ≠ o → t.world.hall.output b q = s.world.hall.output b q) ∧
      t.world.hall.channels = s.world.hall.channels.set u.chan ⟨none, .silence⟩ ∧
      t.port.buffer = .unread ⟨.ok, 0x51#8, .empty⟩) ∧
  (∀ (bb ob : Byte) (b : BoothId) (o : Out) (f : FloorId) (s : State), s.takes → bb.toNat = b.val + 1 →
    ob = (if o = .a then 0#8 else 1#8) → (s.world.hall.booths.get b).floor = some f →
    (s.world.hall.output b o).use = none →
    exec (.boothOutputClear bb ob) s = .next (s.answered 7 0x51#8 ⟨s.world, .ok, .empty⟩)) ∧
  ∀ (b : BoothId) (o : Out) (u : OutUse) (left : Nat) (f : FloorId) (x : ChanUse) (s : State),
    (s.world.hall.output b o).use = some u → u.state = .silent left → s.world.hall.serving b = some f →
    (s.world.hall.channels.get u.chan).use = some x →
    ∃ t, exec (.fallbackDelayExpiry b o) s = .next t ∧
      (t.world.hall.output b o).use = some { u with state := .fallback } ∧
      t.world.hall.channels.get u.chan = ⟨some x, .floorMix f⟩ ∧
      t.world.hall.stands (.boothFallback b) = true ∧ t.world.hall.floors = s.world.hall.floors

/-- BOOTH_READ carries the booth's settings and serving floor (07 R125). CHANNEL_READ carries a channel's record, the floor in
whose map it stands, and whether an update of it is pending or in flight; for ALL, the hold, owner and language of every
channel with the counts of FREE channels and of pending updates (06 R110). CHAIN_READ of an unpaired port, and of a paired
ring, carries the state, the ring's records, the seats, the enrolment, and the first 16 entries from an address on (09 R172).
None changes a record. -/
def Obligations.BoothChannelAndChainReads : Prop :=
  (∀ (bb : Byte) (b : BoothId) (s : State), s.takes → bb.toNat = b.val + 1 →
    ∃ t desks outA outB, exec (.boothRead bb) s = .next t ∧ t.world = s.world ∧
      t.port.buffer = .unread ⟨.ok, 0x56#8,
        .booth (s.world.hall.booths.get b).floor (s.world.hall.serving b) (s.world.hall.booths.get b).policy
          (s.world.hall.booths.get b).delay desks outA outB⟩ ∧
      desks.map (·.seat) = (s.world.hall.booths.get b).desks ∧ outA.output = (s.world.hall.booths.get b).outA ∧
      outB.output = (s.world.hall.booths.get b).outB) ∧
  (∀ (cb : Byte) (c : ChannelId) (s : State), s.takes → cb.toNat = c.val →
    ∃ r same, r = s.world.hall.channels.get c ∧
      (same = fun u : RouteUpdate => match u with | .channel d _ => decide (d = c) | .slot _ _ => false) ∧
      exec (.channelRead cb) s = .next (s.answered 4 0x57#8 ⟨s.world, .ok,
        .channel c r
          (r.use.bind fun u => match u.hold with
            | .owned => some u.owner
            | .lent x => some x
            | .reserved => none)
          (s.world.hall.routeQueue.any same) (s.world.hall.inFlight.elim false same)⟩)) ∧
  (∀ s : State, s.takes → exec (.channelRead 0xFF#8) s = .next (s.answered 4 0x57#8 ⟨s.world, .ok,
    .channels (s.world.hall.channels.rows.map fun r => r.use.map fun u => (u.hold, u.owner, u.lang))
      (s.world.hall.channels.rows.countP fun r => r.use.isNone) s.world.hall.routeQueue.length⟩)) ∧
  (∀ (b first : Byte) (p : PortId) (s : State), s.takes → b.toNat = p.val →
    (s.world.ring (ringOfPort p)).state = .linear → 1 ≤ first.toNat → first.toNat ≤ 64 →
    exec (.chainRead b first) s = .next (s.answered 5 0x64#8 ⟨s.world, .ok,
      .chain (s.world.port p).state none (s.world.hall.seatsOf p).length
        ((s.world.port p).enrol.map fun e => (e.kind, e.nextAddr, e.made)) (s.world.port p).lastEnrol
        ((((s.world.port p).entries.filter fun e => first.toNat ≤ e.address).take 16).map fun e =>
          ⟨e, (s.world.hall.seat? e.seat).map (·.reach),
            (s.world.ring (ringOfPort p)).lastTest.bind fun t => t.answered e⟩)⟩)) ∧
  ∀ (b first : Byte) (r : RingId) (s : State), s.takes → b = (if r = 0 then 0x0A#8 else 0x0B#8) →
    (s.world.ring r).state ≠ .linear → 1 ≤ first.toNat → first.toNat ≤ 64 →
    ∃ p, p = primaryPort r ∧ exec (.chainRead b first) s = .next (s.answered 5 0x64#8 ⟨s.world, .ok,
      .chain (s.world.port p).state
        (some ⟨(s.world.ring r).state, (s.world.ring r).inFlight, (s.world.ring r).lastLoop,
          (s.world.ring r).lastTest.map fun t => (t.loopPassed, t.clock, t.abandoned)⟩)
        (s.world.hall.seatsOf p).length
        ((s.world.port p).enrol.map fun e => (e.kind, e.nextAddr, e.made)) (s.world.port p).lastEnrol
        ((((s.world.port p).entries.filter fun e => first.toNat ≤ e.address).take 16).map fun e =>
          ⟨e, (s.world.hall.seat? e.seat).map (·.reach),
            (s.world.ring r).lastTest.bind fun t => t.answered e⟩)⟩)

/-- Sending and HOLD (06 R113, R114): a completion begins the next frame, HOLD ACTIVE lets none begin, HOLD INACTIVE begins
the head. -/
def Obligations.RouteSending : Prop :=
  (∀ (s : State) (v u : RouteUpdate) (rest : List RouteUpdate), s.world.hall.inFlight = some v →
    s.world.hall.hold = false → s.world.hall.routeQueue = u :: rest →
    exec .routeFrameDone s = .next (s.after
      { s.world with
        hall := { s.world.hall with routeQueue := rest, inFlight := some u, link := routeFrame u } })) ∧
  (∀ (s : State) (v : RouteUpdate), s.world.hall.inFlight = some v →
    s.world.hall.hold = true ∨ s.world.hall.routeQueue = [] →
    exec .routeFrameDone s = .next (s.after
      { s.world with hall := { s.world.hall with inFlight := none } })) ∧
  (∀ s : State, exec .holdActive s = .next (s.after
      { s.world with hall := { s.world.hall with hold := true } })) ∧
  ∀ (s : State) (u : RouteUpdate) (rest : List RouteUpdate), s.world.hall.inFlight = none →
    s.world.hall.routeQueue = u :: rest →
    exec .holdInactive s = .next (s.after
      { s.world with
        hall := { s.world.hall with hold := false, routeQueue := rest, inFlight := some u, link := routeFrame u } })

/-! ## Chain Controller -/

/-- A RUNNING port polls the next address above its cursor, and after the highest the lowest, with the records standing (09
R160, R161): from the primary end, or on a RING_OPEN ring from the end the seat's reach names (09 R165), where a missed seat is
tried a second time from the other end. A ring test polls its rows in order, primary end first, and leaves cursor and second
try alone (09 R166; log entry 35). While a loop test is in flight the ring begins no poll (09 R164). Between the assignment
steps of an enrolment the port polls its seats once in ascending address from the primary, and after the last the next step is
due (09 R168). The display of a DESK seat is the model's where its booth has no language or the desk no booth (log
entry 20). -/
def Obligations.PollIsBuilt : Prop :=
  (∀ (p : PortId) (e : PollEntry) (r : Seat) (s : State),
    (s.world.ring (ringOfPort p)).state = .linear → (s.world.ring (ringOfPort p)).run = none →
    (s.world.port p).state = .running → (s.world.port p).wait = none → (s.world.port p).retry = none →
    (((s.world.port p).entries.find? (fun x => (s.world.port p).cursor < x.address) = some e) ∨
      ((∀ x, x ∈ (s.world.port p).entries → x.address ≤ (s.world.port p).cursor) ∧
        (s.world.port p).entries.head? = some e)) →
    (s.world.port p).entries.find? (fun x => x.address = e.address) = some e →
    s.world.hall.seat? e.seat = some r →
    ∃ t, exec (.poll p) s = .next t ∧ (t.world.port p).wait = some ⟨e.address, .primary, false⟩ ∧
      (t.world.port p).cursor = e.address ∧ (t.world.port p).entries = (s.world.port p).entries ∧
      t.world.chain.sent.get p =
        pollFrame e.address e.lastBit (indicatorByte r.indicator) (tunedByte r.tuned)
          (r.desk.map (s.world.hall.deskDisplay e.seat)) ∧
      t.world.hall = s.world.hall) ∧
  (∀ (k : RingId) (e : PollEntry) (r : Seat) (s : State),
    (s.world.ring k).state ≠ .linear → (s.world.ring k).inFlight = false → (s.world.ring k).run = none →
    (s.world.port (primaryPort k)).state = .running → (s.world.port (primaryPort k)).wait = none →
    (s.world.port (primaryPort k)).retry = none →
    (((s.world.port (primaryPort k)).entries.find?
        (fun x => (s.world.port (primaryPort k)).cursor < x.address) = some e) ∨
      ((∀ x, x ∈ (s.world.port (primaryPort k)).entries → x.address ≤ (s.world.port (primaryPort k)).cursor) ∧
        (s.world.port (primaryPort k)).entries.head? = some e)) →
    (s.world.port (primaryPort k)).entries.find? (fun x => x.address = e.address) = some e →
    s.world.hall.seat? e.seat = some r →
    ∃ t via, via = (if (s.world.ring k).state = .opened then r.reach else .primary) ∧
      exec (.poll (primaryPort k)) s = .next t ∧
      (t.world.port (primaryPort k)).wait = some ⟨e.address, via, false⟩ ∧
      (t.world.port (primaryPort k)).cursor = e.address ∧
      (t.world.port (primaryPort k)).entries = (s.world.port (primaryPort k)).entries ∧
      t.world.chain.sent.get (if via = .primary then primaryPort k else secondaryPort k) =
        pollFrame e.address e.lastBit (indicatorByte r.indicator) (tunedByte r.tuned)
          (r.desk.map (s.world.hall.deskDisplay e.seat)) ∧
      t.world.hall = s.world.hall) ∧
  (∀ (k : RingId) (e : PollEntry) (r : Seat) (s : State),
    (s.world.ring k).state = .opened → (s.world.ring k).inFlight = false → (s.world.ring k).run = none →
    (s.world.port (primaryPort k)).state = .running → (s.world.port (primaryPort k)).wait = none →
    (s.world.port (primaryPort k)).retry = some e.address →
    (s.world.port (primaryPort k)).entries.find? (fun x => x.address = e.address) = some e →
    s.world.hall.seat? e.seat = some r →
    ∃ t via, via = (if r.reach = .primary then .secondary else .primary) ∧
      exec (.poll (primaryPort k)) s = .next t ∧
      (t.world.port (primaryPort k)).wait = some ⟨e.address, via, false⟩ ∧
      (t.world.port (primaryPort k)).retry = none ∧
      t.world.chain.sent.get (if via = .primary then primaryPort k else secondaryPort k) =
        pollFrame e.address e.lastBit (indicatorByte r.indicator) (tunedByte r.tuned)
          (r.desk.map (s.world.hall.deskDisplay e.seat)) ∧
      t.world.hall = s.world.hall) ∧
  (∀ (k : RingId) (run : RingRun) (pre post : List RingTestRow) (row : RingTestRow) (e : PollEntry) (r : Seat)
    (s : State),
    (s.world.ring k).state ≠ .linear → (s.world.ring k).inFlight = false → (s.world.ring k).run = some run →
    (s.world.port (primaryPort k)).state = .running → (s.world.port (primaryPort k)).wait = none →
    run.rows = pre ++ row :: post → (∀ x, x ∈ pre → x.viaPrimary ≠ none ∧ x.viaSecondary ≠ none) →
    row.address = e.address → row.seat = e.seat → (row.viaPrimary = none ∨ row.viaSecondary = none) →
    (s.world.port (primaryPort k)).entries.find? (fun x => x.address = e.address) = some e →
    s.world.hall.seat? e.seat = some r →
    ∃ t via, via = (if row.viaPrimary = none then .primary else .secondary) ∧
      exec (.poll (primaryPort k)) s = .next t ∧
      (t.world.port (primaryPort k)).wait = some ⟨e.address, via, true⟩ ∧
      (t.world.port (primaryPort k)).cursor = (s.world.port (primaryPort k)).cursor ∧
      (t.world.port (primaryPort k)).retry = (s.world.port (primaryPort k)).retry ∧
      t.world.chain.sent.get (if via = .primary then primaryPort k else secondaryPort k) =
        pollFrame e.address e.lastBit (indicatorByte r.indicator) (tunedByte r.tuned)
          (r.desk.map (s.world.hall.deskDisplay e.seat)) ∧
      t.world.hall = s.world.hall) ∧
  (∀ (k : RingId) (s : State), (s.world.ring k).state ≠ .linear → (s.world.ring k).inFlight = true →
    exec (.poll (primaryPort k)) s = .next (s.after s.world)) ∧
  (∀ (p : PortId) (n : Enrolment) (after : Nat) (s : State),
    ((s.world.ring (ringOfPort p)).state = .linear ∨
      p = primaryPort (ringOfPort p) ∧ (s.world.ring (ringOfPort p)).inFlight = false) →
    (s.world.port p).state = .enrolling → (s.world.port p).enrol = some n → n.stage = .polling after →
    (s.world.port p).wait = none →
    (∀ (e : PollEntry) (r : Seat), (s.world.port p).entries.find? (fun x => after < x.address) = some e →
      (s.world.port p).entries.find? (fun x => x.address = e.address) = some e → s.world.hall.seat? e.seat = some r →
      ∃ t, exec (.poll p) s = .next t ∧ (t.world.port p).wait = some ⟨e.address, .primary, false⟩ ∧
        (t.world.port p).enrol = some n ∧ (t.world.port p).cursor = (s.world.port p).cursor ∧
        (t.world.port p).entries = (s.world.port p).entries ∧
        t.world.chain.sent.get p =
          pollFrame e.address e.lastBit (indicatorByte r.indicator) (tunedByte r.tuned)
            (r.desk.map (s.world.hall.deskDisplay e.seat)) ∧
        t.world.hall = s.world.hall) ∧
    ((∀ x, x ∈ (s.world.port p).entries → x.address ≤ after) → exec (.poll p) s = .next (s.after s.world))) ∧
  ∀ (p : PortId) (n : Enrolment) (after address : Nat) (s : State),
    (s.world.ring (ringOfPort p)).state = .linear → (s.world.port p).state = .enrolling →
    (s.world.port p).enrol = some n → n.stage = .polling after →
    (s.world.port p).wait = some ⟨address, .primary, false⟩ →
    ∃ t, exec (.pollMiss p []) s = .next t ∧ (t.world.port p).wait = none ∧
      (t.world.port p).enrol = some { n with
        stage := if (s.world.port p).entries.any (fun x => address < x.address) then .polling address
          else .assigning }

/-- An accepted REPLY (09 R161, R162), on a linear port and on a ring from either end: counts 0, missing reported no, the
reply's bit taken; the seat is answered with the keys when the bit is new and with none when it is a duplicate. A ring test
records the answer (09 R166). What an answered seat takes: reach and link, the slot, the badge (02 R23, R24, R31, R33), then
each key in press order, closed by the arbiter's run (02 R25, R26, 04 R69 to R77, 07 R127 to R131). A RELAY argument that
names no source is refused SOURCE_INVALID: 11 R186 says so of a booth outside 1 to 12, and the model of an output nibble other
than 0 and 1 (log entry 12). -/
def Obligations.ReplyIsTaken : Prop :=
  (∀ (p : PortId) (e : PollEntry) (q : Seat) (r : Reply) (s : State),
    (s.world.ring (ringOfPort p)).state = .linear → (s.world.ring (ringOfPort p)).run = none →
    (s.world.port p).state = .running → (s.world.port p).enrol = none →
    (s.world.port p).wait = some ⟨e.address, .primary, false⟩ →
    (s.world.port p).entries.find? (fun x => x.address = e.address) = some e →
    s.world.hall.seat? e.seat = some q → q.kind = r.kind → r.events.length ≤ 4 → r.address.toNat = e.address →
    ∃ t, exec (.reply p r) s = .next t ∧ (t.world.port p).wait = none ∧
      (t.world.port p).entries.find? (fun x => x.address = e.address) =
        some { e with missPrimary := 0, missSecondary := 0, reported := false, lastBit := r.seqBit } ∧
      t.world.hall = s.world.hall.seatAnswered s.world.clock e.seat .primary r.slot r.badge
        (if r.seqBit = e.lastBit then [] else r.events)) ∧
  (∀ (k : RingId) (via : Reach) (e : PollEntry) (q : Seat) (r : Reply) (s : State),
    (s.world.ring k).state ≠ .linear → (s.world.ring k).run = none →
    (s.world.port (primaryPort k)).state = .running → (s.world.port (primaryPort k)).enrol = none →
    (s.world.port (primaryPort k)).wait = some ⟨e.address, via, false⟩ →
    (s.world.port (primaryPort k)).entries.find? (fun x => x.address = e.address) = some e →
    s.world.hall.seat? e.seat = some q → q.kind = r.kind → r.events.length ≤ 4 → r.address.toNat = e.address →
    ∃ t, exec (.reply (if via = .primary then primaryPort k else secondaryPort k) r) s = .next t ∧
      (t.world.port (primaryPort k)).wait = none ∧
      (t.world.port (primaryPort k)).entries.find? (fun x => x.address = e.address) =
        some { e with missPrimary := 0, missSecondary := 0, reported := false, lastBit := r.seqBit } ∧
      t.world.hall = s.world.hall.seatAnswered s.world.clock e.seat via r.slot r.badge
        (if r.seqBit = e.lastBit then [] else r.events) ∧
      exec (.reply (if via = .primary then secondaryPort k else primaryPort k) r) s = .next (s.after s.world)) ∧
  (∀ (k : RingId) (e : PollEntry) (q : Seat) (r : Reply) (run : RingRun) (pre post : List RingTestRow)
    (row : RingTestRow) (s : State),
    (s.world.ring k).state ≠ .linear → (s.world.ring k).run = some run → run.rows = pre ++ row :: post →
    row.address = e.address → row.seat = e.seat → row.viaSecondary = none →
    (s.world.port (primaryPort k)).state = .running → (s.world.port (primaryPort k)).enrol = none →
    (s.world.port (primaryPort k)).wait = some ⟨e.address, .primary, true⟩ →
    (s.world.port (primaryPort k)).entries.find? (fun x => x.address = e.address) = some e →
    s.world.hall.seat? e.seat = some q → q.kind = r.kind → r.events.length ≤ 4 → r.address.toNat = e.address →
    ∃ t, exec (.reply (primaryPort k) r) s = .next t ∧ (t.world.port (primaryPort k)).wait = none ∧
      (t.world.ring k).run = some { run with
        rows := run.rows.map fun x => if x.address = e.address then { x with viaPrimary := some true } else x } ∧
      t.world.hall = s.world.hall.seatAnswered s.world.clock e.seat .primary r.slot r.badge
        (if r.seqBit = e.lastBit then [] else r.events)) ∧
  (∀ (now : Clock) (h : Hall) (n : SeatId) (r : Seat) (via : Reach) (slot : ListenSlot) (badge : Option Badge)
    (keys : List KeyEvent), h.seat? n = some r →
    h.seatAnswered now n via slot badge keys = keys.foldl (Hall.takeKey now n)
      ((((h.setReach n via).restoreLink now n r).takeSlot n slot).takeBadge now n badge) ∧
    (r.reach ≠ via → ∃ g, g = h.setReach n via ∧ g.seat? n = some { r with reach := via } ∧
      g.marks.get n = true) ∧
    (∀ left, r.link = .lostGrace left → ∃ g q, g = h.restoreLink now n r ∧ g.seat? n = some q ∧
      q.link = .reachable ∧ g.marks.get n = true ∧
      g = (((h.setLink n .reachable).speechLink now n false).deskLinkRegained n).recompose n) ∧
    (r.link = .gone → h.restoreLink now n r = h.setLink n .reachable) ∧
    (r.slot ≠ slot → ∃ g q, g = h.takeSlot n slot ∧ g.seat? n = some { r with slot := slot, tuned := q } ∧
      g.marks.get n = true) ∧
    (∀ c, r.badge = none → badge = some c → ∃ g, g = h.takeBadge now n badge ∧
      g.seat? n = some { r with badge := some c } ∧ g.marks.get n = true ∧ g.floors = h.floors) ∧
    (∀ c, r.badge = some c → badge = none → h.takeBadge now n badge =
      if (h.setBadge n none).speaks n || (h.setBadge n none).queued n then (h.setBadge n none).badgeRemoved now n
      else h.setBadge n none)) ∧
  (∀ (h : Hall) (n : SeatId) (c : KeyRefusal) (r : Seat), h.seat? n = some r →
    ∃ g i, g = h.refuseKey n c ∧ g.marks.get n = true ∧ g.floors = h.floors ∧
      g.seat? n = some { r with lastRefusal := some c, flash := some 10, indicator := i }) ∧
  (∀ (now : Clock) (h : Hall) (n : SeatId) (r : Seat) (k : KeyEvent), h.seat? n = some r →
    (h.accepts r.role k = false → h.takeKey now n k = (h.refuseKey n .notAccepted).arbitrate now) ∧
    (h.accepts r.role k = true → (k = .mic ∨ k = .next ∨ k = .priorityDown) →
      (r.place = none → h.takeKey now n k = (h.refuseKey n .unplaced).arbitrate now) ∧
      (r.place ≠ none → h.floorOf r = none → h.takeKey now n k = (h.refuseKey n .floorDark).arbitrate now))) ∧
  (∀ (now : Clock) (h : Hall) (n : SeatId) (r : Seat) (f : FloorId) (fl : Floor), h.seat? n = some r →
    h.accepts r.role .mic = true → h.floorOf r = some f → fl = h.floor f →
    (fl.bank.badgeRequired = true → r.badge = none →
      h.takeKey now n .mic = (h.refuseKey n .noBadge).arbitrate now) ∧
    ((fl.bank.badgeRequired = false ∨ r.badge ≠ none) →
      (∀ g, h.speakerFloor n = some g → h.takeKey now n .mic = (h.endTurn now g n .released).arbitrate now) ∧
      (∀ g, h.speakerFloor n = none → h.queueFloor n = some g →
        h.takeKey now n .mic = (h.removeEntry g n .cancelled).arbitrate now) ∧
      (h.speakerFloor n = none → h.queueFloor n = none →
        (r.role = .chair →
          (∀ k, h.freeSlot = some k → h.takeKey now n .mic = (h.grant now f n k).arbitrate now) ∧
          (h.freeSlot = none → h.takeKey now n .mic = (h.refuseKey n .noVoiceSlot).arbitrate now)) ∧
        (r.role = .delegate → ∃ join, join = (h.joinQueue f fl.queue.length ⟨n, now, .press, none, false⟩).arbitrate now ∧
          (fl.bank.mode = .chairOnly → h.takeKey now n .mic = (h.refuseKey n .chairOnly).arbitrate now) ∧
          (fl.bank.mode = .request →
            (fl.bank.cap ≤ fl.queue.length → h.takeKey now n .mic = (h.refuseKey n .queueFull).arbitrate now) ∧
            (fl.queue.length < fl.bank.cap → h.poolFree = 0 →
              h.takeKey now n .mic = (h.refuseKey n .poolEmpty).arbitrate now) ∧
            (fl.queue.length < fl.bank.cap → 0 < h.poolFree → h.takeKey now n .mic = join)) ∧
          ((fl.bank.mode = .opened ∨ fl.bank.mode = .override) → fl.muteActive = true →
            h.takeKey now n .mic = (h.refuseKey n .priorityActive).arbitrate now) ∧
          ((fl.bank.mode = .opened ∨ fl.bank.mode = .override) → fl.muteActive = false →
            fl.delegates < fl.bank.limit → ∀ k, h.freeSlot = some k →
              h.takeKey now n .mic = (h.grant now f n k).arbitrate now) ∧
          (fl.bank.mode = .opened → fl.muteActive = false →
            (fl.bank.limit ≤ fl.delegates ∨ h.freeSlot = none) →
            (fl.bank.cap ≤ fl.queue.length → h.takeKey now n .mic = (h.refuseKey n .floorFull).arbitrate now) ∧
            (fl.queue.length < fl.bank.cap → h.poolFree = 0 →
              h.takeKey now n .mic = (h.refuseKey n .poolEmpty).arbitrate now) ∧
            (fl.queue.length < fl.bank.cap → 0 < h.poolFree → h.takeKey now n .mic = join)) ∧
          (fl.bank.mode = .override → fl.muteActive = false → fl.delegates < fl.bank.limit → h.freeSlot = none →
            h.takeKey now n .mic = (h.refuseKey n .noVoiceSlot).arbitrate now) ∧
          (fl.bank.mode = .override → fl.muteActive = false → fl.bank.limit ≤ fl.delegates →
            h.takeKey now n .mic = (h.passTurn now f n .overridden).arbitrate now))))) ∧
  (∀ (now : Clock) (h : Hall) (n : SeatId) (r : Seat), h.seat? n = some r →
    (h.accepts r.role .cancel = true →
      (∀ g, h.speakerFloor n = some g → h.takeKey now n .cancel = (h.endTurn now g n .released).arbitrate now) ∧
      (∀ g, h.speakerFloor n = none → h.queueFloor n = some g →
        h.takeKey now n .cancel = (h.removeEntry g n .cancelled).arbitrate now) ∧
      (h.speakerFloor n = none → h.queueFloor n = none → h.takeKey now n .cancel = h.arbitrate now)) ∧
    (∀ f fl, h.accepts r.role .next = true → h.floorOf r = some f → fl = h.floor f →
      (∀ w, fl.bank.limit ≤ fl.delegates → fl.firstReachable = some w →
        h.takeKey now n .next = (h.passTurn now f w.seat .nextClosed).arbitrate now) ∧
      (fl.bank.limit ≤ fl.delegates → fl.firstReachable = none →
        h.takeKey now n .next = (h.endOldest now f .nextClosed).arbitrate now) ∧
      (∀ w k, fl.delegates < fl.bank.limit → fl.firstReachable = some w → h.freeSlot = some k →
        h.takeKey now n .next = (h.grant now f w.seat k).arbitrate now) ∧
      (∀ w, fl.delegates < fl.bank.limit → fl.firstReachable = some w → h.freeSlot = none →
        h.takeKey now n .next = (h.refuseKey n .noVoiceSlot).arbitrate now) ∧
      (fl.delegates < fl.bank.limit → fl.firstReachable = none → h.takeKey now n .next = h.arbitrate now)) ∧
    (∀ f, h.accepts r.role .priorityDown = true → h.floorOf r = some f →
      ∃ g, g = h.updFloor f (fun x => { x with holders := insertSeat n x.holders }) ∧
        (∀ m, m ∈ (g.floor f).holders ↔ m = n ∨ m ∈ (h.floor f).holders) ∧
        h.takeKey now n .priorityDown = (g.priorityAct now f).arbitrate now) ∧
    h.takeKey now n .priorityUp = (h.leaveHolders n).arbitrate now ∧
    ∀ f, n ∉ ((h.leaveHolders n).floor f).holders) ∧
  ∀ (now : Clock) (h : Hall) (n : SeatId) (r : Seat) (d : DeskFields), h.seat? n = some r → r.desk = some d →
    r.role = .desk →
    (h.maskDesk.getLsbD 1 = true → h.takeKey now n .deskOff = (h.deskLeaves n .deskOff).arbitrate now) ∧
    (h.maskDesk.getLsbD 0 = true →
      (d.live = true → h.takeKey now n .deskOn = h.arbitrate now) ∧
      (d.live = false → h.assignedBooth n = none →
        h.takeKey now n .deskOn = (h.refuseKey n .noBooth).arbitrate now) ∧
      ∀ b, d.live = false → h.assignedBooth n = some b →
        ((h.output b d.selected).use = none →
          h.takeKey now n .deskOn = (h.refuseKey n .outputUnused).arbitrate now) ∧
        ∀ u, (h.output b d.selected).use = some u →
          (u.state = .held → h.takeKey now n .deskOn = (h.refuseKey n .outputHeld).arbitrate now) ∧
          (∀ m g, u.state = .live m g → m ≠ n → (h.booths.get b).policy = .lockout →
            h.takeKey now n .deskOn = (h.refuseKey n .deskBusy).arbitrate now) ∧
          (∀ m g, u.state = .live m g → m ≠ n → (h.booths.get b).policy = .handover →
            h.takeKey now n .deskOn =
              ((((h.setDeskLive m false).setLastRelease b d.selected m .takenOver).goLive b d.selected n).arbitrate
                now)) ∧
          (u.state ≠ .held → (∀ m g, u.state ≠ .live m g) →
            h.takeKey now n .deskOn = (h.goLive b d.selected n).arbitrate now)) ∧
    (∀ o, (if o = .a then h.maskDesk.getLsbD 2 else h.maskDesk.getLsbD 3) = true → ∃ k, k = (if o = .a then
        KeyEvent.outA else .outB) ∧
      (d.selected = o → h.takeKey now n k = h.arbitrate now) ∧
      (d.selected ≠ o → d.live = false → h.takeKey now n k = (h.setDesk n { d with selected := o }).arbitrate now) ∧
      (d.selected ≠ o → d.live = true → h.assignedBooth n = none →
        h.takeKey now n k = (h.refuseKey n .noBooth).arbitrate now) ∧
      ∀ b, d.selected ≠ o → d.live = true → h.assignedBooth n = some b →
        (∀ c, h.liveRefusal b o n = some c → h.takeKey now n k = (h.refuseKey n c).arbitrate now) ∧
        (h.liveRefusal b o n = none → h.takeKey now n k =
          ((((h.setLastRelease b d.selected n .moved).enterSilent b d.selected).setDesk n
            { d with selected := o }).goLiveOver b o n).arbitrate now)) ∧
    (h.maskDesk.getLsbD 4 = true →
      h.takeKey now n (.relay 0#8) = (h.setDesk n { d with relay := .floor }).arbitrate now ∧
      (∀ a, relayArgOf a = none → h.takeKey now n (.relay a) =
        (h.refuseKey n (if (h.assignedBooth n).isSome then .sourceInvalid else .noBooth)).arbitrate now) ∧
      ∀ (c : BoothId) (o : Out), ∃ k, k = KeyEvent.relay (BitVec.ofNat 8 (16 * (c.val + 1) + if o = .a then 0 else 1)) ∧
        (h.assignedBooth n = none → h.takeKey now n k = (h.refuseKey n .noBooth).arbitrate now) ∧
        ∀ b, h.assignedBooth n = some b →
          (h.validSource b c o = false → h.takeKey now n k = (h.refuseKey n .sourceInvalid).arbitrate now) ∧
          (h.validSource b c o = true → h.leadsBack b 25 [(c, o)] c o = true →
            h.takeKey now n k = (h.refuseKey n .relayLoop).arbitrate now) ∧
          (h.validSource b c o = true → h.leadsBack b 25 [(c, o)] c o = false →
            h.takeKey now n k = (h.setDesk n { d with relay := .output c o }).arbitrate now))

/-- A miss on a RUNNING linear port (09 R163): the primary count rises to at most 3; at 3 a REACHABLE seat not yet reported
enters LOST_GRACE with a grace of 3 s, and UNIT_LOST is raised (02 R30). On a RING_CLOSED ring the count rises and a loop test
starts (09 R164), and the report waits for a passed test (09 R165). On a RING_OPEN ring the first miss asks for a second try
from the other end, and the seat is reported when both counts are 3. A miss of a ring test is recorded and not counted, and
starts a loop test like any other (09 R164, R166). -/
def Obligations.MissIsCounted : Prop :=
  (∀ (p : PortId) (e : PollEntry) (s : State),
    (s.world.ring (ringOfPort p)).state = .linear → (s.world.ring (ringOfPort p)).run = none →
    (s.world.port p).state = .running → (s.world.port p).enrol = none →
    (s.world.port p).wait = some ⟨e.address, .primary, false⟩ →
    (s.world.port p).entries.find? (fun x => x.address = e.address) = some e →
    (e.missPrimary < 2 → ∃ t, exec (.pollMiss p []) s = .next t ∧
      (t.world.port p).entries.find? (fun x => x.address = e.address) =
        some { e with missPrimary := e.missPrimary + 1 } ∧ t.world.hall = s.world.hall) ∧
    ∀ q : Seat, e.missPrimary = 2 → e.reported = false → s.world.hall.seat? e.seat = some q → q.link = .reachable →
      ∃ t v, exec (.pollMiss p []) s = .next t ∧
        (t.world.port p).entries.find? (fun x => x.address = e.address) =
          some { e with missPrimary := 3, reported := true } ∧
        t.world.hall.seat? e.seat = some v ∧ v.link = .lostGrace 30 ∧
        t.world.hall.stands (.unitLost q.port) = true) ∧
  (∀ (k : RingId) (e : PollEntry) (s : State),
    (s.world.ring k).state = .closed → (s.world.ring k).run = none →
    (s.world.port (primaryPort k)).state = .running → (s.world.port (primaryPort k)).enrol = none →
    (s.world.port (primaryPort k)).wait = some ⟨e.address, .primary, false⟩ →
    (s.world.port (primaryPort k)).entries.find? (fun x => x.address = e.address) = some e →
    ∃ t, exec (.pollMiss (primaryPort k) []) s = .next t ∧ (t.world.port (primaryPort k)).wait = none ∧
      (t.world.port (primaryPort k)).entries.find? (fun x => x.address = e.address) =
        some { e with missPrimary := min (e.missPrimary + 1) 3 } ∧
      t.world.hall = s.world.hall ∧ (t.world.ring k).inFlight = true ∧
      ((s.world.ring k).inFlight = false → (t.world.ring k).testNo = (s.world.ring k).testNo + 1 ∧
        t.world.chain.sent.get (primaryPort k) = loopFrame ((s.world.ring k).testNo + 1)) ∧
      ((s.world.ring k).inFlight = true → (t.world.ring k).testNo = (s.world.ring k).testNo ∧
        t.world.chain.sent = s.world.chain.sent)) ∧
  (∀ (k : RingId) (e : PollEntry) (q : Seat) (s : State), (s.world.ring k).state = .closed →
    (s.world.ring k).inFlight = true → (s.world.ring k).run = none →
    (s.world.port (primaryPort k)).state = .running → (s.world.port (primaryPort k)).enrol = none →
    (s.world.port (primaryPort k)).releasePending = false →
    (s.world.port (primaryPort k)).entries.find? (fun x => x.address = e.address) = some e →
    e.missPrimary = 3 → e.reported = false → s.world.hall.seat? e.seat = some q → q.link = .reachable →
    ∃ t v, exec (.loopArrival k (s.world.ring k).testNo) s = .next t ∧
      (t.world.port (primaryPort k)).entries.find? (fun x => x.address = e.address) =
        some { e with reported := true } ∧
      t.world.hall.seat? e.seat = some v ∧ v.link = .lostGrace 30 ∧ t.world.hall.stands (.unitLost q.port) = true) ∧
  (∀ (k : RingId) (via : Reach) (e m : PollEntry) (q : Seat) (s : State),
    (s.world.ring k).state = .opened → (s.world.ring k).run = none →
    (s.world.port (primaryPort k)).state = .running → (s.world.port (primaryPort k)).enrol = none →
    (s.world.port (primaryPort k)).wait = some ⟨e.address, via, false⟩ →
    (s.world.port (primaryPort k)).entries.find? (fun x => x.address = e.address) = some e →
    s.world.hall.seat? e.seat = some q →
    m = (if via = .primary then { e with missPrimary := min (e.missPrimary + 1) 3 }
      else { e with missSecondary := min (e.missSecondary + 1) 3 }) →
    ∃ t, exec (.pollMiss (if via = .primary then primaryPort k else secondaryPort k) []) s = .next t ∧
      (t.world.port (primaryPort k)).wait = none ∧
      (t.world.port (primaryPort k)).retry = (if q.reach = via then some e.address else none) ∧
      (t.world.ring k).inFlight = (s.world.ring k).inFlight ∧ t.world.chain.sent = s.world.chain.sent ∧
      ((m.missPrimary < 3 ∨ m.missSecondary < 3) →
        (t.world.port (primaryPort k)).entries.find? (fun x => x.address = e.address) = some m ∧
        t.world.hall = s.world.hall) ∧
      (m.missPrimary = 3 → m.missSecondary = 3 → e.reported = false → q.link = .reachable →
        (t.world.port (primaryPort k)).entries.find? (fun x => x.address = e.address) =
          some { m with reported := true } ∧
        t.world.hall.stands (.unitLost q.port) = true ∧
        ∃ v, t.world.hall.seat? e.seat = some v ∧ v.link = .lostGrace 30)) ∧
  ∀ (k : RingId) (e : PollEntry) (run : RingRun) (pre post : List RingTestRow) (row : RingTestRow) (s : State),
    (s.world.ring k).state ≠ .linear → (s.world.ring k).run = some run → run.rows = pre ++ row :: post →
    row.address = e.address → row.seat = e.seat → row.viaSecondary = none →
    (s.world.port (primaryPort k)).state = .running → (s.world.port (primaryPort k)).enrol = none →
    (s.world.port (primaryPort k)).wait = some ⟨e.address, .primary, true⟩ →
    (s.world.port (primaryPort k)).entries.find? (fun x => x.address = e.address) = some e →
    ∃ t, exec (.pollMiss (primaryPort k) []) s = .next t ∧ (t.world.port (primaryPort k)).wait = none ∧
      (t.world.ring k).run = some { run with
        rows := run.rows.map fun x => if x.address = e.address then { x with viaPrimary := some false } else x } ∧
      (t.world.port (primaryPort k)).entries = (s.world.port (primaryPort k)).entries ∧
      t.world.hall = s.world.hall ∧
      ((s.world.ring k).state = .closed → (t.world.ring k).inFlight = true)

/-- CHAIN_CONFIG pairs and separates the ports of a ring, A or B, that are both IDLE (09 R157): the records of a ring that is
separated are cleared, one that stands so already is left as it is, and the other ring and the seats stay as they are. It is
refused BAD_ARGUMENT for another ring or value, and WRONG_STATE while either port is not IDLE. -/
def Obligations.ChainConfig : Prop :=
  (∀ (b : Byte) (k : RingId) (s : State), s.takes → b = (if k = 0 then 0x0A#8 else 0x0B#8) →
    (s.world.port (primaryPort k)).state = .idle → (s.world.port (secondaryPort k)).state = .idle →
    (s.world.ring k).state = .linear → ∃ t, exec (.chainConfig b 1#8) s = .next t ∧
      t.world.ring k = { s.world.ring k with state := .untested } ∧
      (∀ j, j ≠ k → t.world.ring j = s.world.ring j) ∧ t.world.chain.ports = s.world.chain.ports ∧
      t.world.hall = s.world.hall ∧ t.port.buffer = .unread ⟨.ok, 0x60#8, .empty⟩) ∧
  (∀ (b : Byte) (k : RingId) (s : State), s.takes → b = (if k = 0 then 0x0A#8 else 0x0B#8) →
    (s.world.port (primaryPort k)).state = .idle → (s.world.port (secondaryPort k)).state = .idle →
    (s.world.ring k).state ≠ .linear → ∃ t, exec (.chainConfig b 0#8) s = .next t ∧
      (t.world.ring k).state = .linear ∧ (t.world.ring k).lastLoop = none ∧ (t.world.ring k).lastTest = none ∧
      (∀ j, j ≠ k → t.world.ring j = s.world.ring j) ∧ t.world.chain.ports = s.world.chain.ports ∧
      t.world.hall = s.world.hall ∧ t.port.buffer = .unread ⟨.ok, 0x60#8, .empty⟩) ∧
  (∀ (b v : Byte) (k : RingId) (s : State), s.takes → b = (if k = 0 then 0x0A#8 else 0x0B#8) →
    (s.world.port (primaryPort k)).state = .idle → (s.world.port (secondaryPort k)).state = .idle →
    (v = 1#8 ∧ (s.world.ring k).state ≠ .linear ∨ v = 0#8 ∧ (s.world.ring k).state = .linear) →
    exec (.chainConfig b v) s = .next (s.answered 5 0x60#8 ⟨s.world, .ok, .empty⟩)) ∧
  (∀ (b v : Byte) (s : State), s.takes → (b ≠ 0x0A#8 ∧ b ≠ 0x0B#8 ∨ 2 ≤ v.toNat) →
    exec (.chainConfig b v) s = .next (s.answered 5 0x60#8 ⟨s.world, .badArgument, .empty⟩)) ∧
  ∀ (b v : Byte) (k : RingId) (s : State), s.takes → b = (if k = 0 then 0x0A#8 else 0x0B#8) → v.toNat < 2 →
    ((s.world.port (primaryPort k)).state ≠ .idle ∨ (s.world.port (secondaryPort k)).state ≠ .idle) →
    exec (.chainConfig b v) s = .next (s.answered 5 0x60#8 ⟨s.world, .wrongState, .empty⟩)

/-- Starting enrolments on a linear port (09 R167): FULL sends RELEASE_ALL and, with no seat to retire, is ready to assign
address 1; EXTEND goes on from the highest address. ENROLL_ABORT between steps ends it ABORTED (09 R169, R170). -/
def Obligations.EnrolmentStartsAndAborts : Prop :=
  (∀ (b : Byte) (p : PortId) (s : State), s.takes → b.toNat = p.val →
    (s.world.ring (ringOfPort p)).state = .linear → (s.world.port p).state = .idle →
    s.world.hall.seatsOf p = [] →
    ∃ t, exec (.enrollFull b) s = .next t ∧ (t.world.port p).state = .enrolling ∧
      (t.world.port p).enrol = some ⟨.full, 1, 0, none, none, .assigning, false⟩ ∧
      t.world.chain.sent.get p = releaseAllFrame ∧ t.port.buffer = .unread ⟨.accepted, 0x61#8, .empty⟩) ∧
  (∀ (b : Byte) (p : PortId) (s : State), s.takes → b.toNat = p.val →
    (s.world.ring (ringOfPort p)).state = .linear → (s.world.port p).state = .running →
    s.world.hall.highest p < 64 →
    ∃ t, exec (.enrollExtend b) s = .next t ∧ (t.world.port p).state = .enrolling ∧
      (t.world.port p).enrol = some ⟨.extend, s.world.hall.highest p + 1, 0, none, none, .assigning, false⟩ ∧
      t.world.chain.sent = s.world.chain.sent ∧ t.port.buffer = .unread ⟨.accepted, 0x61#8, .empty⟩) ∧
  ∀ (b : Byte) (p : PortId) (e : Enrolment) (s : State), s.takes → b.toNat = p.val →
    (s.world.ring (ringOfPort p)).state = .linear → (s.world.port p).state = .enrolling →
    (s.world.port p).enrol = some e → e.stage = .assigning →
    ∃ t, exec (.enrollAbort b) s = .next t ∧ (t.world.port p).enrol = none ∧
      (t.world.port p).lastEnrol = some ⟨e.kind, .aborted, e.made, e.first, e.last, s.world.clock⟩ ∧
      (t.world.port p).state = (if s.world.hall.seatsOf p = [] then .idle else .running) ∧
      t.world.hall.stands (.enrollDone p) = true ∧ t.port.buffer = .unread ⟨.ok, 0x62#8, .empty⟩

/-- An assignment step (09 R168, 02 R20): the lowest free number reserved and ASSIGN sent; an acknowledgement makes the seat
and its poll entry; a bad answer is followed by one POLL; silence on a linear chain ends the enrolment DONE. An
ASSIGN that returns on a ring ends the enrolment DONE and closes the ring (09 R169). That a ring left without units closes as
well is the model's choice (log entry 16), and so is that on a ring a bad answer counts at the primary port, which holds the
window (log entry 41). -/
def Obligations.AssignmentStep : Prop :=
  (∀ (p : PortId) (e : Enrolment) (n : SeatId) (s : State), (s.world.ring (ringOfPort p)).state = .linear →
    (s.world.port p).enrol = some e → e.stage = .assigning → s.world.hall.seats.get n = .free →
    (∀ m, m < n → s.world.hall.seats.get m ≠ .free) →
    ∃ t, exec (.assignStep p) s = .next t ∧ t.world.hall.seats = s.world.hall.seats.set n .reserved ∧
      (t.world.port p).enrol = some { e with stage := .window n } ∧
      t.world.chain.sent.get p = assignFrame e.nextAddr) ∧
  (∀ (p : PortId) (e : Enrolment) (n : SeatId) (a : Byte) (kind : UnitKind) (s : State),
    (s.world.port p).enrol = some e → e.stage = .window n → e.aborting = false → a.toNat = e.nextAddr →
    e.nextAddr < 64 →
    ∃ t, exec (.assignAck p a kind) s = .next t ∧ t.world.hall.seats.get n = .held (Seat.made p e.nextAddr kind) ∧
      t.world.hall.marks.get n = true ∧
      (t.world.port p).entries = (s.world.port p).entries ++ [⟨e.nextAddr, n, 0, 0, false, true⟩] ∧
      (t.world.port p).enrol = some { e with
        nextAddr := e.nextAddr + 1, made := e.made + 1, first := some (e.first.getD e.nextAddr)
        last := some e.nextAddr, stage := .polling 0 }) ∧
  (∀ (p : PortId) (e : Enrolment) (n : SeatId) (frame : List Byte) (s : State), (s.world.port p).enrol = some e →
    e.stage = .window n → frame ≠ [] → decodeUp frame = none →
    ∃ t, exec (.assignBadAnswer p frame) s = .next t ∧
      (t.world.port p).enrol = some { e with stage := .probing n } ∧
      (t.world.port p).wait = some ⟨e.nextAddr, .primary, false⟩ ∧ t.world.hall = s.world.hall) ∧
  (∀ (p : PortId) (e : Enrolment) (n : SeatId) (s : State), (s.world.ring (ringOfPort p)).state = .linear →
    (s.world.port p).enrol = some e → e.stage = .window n → e.aborting = false →
    s.world.hall.seats.get n = .reserved →
    ∃ t, exec (.assignTimeout p) s = .next t ∧ t.world.hall.seats = s.world.hall.seats.set n .free ∧
      (t.world.port p).enrol = none ∧
      (t.world.port p).lastEnrol = some ⟨e.kind, .done, e.made, e.first, e.last, s.world.clock⟩ ∧
      t.world.hall.stands (.enrollDone p) = true) ∧
  ∀ (r : RingId) (e : Enrolment) (n : SeatId) (s : State), (s.world.ring r).state ≠ .linear →
    (s.world.port (primaryPort r)).enrol = some e → e.stage = .window n → e.aborting = false →
    ∃ t, exec (.assignReturned r) s = .next t ∧ (t.world.ring r).state = .closed ∧
      (t.world.port (primaryPort r)).enrol = none ∧
      (t.world.port (primaryPort r)).lastEnrol =
        some ⟨e.kind, .done, e.made, e.first, e.last, s.world.clock⟩ ∧
      t.world.hall.stands (.enrollDone (primaryPort r)) = true

/-- CHAIN_RESET of a linear port (09 R171): RELEASE_ALL is sent, and the port is RESETTING while it has seats and IDLE when
it has none. The retirements then take the lowest seat each time (02 R35). -/
def Obligations.ChainReset : Prop :=
  (∀ (b : Byte) (p : PortId) (s : State), s.takes → b.toNat = p.val →
    (s.world.ring (ringOfPort p)).state = .linear → (s.world.port p).state ≠ .resetting →
    (s.world.port p).enrol = none →
    ∃ t, exec (.chainReset b) s = .next t ∧ t.world.chain.sent.get p = releaseAllFrame ∧
      (t.world.port p).state = (if s.world.hall.seatsOf p = [] then .idle else .resetting) ∧
      t.port.buffer = .unread ⟨.accepted, 0x63#8, .empty⟩) ∧
  ∀ (p : PortId) (n : SeatId) (rest : List SeatId) (s : State), (s.world.ring (ringOfPort p)).state = .linear →
    (s.world.port p).state = .resetting → (s.world.port p).releasePending = false →
    s.world.hall.seatsOf p = n :: rest →
    ∃ t, exec (.chainSeatRetire p) s = .next t ∧ t.world.hall.seats.get n = .free ∧
      t.world.hall.marks.get n = true ∧ (rest = [] → (t.world.port p).state = .idle ∧ (t.world.port p).entries = [])

/-- A loop test takes the next number and sends LOOP from the primary port, by RING_TEST and by the periodic timer
(09 R164, R166); while one is in flight no second starts. -/
def Obligations.LoopTestStarts : Prop :=
  (∀ (b : Byte) (r : RingId) (s : State), s.takes → b = (if r = 0 then 0x0A#8 else 0x0B#8) →
    (s.world.ring r).state ≠ .linear → (s.world.port (primaryPort r)).state = .running → (s.world.ring r).run = none →
    (s.world.ring r).inFlight = false →
    ∃ t, exec (.ringTest b) s = .next t ∧ (t.world.ring r).testNo = (s.world.ring r).testNo + 1 ∧
      (t.world.ring r).inFlight = true ∧ (t.world.ring r).run = some ⟨none, []⟩ ∧
      t.world.chain.sent.get (primaryPort r) = loopFrame ((s.world.ring r).testNo + 1) ∧
      t.world.hall = s.world.hall ∧ t.port.buffer = .unread ⟨.accepted, 0x65#8, .empty⟩) ∧
  (∀ (r : RingId) (k : Nat) (s : State), (s.world.ring r).periodic = some k → (s.world.ring r).state = .closed →
    (s.world.ring r).inFlight = false →
    ∃ t, exec (.periodicLoopTest r) s = .next t ∧ (t.world.ring r).testNo = (s.world.ring r).testNo + 1 ∧
      (t.world.ring r).inFlight = true ∧ t.world.hall = s.world.hall ∧
      t.world.chain.sent.get (primaryPort r) = loopFrame ((s.world.ring r).testNo + 1)) ∧
  ∀ (r : RingId) (k : Nat) (s : State), (s.world.ring r).periodic = some k → (s.world.ring r).inFlight = true →
    ∃ t, exec (.periodicLoopTest r) s = .next t ∧ t.world.chain.sent = s.world.chain.sent ∧
      (t.world.ring r).testNo = (s.world.ring r).testNo

/-- The result of a loop test on a RUNNING ring with no ring test (09 R164, R165): passed, the ring is RING_CLOSED; failed,
RING_OPEN; the result is recorded with the clock, and a change raises RING_CHANGED. -/
def Obligations.LoopResult : Prop :=
  ∀ (r : RingId) (s : State), (s.world.ring r).inFlight = true → (s.world.ring r).state ≠ .linear →
    (s.world.ring r).run = none → (s.world.port (primaryPort r)).state = .running →
    (s.world.port (primaryPort r)).enrol = none → (s.world.port (primaryPort r)).releasePending = false →
    (∃ t, exec (.loopArrival r (s.world.ring r).testNo) s = .next t ∧ (t.world.ring r).state = .closed ∧
      (t.world.ring r).inFlight = false ∧ (t.world.ring r).lastLoop = some (true, s.world.clock) ∧
      (t.world.ring r).periodic = some 10 ∧
      ((s.world.ring r).state ≠ .closed → t.world.hall.stands (.ringChanged r) = true)) ∧
    ∃ t, exec (.loopTimeout r) s = .next t ∧ (t.world.ring r).state = .opened ∧
      (t.world.ring r).inFlight = false ∧ (t.world.ring r).lastLoop = some (false, s.world.clock) ∧
      (t.world.ring r).periodic = some 10 ∧
      ((s.world.ring r).state ≠ .opened → t.world.hall.stands (.ringChanged r) = true)
end

