-- ==== Sys2Proof/Laws/State.lean ====
section
/-! SUPPORT. What each record update leaves and writes, field by field: every line is true by computation. -/

namespace Sys2Proof.Machine

/-! ### s.withPending cs -/

@[simp] theorem State.withPending_world (s : State) (cs : List Instr) : (s.withPending cs).world = s.world := rfl
@[simp] theorem State.withPending_port (s : State) (cs : List Instr) : (s.withPending cs).port = s.port := rfl
@[simp] theorem State.withPending_pending (s : State) (cs : List Instr) : (s.withPending cs).pending = cs := rfl

/-! ### s.after w -/

@[simp] theorem State.after_world (s : State) (w : World) : (s.after w).world = w := rfl
@[simp] theorem State.after_port (s : State) (w : World) : (s.after w).port = s.port.judge w.hall := rfl
@[simp] theorem State.after_pending (s : State) (w : World) : (s.after w).pending = s.pending := rfl

/-! ### s.answered n code r -/

@[simp] theorem State.answered_world (s : State) (n : Nat) (code : Byte) (r : Handled) :
    (s.answered n code r).world = r.world := rfl
@[simp] theorem State.answered_port (s : State) (n : Nat) (code : Byte) (r : Handled) :
    (s.answered n code r).port =
      ((s.port.transact n).place ⟨r.status, code, r.payload⟩).judge r.world.hall := rfl
@[simp] theorem State.answered_pending (s : State) (n : Nat) (code : Byte) (r : Handled) :
    (s.answered n code r).pending = s.pending := rfl

/-! ### s.discarded n -/

@[simp] theorem State.discarded_world (s : State) (n : Nat) : (s.discarded n).world = s.world := rfl
@[simp] theorem State.discarded_port (s : State) (n : Nat) : (s.discarded n).port = s.port.transact n := rfl
@[simp] theorem State.discarded_pending (s : State) (n : Nat) : (s.discarded n).pending = s.pending := rfl

/-! ### inHall w h -/

@[simp] theorem inHall_clock (w : World) (h : Hall) : (inHall w h).clock = w.clock := rfl
@[simp] theorem inHall_layout (w : World) (h : Hall) : (inHall w h).layout = w.layout := rfl
@[simp] theorem inHall_hall (w : World) (h : Hall) : (inHall w h).hall = h := rfl
@[simp] theorem inHall_chain (w : World) (h : Hall) : (inHall w h).chain = w.chain := rfl

/-! ### updBooth h b g -/

@[simp] theorem updBooth_seats (h : Hall) (b : BoothId) (g : Booth → Booth) : (updBooth h b g).seats = h.seats := rfl
@[simp] theorem updBooth_maskDelegate (h : Hall) (b : BoothId) (g : Booth → Booth) :
    (updBooth h b g).maskDelegate = h.maskDelegate := rfl
@[simp] theorem updBooth_maskChair (h : Hall) (b : BoothId) (g : Booth → Booth) :
    (updBooth h b g).maskChair = h.maskChair := rfl
@[simp] theorem updBooth_maskDesk (h : Hall) (b : BoothId) (g : Booth → Booth) :
    (updBooth h b g).maskDesk = h.maskDesk := rfl
@[simp] theorem updBooth_marks (h : Hall) (b : BoothId) (g : Booth → Booth) : (updBooth h b g).marks = h.marks := rfl
@[simp] theorem updBooth_cursor (h : Hall) (b : BoothId) (g : Booth → Booth) : (updBooth h b g).cursor = h.cursor := rfl
@[simp] theorem updBooth_floors (h : Hall) (b : BoothId) (g : Booth → Booth) : (updBooth h b g).floors = h.floors := rfl
@[simp] theorem updBooth_slots (h : Hall) (b : BoothId) (g : Booth → Booth) : (updBooth h b g).slots = h.slots := rfl
@[simp] theorem updBooth_channels (h : Hall) (b : BoothId) (g : Booth → Booth) :
    (updBooth h b g).channels = h.channels := rfl
@[simp] theorem updBooth_booths (h : Hall) (b : BoothId) (g : Booth → Booth) :
    (updBooth h b g).booths = h.booths.upd b g := rfl
@[simp] theorem updBooth_routeQueue (h : Hall) (b : BoothId) (g : Booth → Booth) :
    (updBooth h b g).routeQueue = h.routeQueue := rfl
@[simp] theorem updBooth_inFlight (h : Hall) (b : BoothId) (g : Booth → Booth) :
    (updBooth h b g).inFlight = h.inFlight := rfl
@[simp] theorem updBooth_hold (h : Hall) (b : BoothId) (g : Booth → Booth) : (updBooth h b g).hold = h.hold := rfl
@[simp] theorem updBooth_link (h : Hall) (b : BoothId) (g : Booth → Booth) : (updBooth h b g).link = h.link := rfl
@[simp] theorem updBooth_attention (h : Hall) (b : BoothId) (g : Booth → Booth) :
    (updBooth h b g).attention = h.attention := rfl

end Sys2Proof.Machine

namespace Sys2Proof

/-! ### w.onHall f -/

@[simp] theorem World.onHall_clock (w : World) (f : Hall → Hall) : (w.onHall f).clock = w.clock := rfl
@[simp] theorem World.onHall_layout (w : World) (f : Hall → Hall) : (w.onHall f).layout = w.layout := rfl
@[simp] theorem World.onHall_hall (w : World) (f : Hall → Hall) : (w.onHall f).hall = f w.hall := rfl
@[simp] theorem World.onHall_chain (w : World) (f : Hall → Hall) : (w.onHall f).chain = w.chain := rfl

/-! ### w.updPort p f -/

@[simp] theorem World.updPort_clock (w : World) (p : PortId) (f : PortRec → PortRec) :
    (w.updPort p f).clock = w.clock := rfl
@[simp] theorem World.updPort_layout (w : World) (p : PortId) (f : PortRec → PortRec) :
    (w.updPort p f).layout = w.layout := rfl
@[simp] theorem World.updPort_hall (w : World) (p : PortId) (f : PortRec → PortRec) :
    (w.updPort p f).hall = w.hall := rfl
@[simp] theorem World.updPort_chain (w : World) (p : PortId) (f : PortRec → PortRec) :
    (w.updPort p f).chain = { w.chain with ports := w.chain.ports.upd p f } := rfl

/-! ### w.updRing r f -/

@[simp] theorem World.updRing_clock (w : World) (r : RingId) (f : RingRec → RingRec) :
    (w.updRing r f).clock = w.clock := rfl
@[simp] theorem World.updRing_layout (w : World) (r : RingId) (f : RingRec → RingRec) :
    (w.updRing r f).layout = w.layout := rfl
@[simp] theorem World.updRing_hall (w : World) (r : RingId) (f : RingRec → RingRec) :
    (w.updRing r f).hall = w.hall := rfl
@[simp] theorem World.updRing_chain (w : World) (r : RingId) (f : RingRec → RingRec) :
    (w.updRing r f).chain = { w.chain with rings := w.chain.rings.upd r f } := rfl

/-! ### w.send p frame -/

@[simp] theorem World.send_clock (w : World) (p : PortId) (frame : List Byte) : (w.send p frame).clock = w.clock := rfl
@[simp] theorem World.send_layout (w : World) (p : PortId) (frame : List Byte) :
    (w.send p frame).layout = w.layout := rfl
@[simp] theorem World.send_hall (w : World) (p : PortId) (frame : List Byte) : (w.send p frame).hall = w.hall := rfl
@[simp] theorem World.send_chain (w : World) (p : PortId) (frame : List Byte) :
    (w.send p frame).chain = { w.chain with sent := w.chain.sent.set p frame } := rfl

/-! ### w.setWall i x -/

@[simp] theorem World.setWall_clock (w : World) (i : WallId) (x : Wall) : (w.setWall i x).clock = w.clock := rfl
@[simp] theorem World.setWall_layout (w : World) (i : WallId) (x : Wall) :
    (w.setWall i x).layout = w.layout.setWall i (some x) := rfl
@[simp] theorem World.setWall_hall (w : World) (i : WallId) (x : Wall) : (w.setWall i x).hall = w.hall := rfl
@[simp] theorem World.setWall_chain (w : World) (i : WallId) (x : Wall) : (w.setWall i x).chain = w.chain := rfl

/-! ### l.setWall i w -/

@[simp] theorem Layout.setWall_active (l : Layout) (i : WallId) (w : Option Wall) :
    (l.setWall i w).active = l.active := rfl
@[simp] theorem Layout.setWall_walls (l : Layout) (i : WallId) (w : Option Wall) :
    (l.setWall i w).walls = l.walls.set i w := rfl
@[simp] theorem Layout.setWall_pendingWalls (l : Layout) (i : WallId) (w : Option Wall) :
    (l.setWall i w).pendingWalls = l.pendingWalls := rfl
@[simp] theorem Layout.setWall_lock (l : Layout) (i : WallId) (w : Option Wall) : (l.setWall i w).lock = l.lock := rfl
@[simp] theorem Layout.setWall_lines (l : Layout) (i : WallId) (w : Option Wall) :
    (l.setWall i w).lines = l.lines := rfl

/-! ### l.setPending i p -/

@[simp] theorem Layout.setPending_active (l : Layout) (i : WallId) (p : Option WallPos) :
    (l.setPending i p).active = l.active := rfl
@[simp] theorem Layout.setPending_walls (l : Layout) (i : WallId) (p : Option WallPos) :
    (l.setPending i p).walls = l.walls := rfl
@[simp] theorem Layout.setPending_pendingWalls (l : Layout) (i : WallId) (p : Option WallPos) :
    (l.setPending i p).pendingWalls = l.pendingWalls.set i p := rfl
@[simp] theorem Layout.setPending_lock (l : Layout) (i : WallId) (p : Option WallPos) :
    (l.setPending i p).lock = l.lock := rfl
@[simp] theorem Layout.setPending_lines (l : Layout) (i : WallId) (p : Option WallPos) :
    (l.setPending i p).lines = l.lines := rfl

/-! ### h.updFloor f g -/

@[simp] theorem Hall.updFloor_seats (h : Hall) (f : FloorId) (g : Floor → Floor) :
    (h.updFloor f g).seats = h.seats := rfl
@[simp] theorem Hall.updFloor_maskDelegate (h : Hall) (f : FloorId) (g : Floor → Floor) :
    (h.updFloor f g).maskDelegate = h.maskDelegate := rfl
@[simp] theorem Hall.updFloor_maskChair (h : Hall) (f : FloorId) (g : Floor → Floor) :
    (h.updFloor f g).maskChair = h.maskChair := rfl
@[simp] theorem Hall.updFloor_maskDesk (h : Hall) (f : FloorId) (g : Floor → Floor) :
    (h.updFloor f g).maskDesk = h.maskDesk := rfl
@[simp] theorem Hall.updFloor_marks (h : Hall) (f : FloorId) (g : Floor → Floor) :
    (h.updFloor f g).marks = h.marks := rfl
@[simp] theorem Hall.updFloor_cursor (h : Hall) (f : FloorId) (g : Floor → Floor) :
    (h.updFloor f g).cursor = h.cursor := rfl
@[simp] theorem Hall.updFloor_floors (h : Hall) (f : FloorId) (g : Floor → Floor) :
    (h.updFloor f g).floors = h.floors.upd f g := rfl
@[simp] theorem Hall.updFloor_slots (h : Hall) (f : FloorId) (g : Floor → Floor) :
    (h.updFloor f g).slots = h.slots := rfl
@[simp] theorem Hall.updFloor_channels (h : Hall) (f : FloorId) (g : Floor → Floor) :
    (h.updFloor f g).channels = h.channels := rfl
@[simp] theorem Hall.updFloor_booths (h : Hall) (f : FloorId) (g : Floor → Floor) :
    (h.updFloor f g).booths = h.booths := rfl
@[simp] theorem Hall.updFloor_routeQueue (h : Hall) (f : FloorId) (g : Floor → Floor) :
    (h.updFloor f g).routeQueue = h.routeQueue := rfl
@[simp] theorem Hall.updFloor_inFlight (h : Hall) (f : FloorId) (g : Floor → Floor) :
    (h.updFloor f g).inFlight = h.inFlight := rfl
@[simp] theorem Hall.updFloor_hold (h : Hall) (f : FloorId) (g : Floor → Floor) : (h.updFloor f g).hold = h.hold := rfl
@[simp] theorem Hall.updFloor_link (h : Hall) (f : FloorId) (g : Floor → Floor) : (h.updFloor f g).link = h.link := rfl
@[simp] theorem Hall.updFloor_attention (h : Hall) (f : FloorId) (g : Floor → Floor) :
    (h.updFloor f g).attention = h.attention := rfl

/-! ### h.raise i -/

@[simp] theorem Hall.raise_seats (h : Hall) (i : AttnItem) : (h.raise i).seats = h.seats := rfl
@[simp] theorem Hall.raise_maskDelegate (h : Hall) (i : AttnItem) : (h.raise i).maskDelegate = h.maskDelegate := rfl
@[simp] theorem Hall.raise_maskChair (h : Hall) (i : AttnItem) : (h.raise i).maskChair = h.maskChair := rfl
@[simp] theorem Hall.raise_maskDesk (h : Hall) (i : AttnItem) : (h.raise i).maskDesk = h.maskDesk := rfl
@[simp] theorem Hall.raise_marks (h : Hall) (i : AttnItem) : (h.raise i).marks = h.marks := rfl
@[simp] theorem Hall.raise_cursor (h : Hall) (i : AttnItem) : (h.raise i).cursor = h.cursor := rfl
@[simp] theorem Hall.raise_floors (h : Hall) (i : AttnItem) : (h.raise i).floors = h.floors := rfl
@[simp] theorem Hall.raise_slots (h : Hall) (i : AttnItem) : (h.raise i).slots = h.slots := rfl
@[simp] theorem Hall.raise_channels (h : Hall) (i : AttnItem) : (h.raise i).channels = h.channels := rfl
@[simp] theorem Hall.raise_booths (h : Hall) (i : AttnItem) : (h.raise i).booths = h.booths := rfl
@[simp] theorem Hall.raise_routeQueue (h : Hall) (i : AttnItem) : (h.raise i).routeQueue = h.routeQueue := rfl
@[simp] theorem Hall.raise_inFlight (h : Hall) (i : AttnItem) : (h.raise i).inFlight = h.inFlight := rfl
@[simp] theorem Hall.raise_hold (h : Hall) (i : AttnItem) : (h.raise i).hold = h.hold := rfl
@[simp] theorem Hall.raise_link (h : Hall) (i : AttnItem) : (h.raise i).link = h.link := rfl
@[simp] theorem Hall.raise_attention (h : Hall) (i : AttnItem) :
    (h.raise i).attention = h.attention.set i.index true := rfl

/-! ### h.clearAttention -/

@[simp] theorem Hall.clearAttention_seats (h : Hall) : (h.clearAttention).seats = h.seats := rfl
@[simp] theorem Hall.clearAttention_maskDelegate (h : Hall) : (h.clearAttention).maskDelegate = h.maskDelegate := rfl
@[simp] theorem Hall.clearAttention_maskChair (h : Hall) : (h.clearAttention).maskChair = h.maskChair := rfl
@[simp] theorem Hall.clearAttention_maskDesk (h : Hall) : (h.clearAttention).maskDesk = h.maskDesk := rfl
@[simp] theorem Hall.clearAttention_marks (h : Hall) : (h.clearAttention).marks = h.marks := rfl
@[simp] theorem Hall.clearAttention_cursor (h : Hall) : (h.clearAttention).cursor = h.cursor := rfl
@[simp] theorem Hall.clearAttention_floors (h : Hall) : (h.clearAttention).floors = h.floors := rfl
@[simp] theorem Hall.clearAttention_slots (h : Hall) : (h.clearAttention).slots = h.slots := rfl
@[simp] theorem Hall.clearAttention_channels (h : Hall) : (h.clearAttention).channels = h.channels := rfl
@[simp] theorem Hall.clearAttention_booths (h : Hall) : (h.clearAttention).booths = h.booths := rfl
@[simp] theorem Hall.clearAttention_routeQueue (h : Hall) : (h.clearAttention).routeQueue = h.routeQueue := rfl
@[simp] theorem Hall.clearAttention_inFlight (h : Hall) : (h.clearAttention).inFlight = h.inFlight := rfl
@[simp] theorem Hall.clearAttention_hold (h : Hall) : (h.clearAttention).hold = h.hold := rfl
@[simp] theorem Hall.clearAttention_link (h : Hall) : (h.clearAttention).link = h.link := rfl
@[simp] theorem Hall.clearAttention_attention (h : Hall) : (h.clearAttention).attention = Tbl.fill 70 false := rfl

/-! ### h.setOutput b o x -/

@[simp] theorem Hall.setOutput_seats (h : Hall) (b : BoothId) (o : Out) (x : Output) :
    (h.setOutput b o x).seats = h.seats := rfl
@[simp] theorem Hall.setOutput_maskDelegate (h : Hall) (b : BoothId) (o : Out) (x : Output) :
    (h.setOutput b o x).maskDelegate = h.maskDelegate := rfl
@[simp] theorem Hall.setOutput_maskChair (h : Hall) (b : BoothId) (o : Out) (x : Output) :
    (h.setOutput b o x).maskChair = h.maskChair := rfl
@[simp] theorem Hall.setOutput_maskDesk (h : Hall) (b : BoothId) (o : Out) (x : Output) :
    (h.setOutput b o x).maskDesk = h.maskDesk := rfl
@[simp] theorem Hall.setOutput_marks (h : Hall) (b : BoothId) (o : Out) (x : Output) :
    (h.setOutput b o x).marks = h.marks := rfl
@[simp] theorem Hall.setOutput_cursor (h : Hall) (b : BoothId) (o : Out) (x : Output) :
    (h.setOutput b o x).cursor = h.cursor := rfl
@[simp] theorem Hall.setOutput_floors (h : Hall) (b : BoothId) (o : Out) (x : Output) :
    (h.setOutput b o x).floors = h.floors := rfl
@[simp] theorem Hall.setOutput_slots (h : Hall) (b : BoothId) (o : Out) (x : Output) :
    (h.setOutput b o x).slots = h.slots := rfl
@[simp] theorem Hall.setOutput_channels (h : Hall) (b : BoothId) (o : Out) (x : Output) :
    (h.setOutput b o x).channels = h.channels := rfl
@[simp] theorem Hall.setOutput_booths (h : Hall) (b : BoothId) (o : Out) (x : Output) :
    (h.setOutput b o x).booths = h.booths.upd b fun r => r.setOutput o x := rfl
@[simp] theorem Hall.setOutput_routeQueue (h : Hall) (b : BoothId) (o : Out) (x : Output) :
    (h.setOutput b o x).routeQueue = h.routeQueue := rfl
@[simp] theorem Hall.setOutput_inFlight (h : Hall) (b : BoothId) (o : Out) (x : Output) :
    (h.setOutput b o x).inFlight = h.inFlight := rfl
@[simp] theorem Hall.setOutput_hold (h : Hall) (b : BoothId) (o : Out) (x : Output) :
    (h.setOutput b o x).hold = h.hold := rfl
@[simp] theorem Hall.setOutput_link (h : Hall) (b : BoothId) (o : Out) (x : Output) :
    (h.setOutput b o x).link = h.link := rfl
@[simp] theorem Hall.setOutput_attention (h : Hall) (b : BoothId) (o : Out) (x : Output) :
    (h.setOutput b o x).attention = h.attention := rfl

/-! ### h.setUse c u -/

@[simp] theorem Hall.setUse_seats (h : Hall) (c : ChannelId) (u : ChanUse) : (h.setUse c u).seats = h.seats := rfl
@[simp] theorem Hall.setUse_maskDelegate (h : Hall) (c : ChannelId) (u : ChanUse) :
    (h.setUse c u).maskDelegate = h.maskDelegate := rfl
@[simp] theorem Hall.setUse_maskChair (h : Hall) (c : ChannelId) (u : ChanUse) :
    (h.setUse c u).maskChair = h.maskChair := rfl
@[simp] theorem Hall.setUse_maskDesk (h : Hall) (c : ChannelId) (u : ChanUse) :
    (h.setUse c u).maskDesk = h.maskDesk := rfl
@[simp] theorem Hall.setUse_marks (h : Hall) (c : ChannelId) (u : ChanUse) : (h.setUse c u).marks = h.marks := rfl
@[simp] theorem Hall.setUse_cursor (h : Hall) (c : ChannelId) (u : ChanUse) : (h.setUse c u).cursor = h.cursor := rfl
@[simp] theorem Hall.setUse_floors (h : Hall) (c : ChannelId) (u : ChanUse) : (h.setUse c u).floors = h.floors := rfl
@[simp] theorem Hall.setUse_slots (h : Hall) (c : ChannelId) (u : ChanUse) : (h.setUse c u).slots = h.slots := rfl
@[simp] theorem Hall.setUse_channels (h : Hall) (c : ChannelId) (u : ChanUse) :
    (h.setUse c u).channels = h.channels.upd c fun r => { r with use := some u } := rfl
@[simp] theorem Hall.setUse_booths (h : Hall) (c : ChannelId) (u : ChanUse) : (h.setUse c u).booths = h.booths := rfl
@[simp] theorem Hall.setUse_routeQueue (h : Hall) (c : ChannelId) (u : ChanUse) :
    (h.setUse c u).routeQueue = h.routeQueue := rfl
@[simp] theorem Hall.setUse_inFlight (h : Hall) (c : ChannelId) (u : ChanUse) :
    (h.setUse c u).inFlight = h.inFlight := rfl
@[simp] theorem Hall.setUse_hold (h : Hall) (c : ChannelId) (u : ChanUse) : (h.setUse c u).hold = h.hold := rfl
@[simp] theorem Hall.setUse_link (h : Hall) (c : ChannelId) (u : ChanUse) : (h.setUse c u).link = h.link := rfl
@[simp] theorem Hall.setUse_attention (h : Hall) (c : ChannelId) (u : ChanUse) :
    (h.setUse c u).attention = h.attention := rfl

/-! ### h.setPos n p -/

@[simp] theorem Hall.setPos_seats (h : Hall) (n : SeatId) (p : SeatPos) : (h.setPos n p).seats = h.seats.set n p := rfl
@[simp] theorem Hall.setPos_maskDelegate (h : Hall) (n : SeatId) (p : SeatPos) :
    (h.setPos n p).maskDelegate = h.maskDelegate := rfl
@[simp] theorem Hall.setPos_maskChair (h : Hall) (n : SeatId) (p : SeatPos) :
    (h.setPos n p).maskChair = h.maskChair := rfl
@[simp] theorem Hall.setPos_maskDesk (h : Hall) (n : SeatId) (p : SeatPos) : (h.setPos n p).maskDesk = h.maskDesk := rfl
@[simp] theorem Hall.setPos_marks (h : Hall) (n : SeatId) (p : SeatPos) : (h.setPos n p).marks = h.marks := rfl
@[simp] theorem Hall.setPos_cursor (h : Hall) (n : SeatId) (p : SeatPos) : (h.setPos n p).cursor = h.cursor := rfl
@[simp] theorem Hall.setPos_floors (h : Hall) (n : SeatId) (p : SeatPos) : (h.setPos n p).floors = h.floors := rfl
@[simp] theorem Hall.setPos_slots (h : Hall) (n : SeatId) (p : SeatPos) : (h.setPos n p).slots = h.slots := rfl
@[simp] theorem Hall.setPos_channels (h : Hall) (n : SeatId) (p : SeatPos) : (h.setPos n p).channels = h.channels := rfl
@[simp] theorem Hall.setPos_booths (h : Hall) (n : SeatId) (p : SeatPos) : (h.setPos n p).booths = h.booths := rfl
@[simp] theorem Hall.setPos_routeQueue (h : Hall) (n : SeatId) (p : SeatPos) :
    (h.setPos n p).routeQueue = h.routeQueue := rfl
@[simp] theorem Hall.setPos_inFlight (h : Hall) (n : SeatId) (p : SeatPos) : (h.setPos n p).inFlight = h.inFlight := rfl
@[simp] theorem Hall.setPos_hold (h : Hall) (n : SeatId) (p : SeatPos) : (h.setPos n p).hold = h.hold := rfl
@[simp] theorem Hall.setPos_link (h : Hall) (n : SeatId) (p : SeatPos) : (h.setPos n p).link = h.link := rfl
@[simp] theorem Hall.setPos_attention (h : Hall) (n : SeatId) (p : SeatPos) :
    (h.setPos n p).attention = h.attention := rfl

/-! ### p.judge h -/

@[simp] theorem HostPort.judge_phase (p : HostPort) (h : Hall) : (p.judge h).phase = p.phase := rfl
@[simp] theorem HostPort.judge_cs (p : HostPort) (h : Hall) : (p.judge h).cs = p.cs := rfl
@[simp] theorem HostPort.judge_buffer (p : HostPort) (h : Hall) : (p.judge h).buffer = p.buffer := rfl
@[simp] theorem HostPort.judge_ready (p : HostPort) (h : Hall) : (p.judge h).ready = p.ready := rfl
@[simp] theorem HostPort.judge_attn (p : HostPort) (h : Hall) : (p.judge h).attn = h.calls p.mask := rfl
@[simp] theorem HostPort.judge_mask (p : HostPort) (h : Hall) : (p.judge h).mask = p.mask := rfl
@[simp] theorem HostPort.judge_hall (p : HostPort) (h : Hall) : (p.judge h).hall = p.hall := rfl
@[simp] theorem HostPort.judge_readOut (p : HostPort) (h : Hall) : (p.judge h).readOut = p.readOut := rfl
@[simp] theorem HostPort.judge_discards (p : HostPort) (h : Hall) : (p.judge h).discards = p.discards := rfl

/-! ### p.place a -/

@[simp] theorem HostPort.place_phase (p : HostPort) (a : Answer) : (p.place a).phase = .idle := rfl
@[simp] theorem HostPort.place_cs (p : HostPort) (a : Answer) : (p.place a).cs = p.cs := rfl
@[simp] theorem HostPort.place_buffer (p : HostPort) (a : Answer) : (p.place a).buffer = .unread a := rfl
@[simp] theorem HostPort.place_ready (p : HostPort) (a : Answer) : (p.place a).ready = true := rfl
@[simp] theorem HostPort.place_attn (p : HostPort) (a : Answer) : (p.place a).attn = p.attn := rfl
@[simp] theorem HostPort.place_mask (p : HostPort) (a : Answer) : (p.place a).mask = p.mask := rfl
@[simp] theorem HostPort.place_hall (p : HostPort) (a : Answer) : (p.place a).hall = .none := rfl
@[simp] theorem HostPort.place_readOut (p : HostPort) (a : Answer) : (p.place a).readOut = p.readOut := rfl
@[simp] theorem HostPort.place_discards (p : HostPort) (a : Answer) : (p.place a).discards = p.discards := rfl

/-! ### p.execute st -/

@[simp] theorem HostPort.execute_phase (p : HostPort) (st : HallStage) : (p.execute st).phase = .executing := rfl
@[simp] theorem HostPort.execute_cs (p : HostPort) (st : HallStage) : (p.execute st).cs = p.cs := rfl
@[simp] theorem HostPort.execute_buffer (p : HostPort) (st : HallStage) : (p.execute st).buffer = .empty := rfl
@[simp] theorem HostPort.execute_ready (p : HostPort) (st : HallStage) : (p.execute st).ready = false := rfl
@[simp] theorem HostPort.execute_attn (p : HostPort) (st : HallStage) : (p.execute st).attn = p.attn := rfl
@[simp] theorem HostPort.execute_mask (p : HostPort) (st : HallStage) : (p.execute st).mask = p.mask := rfl
@[simp] theorem HostPort.execute_hall (p : HostPort) (st : HallStage) : (p.execute st).hall = st := rfl
@[simp] theorem HostPort.execute_readOut (p : HostPort) (st : HallStage) : (p.execute st).readOut = p.readOut := rfl
@[simp] theorem HostPort.execute_discards (p : HostPort) (st : HallStage) : (p.execute st).discards = p.discards := rfl

/-! ### p.transact n -/

@[simp] theorem HostPort.transact_phase (p : HostPort) (n : Nat) : (p.transact n).phase = p.phase := rfl
@[simp] theorem HostPort.transact_cs (p : HostPort) (n : Nat) : (p.transact n).cs = .released := rfl
@[simp] theorem HostPort.transact_buffer (p : HostPort) (n : Nat) : (p.transact n).buffer = p.buffer := rfl
@[simp] theorem HostPort.transact_ready (p : HostPort) (n : Nat) : (p.transact n).ready = p.ready := rfl
@[simp] theorem HostPort.transact_attn (p : HostPort) (n : Nat) : (p.transact n).attn = p.attn := rfl
@[simp] theorem HostPort.transact_mask (p : HostPort) (n : Nat) : (p.transact n).mask = p.mask := rfl
@[simp] theorem HostPort.transact_hall (p : HostPort) (n : Nat) : (p.transact n).hall = p.hall := rfl
@[simp] theorem HostPort.transact_readOut (p : HostPort) (n : Nat) : (p.transact n).readOut = p.buffer.shifted n := rfl
@[simp] theorem HostPort.transact_discards (p : HostPort) (n : Nat) : (p.transact n).discards = p.discards := rfl

/-! ### p.discard -/

@[simp] theorem HostPort.discard_phase (p : HostPort) : p.discard.phase = p.phase := rfl
@[simp] theorem HostPort.discard_cs (p : HostPort) : p.discard.cs = .released := rfl
@[simp] theorem HostPort.discard_buffer (p : HostPort) : p.discard.buffer = p.buffer := rfl
@[simp] theorem HostPort.discard_ready (p : HostPort) : p.discard.ready = p.ready := rfl
@[simp] theorem HostPort.discard_attn (p : HostPort) : p.discard.attn = p.attn := rfl
@[simp] theorem HostPort.discard_mask (p : HostPort) : p.discard.mask = p.mask := rfl
@[simp] theorem HostPort.discard_hall (p : HostPort) : p.discard.hall = p.hall := rfl
@[simp] theorem HostPort.discard_readOut (p : HostPort) :
    p.discard.readOut = p.buffer.shifted (Config.discardedBytes p.discards + 1) := rfl
@[simp] theorem HostPort.discard_discards (p : HostPort) : p.discard.discards = p.discards + 1 := rfl

/-! ### f.flip -/

@[simp] theorem Floor.flip_state (f : Floor) : (f.flip).state = f.state := rfl
@[simp] theorem Floor.flip_sess (f : Floor) :
    (f.flip).sess = f.sess.map (fun s => { s with current := s.current.other }) := rfl
@[simp] theorem Floor.flip_members (f : Floor) : (f.flip).members = f.members := rfl
@[simp] theorem Floor.flip_home (f : Floor) : (f.flip).home = f.home := rfl
@[simp] theorem Floor.flip_swapPending (f : Floor) : (f.flip).swapPending = false := rfl
@[simp] theorem Floor.flip_holders (f : Floor) : (f.flip).holders = f.holders := rfl
@[simp] theorem Floor.flip_requestHolds (f : Floor) : (f.flip).requestHolds = f.requestHolds := rfl
@[simp] theorem Floor.flip_adopted (f : Floor) : (f.flip).adopted = f.adopted := rfl
@[simp] theorem Floor.flip_speakers (f : Floor) : (f.flip).speakers = f.speakers := rfl
@[simp] theorem Floor.flip_queue (f : Floor) : (f.flip).queue = f.queue := rfl
@[simp] theorem Floor.flip_lastRemoval (f : Floor) : (f.flip).lastRemoval = f.lastRemoval := rfl

/-! ### f.setListen k l -/

@[simp] theorem Floor.setListen_state (f : Floor) (k : ListenSlot) (l : Option Lang) :
    (f.setListen k l).state = f.state := rfl
@[simp] theorem Floor.setListen_sess (f : Floor) (k : ListenSlot) (l : Option Lang) :
    (f.setListen k l).sess = f.sess.map fun s =>
      s.setBank s.current { s.bank s.current with listen := (s.bank s.current).listen.set k l } := rfl
@[simp] theorem Floor.setListen_members (f : Floor) (k : ListenSlot) (l : Option Lang) :
    (f.setListen k l).members = f.members := rfl
@[simp] theorem Floor.setListen_home (f : Floor) (k : ListenSlot) (l : Option Lang) :
    (f.setListen k l).home = f.home := rfl
@[simp] theorem Floor.setListen_swapPending (f : Floor) (k : ListenSlot) (l : Option Lang) :
    (f.setListen k l).swapPending = f.swapPending := rfl
@[simp] theorem Floor.setListen_holders (f : Floor) (k : ListenSlot) (l : Option Lang) :
    (f.setListen k l).holders = f.holders := rfl
@[simp] theorem Floor.setListen_requestHolds (f : Floor) (k : ListenSlot) (l : Option Lang) :
    (f.setListen k l).requestHolds = f.requestHolds := rfl
@[simp] theorem Floor.setListen_adopted (f : Floor) (k : ListenSlot) (l : Option Lang) :
    (f.setListen k l).adopted = f.adopted := rfl
@[simp] theorem Floor.setListen_speakers (f : Floor) (k : ListenSlot) (l : Option Lang) :
    (f.setListen k l).speakers = f.speakers := rfl
@[simp] theorem Floor.setListen_queue (f : Floor) (k : ListenSlot) (l : Option Lang) :
    (f.setListen k l).queue = f.queue := rfl
@[simp] theorem Floor.setListen_lastRemoval (f : Floor) (k : ListenSlot) (l : Option Lang) :
    (f.setListen k l).lastRemoval = f.lastRemoval := rfl

end Sys2Proof
end

