-- ==== Sys2Proof/Laws/Steady.lean ====
section
/-! SUPPORT. What every operation of the floor blocks leaves as it was: the settings, the core of every seat record, and every
change mark and attention item already standing. One lemma per operation. -/

namespace Sys2Proof

/-- A fold whose every step stands in a preorder to its start. -/
theorem foldl_rel {α β : Type} {R : α → α → Prop} (refl : ∀ a, R a a) (trans : ∀ a b c, R a b → R b c → R a c)
    {f : α → β → α} (step : ∀ a x, R a (f a x)) : ∀ (l : List β) (a : α), R a (l.foldl f a)
  | [], a => refl a
  | x :: xs, a => trans _ _ _ (step a x) (foldl_rel refl trans step xs (f a x))

/-- A fold whose every step keeps a part keeps it. -/
theorem foldl_keeps {α β γ : Type} {part : α → γ} {f : α → β → α} (step : ∀ a x, part (f a x) = part a) (l : List β)
    (a : α) : part (l.foldl f a) = part a :=
  foldl_rel (R := fun a b => part b = part a) (fun _ => rfl) (fun _ _ _ h k => k.trans h) step l a

/-- A seat record without what the floor blocks write into it: tuned channel, indicator, the values of the desk fields, last
turn, last refusal and flash. -/
def Seat.core (r : Seat) : Seat :=
  { r with
    tuned := none, indicator := .off, desk := r.desk.map fun _ => ⟨false, .a, .floor⟩
    lastTurn := none, lastRefusal := none, flash := none }

def SeatPos.core : SeatPos → SeatPos
  | .held r => .held r.core
  | x => x

/-- The cores of the Seat Table. -/
def Hall.cores (h : Hall) : Tbl SeatPos 256 :=
  h.seats.imap fun _ p => p.core

/-- The settings of the hall: masks, roster cursor, HOLD. -/
def Hall.settings (h : Hall) : BitVec 2 × BitVec 4 × BitVec 5 × Nat × Bool :=
  (h.maskDelegate, h.maskChair, h.maskDesk, h.cursor, h.hold)

/-- What every operation of the floor blocks keeps. -/
structure Steady (h g : Hall) : Prop where
  settings : g.settings = h.settings
  cores : g.cores = h.cores
  marks : ∀ n, h.marks.get n = true → g.marks.get n = true
  attention : ∀ i, h.attention.get i = true → g.attention.get i = true

namespace Steady

theorem refl (h : Hall) : Steady h h :=
  ⟨rfl, rfl, fun _ x => x, fun _ x => x⟩

theorem trans {a b c : Hall} (x : Steady a b) (y : Steady b c) : Steady a c :=
  ⟨y.settings.trans x.settings, y.cores.trans x.cores, fun n k => y.marks n (x.marks n k),
    fun i k => y.attention i (x.attention i k)⟩

theorem foldl {β : Type} {f : Hall → β → Hall} (step : ∀ h x, Steady h (f h x)) (l : List β) (h : Hall) :
    Steady h (l.foldl f h) :=
  foldl_rel Steady.refl (fun _ _ _ => trans) step l h

theorem ite {h a b : Hall} {c : Prop} [Decidable c] (x : Steady h a) (y : Steady h b) :
    Steady h (if c then a else b) := by
  split
  · exact x
  · exact y

/-- A record update of parts that are none of the kept ones. -/
theorem same {h g : Hall} (settings : g.settings = h.settings) (seats : g.seats = h.seats) (marks : g.marks = h.marks)
    (attention : g.attention = h.attention) : Steady h g :=
  ⟨settings, by unfold Hall.cores; rw [seats], fun n k => by rw [marks]; exact k,
    fun i k => by rw [attention]; exact k⟩

theorem stands {h g : Hall} (x : Steady h g) {i : AttnItem} (k : h.stands i = true) : g.stands i = true :=
  x.attention i.index k

/-- What a seat record keeps through a steady operation. -/
theorem seat {h g : Hall} (x : Steady h g) {n : SeatId} {r : Seat} (k : h.seat? n = some r) :
    ∃ q, g.seat? n = some q ∧ q.core = r.core := by
  have c : (g.seats.get n).core = (h.seats.get n).core := by
    have := congrArg (fun t => t.get n) x.cores
    simpa [Hall.cores] using this
  unfold Hall.seat? at *
  cases hp : h.seats.get n <;> cases gp : g.seats.get n <;> simp_all [SeatPos.core]

theorem free {h g : Hall} (x : Steady h g) {n : SeatId} (k : h.seats.get n = .free) : g.seats.get n = .free := by
  have c : (g.seats.get n).core = (h.seats.get n).core := by
    have := congrArg (fun t => t.get n) x.cores
    simpa [Hall.cores] using this
  cases gp : g.seats.get n <;> simp_all [SeatPos.core]

/-! ## Shared operations -/

theorem updFloor (h : Hall) (f : FloorId) (k : Floor → Floor) : Steady h (h.updFloor f k) := same rfl rfl rfl rfl

theorem setOutput (h : Hall) (b : BoothId) (o : Out) (x : Output) : Steady h (h.setOutput b o x) := same rfl rfl rfl rfl

theorem raise (h : Hall) (i : AttnItem) : Steady h (h.raise i) :=
  ⟨rfl, rfl, fun _ k => k, fun j k => by simp [Tbl.get_set, k]⟩

theorem raiseIf (h : Hall) (b : Bool) (i : AttnItem) : Steady h (h.raiseIf b i) := by
  unfold Hall.raiseIf
  split
  · exact raise h i
  · exact refl h

theorem mark (h : Hall) (n : SeatId) : Steady h (h.mark n) := by
  refine trans (raiseIf h (!h.marks.some? id) .rosterChanged) ⟨rfl, rfl, fun m k => ?_, fun _ k => k⟩
  have : (h.raiseIf (!h.marks.some? id) .rosterChanged).marks = h.marks := by
    unfold Hall.raiseIf
    split <;> rfl
  rw [this] at k
  simp [Hall.mark, Tbl.get_set, k]

theorem markAll (h : Hall) (c : Tbl Bool 256) : Steady h (h.markAll c) := by
  refine trans (raiseIf h (c.some? id && !h.marks.some? id) .rosterChanged) ⟨rfl, rfl, fun m k => ?_, fun _ k => k⟩
  have : (h.raiseIf (c.some? id && !h.marks.some? id) .rosterChanged).marks = h.marks := by
    unfold Hall.raiseIf
    split <;> rfl
  rw [this] at k
  simp [Hall.markAll, k]

theorem updSeat (h : Hall) (n : SeatId) (f : Seat → Seat) (core : ∀ r, h.seat? n = some r → (f r).core = r.core) :
    Steady h (h.updSeat n f) := by
  unfold Hall.updSeat
  unfold Hall.seat? at core
  cases hp : h.seats.get n with
  | held r =>
    refine ⟨rfl, Tbl.ext_get fun i => ?_, fun _ k => k, fun _ k => k⟩
    by_cases e : n = i
    · subst e
      simp [Hall.cores, hp, SeatPos.core, core r (by simp [hp])]
    · simp [Hall.cores, Tbl.get_set, e]
  | free => exact refl h
  | reserved => exact refl h

theorem retune (h : Hall) (p : SeatId → Seat → Bool) : Steady h (h.retune p) := by
  unfold Hall.retune
  refine trans (markAll h _) ⟨rfl, Tbl.ext_get fun i => ?_, fun _ k => k, fun _ k => k⟩
  have : ∀ c, (h.markAll c).seats = h.seats := by
    intro c
    simp only [Hall.markAll, Hall.raiseIf]
    split <;> rfl
  simp only [Hall.cores, this, Tbl.get_imap]
  cases h.seats.get i with
  | held r =>
    simp only [Hall.retuned]
    split <;> rfl
  | free => rfl
  | reserved => rfl

theorem retuneSeat (h : Hall) (n : SeatId) : Steady h (h.retuneSeat n) := retune h _

theorem membersReport (h : Hall) (s : SecSet) : Steady h (h.membersReport s) := retune h _

theorem listenReport (h : Hall) (f : FloorId) : Steady h (h.listenReport f) := retune h _

theorem retuneDesks (h : Hall) (b : BoothId) : Steady h (h.retuneDesks b) := retune h _

theorem recompose (h : Hall) (n : SeatId) : Steady h (h.recompose n) := updSeat h n _ fun _ _ => rfl

theorem recomposeAll (h : Hall) (ns : List SeatId) : Steady h (h.recomposeAll ns) := foldl recompose ns h

theorem recomposeQueue (h : Hall) (f : FloorId) : Steady h (h.recomposeQueue f) := recomposeAll h _

theorem recomposeFloor (h : Hall) (f : FloorId) : Steady h (h.recomposeFloor f) :=
  (recomposeAll h _).trans (recomposeQueue _ f)

theorem recomposeDesks (h : Hall) (b : BoothId) : Steady h (h.recomposeDesks b) := recomposeAll h _

theorem startFrame (h : Hall) : Steady h h.startFrame := by
  unfold Hall.startFrame
  split
  · exact same rfl rfl rfl rfl
  · exact refl h

theorem route (h : Hall) (u : RouteUpdate) : Steady h (h.route u) :=
  trans (b := { h with routeQueue := joinRoute u h.routeQueue }) (same rfl rfl rfl rfl) (startFrame _)

theorem routeOf {h g : Hall} (k : Steady h g) (u : RouteUpdate) : Steady h (g.route u) := k.trans (route g u)

theorem setSlot (h : Hall) (n : SlotId) (v : Option HeldSlot) : Steady h (h.setSlot n v) :=
  trans (b := { h with slots := h.slots.set n v }) (same rfl rfl rfl rfl) (route _ _)

end Steady

end Sys2Proof
end

