-- ==== Sys2Proof/Laws/SteadyFloors.lean ====
section
/-! SUPPORT. The channel, speech, bank, discussion, booth and folding operations are steady. -/

namespace Sys2Proof

namespace Steady

/-! ## Channel Allocator -/

theorem setDesk (h : Hall) (n : SeatId) (d : DeskFields) : Steady h (h.setDesk n d) := by
  unfold Hall.setDesk
  split
  next d0 hd =>
    split
    · exact refl h
    · refine (((updSeat h n _ fun r hr => ?_).trans (mark _ n)).trans (retuneSeat _ n)).trans (recompose _ n)
      have : r.desk = some d0 := by simpa [Hall.desk?, hr] using hd
      simp [Seat.core, this]
  · exact refl h

theorem recheckDesk (b : BoothId) (h : Hall) (n : SeatId) : Steady h (h.recheckDesk b n) := by
  unfold Hall.recheckDesk
  split
  · split
    · split
      · exact refl h
      · exact setDesk h n _
    · exact refl h
  · exact refl h

theorem relayRecheck (h : Hall) : Steady h h.relayRecheck :=
  foldl (fun g b => foldl (recheckDesk b) _ g) _ h

theorem mapReport (h : Hall) (f : FloorId) : Steady h (h.mapReport f) := by
  unfold Hall.mapReport
  split
  · exact (retune h _).trans (relayRecheck _)
  · exact refl h

theorem mapReportOf (h : Hall) (f : Option FloorId) : Steady h (h.mapReportOf f) := by
  cases f with
  | none => exact refl h
  | some f => exact mapReport h f

theorem setContent (h : Hall) (c : ChannelId) (x : Content) : Steady h (h.setContent c x) := by
  unfold Hall.setContent
  split
  · refine routeOf ?_ _
    exact same rfl rfl rfl rfl
  · exact refl h

theorem fillChannel (h : Hall) (c : ChannelId) (f : FloorId) (o : ChanOrigin) (l : Lang) :
    Steady h (h.fillChannel c f o l) := by
  unfold Hall.fillChannel
  refine routeOf ?_ _
  exact same rfl rfl rfl rfl

theorem allocate {h g : Hall} {want : Option ChannelId} {f : FloorId} {o : ChanOrigin} {l : Lang} {c : ChannelId}
    (k : h.allocate want f o l = some (g, c)) : Steady h g := by
  unfold Hall.allocate at k
  cases hc : h.freeChannel want with
  | none => simp [hc] at k
  | some d =>
    simp only [hc, Option.map_some, Option.some.injEq, Prod.mk.injEq] at k
    rw [← k.1]
    exact (fillChannel h d f o l).trans (mapReportOf _ _)

theorem freeing (h : Hall) (c : ChannelId) : Steady h (h.freeing c) := by
  unfold Hall.freeing
  split
  · refine trans (routeOf ?_ _) (mapReportOf _ _)
    exact same rfl rfl rfl rfl
  · exact refl h

theorem setUse (h : Hall) (c : ChannelId) (u : ChanUse) : Steady h (h.setUse c u) := same rfl rfl rfl rfl

theorem lend (h : Hall) (c : ChannelId) (x : FloorId) : Steady h (h.lend c x) := by
  unfold Hall.lend
  split
  · split
    · exact (setUse h c _).trans (mapReport _ _)
    · exact refl h
  · exact refl h

theorem reserveChannel (h : Hall) (c : ChannelId) : Steady h (h.reserveChannel c) := by
  unfold Hall.reserveChannel
  split
  · split
    · exact refl h
    · exact ((setUse h c _).trans (setContent _ c _)).trans (mapReportOf _ _)
  · exact refl h

theorem giveBack (h : Hall) (c : ChannelId) : Steady h (h.giveBack c) := by
  unfold Hall.giveBack
  split
  · split
    · exact refl h
    · exact ((setUse h c _).trans (mapReportOf _ _)).trans (mapReport _ _)
  · exact refl h

theorem relend (h : Hall) (c : ChannelId) (z : FloorId) : Steady h (h.relend c z) := by
  unfold Hall.relend
  split
  · split
    · exact ((setUse h c _).trans (mapReport _ _)).trans (mapReport _ _)
    · exact refl h
  · exact refl h

/-! ## Speech -/

theorem setGate (h : Hall) (n : SlotId) (b : Bool) : Steady h (h.setGate n b) := by
  unfold Hall.setGate
  split
  · split
    · exact refl h
    · exact setSlot h n _
  · exact refl h

theorem setMutes (h : Hall) (f : FloorId) (e : Speaker) (p l : Bool) : Steady h (h.setMutes f e p l) := by
  unfold Hall.setMutes
  split
  · exact refl h
  · exact (((updFloor h f _).trans (setGate _ _ _)).trans (raise _ _)).trans (recompose _ _)

theorem remute (h : Hall) (f : FloorId) : Steady h (h.remute f) :=
  foldl (fun g _ => setMutes g f _ _ _) _ h

theorem queueReport (h : Hall) (f : FloorId) : Steady h (h.queueReport f) :=
  (raise h _).trans (recomposeQueue _ f)

theorem unqueue (h : Hall) (f : FloorId) (n : SeatId) : Steady h (h.unqueue f n) := updFloor h f _

theorem removeEntry (h : Hall) (f : FloorId) (n : SeatId) (c : RemovalCause) : Steady h (h.removeEntry f n c) :=
  (((unqueue h f n).trans (updFloor _ f _)).trans (queueReport _ f)).trans (recompose _ n)

theorem removeEntries (h : Hall) (f : FloorId) (ns : List SeatId) (c : RemovalCause) :
    Steady h (h.removeEntries f ns c) :=
  foldl (fun g n => removeEntry g f n c) ns h

theorem joinQueue (h : Hall) (f : FloorId) (k : Nat) (e : Waiting) : Steady h (h.joinQueue f k e) :=
  ((updFloor h f _).trans (queueReport _ f)).trans (recompose _ _)

theorem trimQueue (h : Hall) (f : FloorId) (c : RemovalCause) : Steady h (h.trimQueue f c) := removeEntries h f _ c

theorem grant (now : Clock) (h : Hall) (f : FloorId) (n : SeatId) (k : SlotId) : Steady h (h.grant now f n k) := by
  unfold Hall.grant
  exact (((((unqueue h f n).trans (updFloor _ f _)).trans (setSlot _ k _)).trans (raise _ _)).trans
    (raiseIf _ _ _)).trans ((recompose _ n).trans (recomposeQueue _ f))

theorem writeLastTurn (h : Hall) (n : SeatId) (t : LastTurn) : Steady h (h.writeLastTurn n t) := by
  unfold Hall.writeLastTurn
  split
  · refine trans ?_ (mark _ n)
    exact updSeat h n _ fun _ _ => rfl
  · exact refl h

theorem releaseSlot (h : Hall) (k : SlotId) (b : Bool) : Steady h (h.releaseSlot k b) := by
  unfold Hall.releaseSlot
  split
  · exact route h _
  · exact setSlot h k _

theorem closeTurn (now : Clock) (h : Hall) (f : FloorId) (n : SeatId) (c : TurnCause) (b : Bool) :
    Steady h (h.closeTurn now f n c b) := by
  unfold Hall.closeTurn
  split
  · exact ((((updFloor h f _).trans (writeLastTurn _ n _)).trans (releaseSlot _ _ b)).trans (raise _ _)).trans
      (recompose _ n)
  · exact refl h

theorem closeTurns (now : Clock) (h : Hall) (f : FloorId) (ns : List SeatId) (c : TurnCause) :
    Steady h (h.closeTurns now f ns c) :=
  foldl (fun g n => closeTurn now g f n c false) ns h

theorem closeExcessOne (now : Clock) (f : FloorId) (c : TurnCause) (h : Hall) (e : Speaker) :
    Steady h (h.closeExcessOne now f c e) := by
  unfold Hall.closeExcessOne
  simp only []
  split
  · exact (closeTurn now h f _ c false).trans (joinQueue _ f 0 _)
  · exact closeTurn now h f _ c false

theorem closeExcess (now : Clock) (h : Hall) (f : FloorId) (c : TurnCause) : Steady h (h.closeExcess now f c) :=
  foldl (closeExcessOne now f c) _ h

theorem handOut {now : Clock} {h g : Hall} (k : h.handOut now = some g) : Steady h g := by
  unfold Hall.handOut at k
  split at k
  next slot f _ _ =>
    cases he : (h.floor f).firstReachable with
    | none => simp [he] at k
    | some e =>
      simp only [he, Option.map_some, Option.some.injEq] at k
      rw [← k]
      exact grant now h f _ _
  · cases k

theorem handOuts (now : Clock) : ∀ (k : Nat) (h : Hall), Steady h (h.handOuts now k)
  | 0, h => refl h
  | k + 1, h => by
    unfold Hall.handOuts
    split
    next g hg => exact (handOut hg).trans (handOuts now k g)
    · exact refl h

theorem arbitrate (now : Clock) (h : Hall) : Steady h (h.arbitrate now) := handOuts now 16 h

/-! ## Banks -/

theorem adoptionPassOver (h : Hall) (f : FloorId) (ys : List FloorId) : Steady h (h.adoptionPassOver f ys) := by
  unfold Hall.adoptionPassOver
  simp only []
  split
  · exact ((updFloor h f _).trans (raiseIf _ _ _)).trans (listenReport _ f)
  · exact (updFloor h f _).trans (raiseIf _ _ _)

theorem adoptionPass (h : Hall) (f : FloorId) : Steady h (h.adoptionPass f) := adoptionPassOver h f _

theorem swapListen (h : Hall) (f : FloorId) : Steady h (h.swapListen f) := by
  unfold Hall.swapListen
  split
  · split
    · exact listenReport h f
    · exact (((updFloor h f _).trans (adoptionPass _ f)).trans (raiseIf _ _ _)).trans (listenReport _ f)
  · exact refl h

theorem requireBadges (now : Clock) (h : Hall) (f : FloorId) : Steady h (h.requireBadges now f) := by
  unfold Hall.requireBadges
  split
  · exact (closeTurns now h f _ _).trans (removeEntries _ f _ _)
  · exact refl h

theorem completeSwap (now : Clock) (h : Hall) (f : FloorId) : Steady h (h.completeSwap now f) := by
  unfold Hall.completeSwap
  exact (((((updFloor h f _).trans (closeExcess now _ f _)).trans (requireBadges now _ f)).trans
    (trimQueue _ f _)).trans (remute _ f)).trans (swapListen _ f)

theorem quiet (now : Clock) (h : Hall) (f : FloorId) : Steady h (h.quiet now f) := by
  unfold Hall.quiet
  split
  · exact (completeSwap now h f).trans (raise _ _)
  · exact refl h

theorem endTurn (now : Clock) (h : Hall) (f : FloorId) (n : SeatId) (c : TurnCause) :
    Steady h (h.endTurn now f n c) := by
  unfold Hall.endTurn
  simp only []
  split
  · exact (closeTurn now h f n c false).trans (quiet now _ f)
  · exact closeTurn now h f n c false

theorem passTurn (now : Clock) (h : Hall) (f : FloorId) (n : SeatId) (c : TurnCause) :
    Steady h (h.passTurn now f n c) := by
  unfold Hall.passTurn
  split
  · exact (closeTurn now h f _ c true).trans (grant now _ f n _)
  · exact refl h

theorem endOldest (now : Clock) (h : Hall) (f : FloorId) (c : TurnCause) : Steady h (h.endOldest now f c) := by
  unfold Hall.endOldest
  split
  · exact endTurn now h f _ c
  · exact refl h

/-! ## Discussion -/

theorem priorityClose (now : Clock) (h : Hall) (f : FloorId) : Steady h (h.priorityClose now f) :=
  foldl (fun g n => endTurn now g f n _) _ h

theorem priorityAct (now : Clock) (h : Hall) (f : FloorId) : Steady h (h.priorityAct now f) := by
  unfold Hall.priorityAct
  split
  · exact remute h f
  · exact priorityClose now h f
  · exact (priorityClose now h f).trans (removeEntries _ f _ _)

theorem priorityDown (now : Clock) (h : Hall) (f : FloorId) (n : SeatId) : Steady h (h.priorityDown now f n) :=
  (updFloor h f _).trans (priorityAct now _ f)

theorem liftIfEmpty (h : Hall) (f : FloorId) : Steady h (h.liftIfEmpty f) := by
  unfold Hall.liftIfEmpty
  split
  · exact refl h
  · exact remute h f

theorem leaveHolder (n : SeatId) (h : Hall) (f : FloorId) : Steady h (h.leaveHolder n f) := by
  unfold Hall.leaveHolder
  split
  · exact (updFloor h f _).trans (liftIfEmpty _ f)
  · exact refl h

theorem leaveHolders (h : Hall) (n : SeatId) : Steady h (h.leaveHolders n) := foldl (leaveHolder n) _ h

theorem withdraw {now : Clock} {h g : Hall} {n : SeatId} (k : h.withdraw now n = some g) : Steady h g := by
  unfold Hall.withdraw at k
  split at k
  · rw [← Option.some.inj k]
    exact endTurn now h _ n _
  · rw [← Option.some.inj k]
    exact removeEntry h _ n _
  · cases k

theorem pressQueue (now : Clock) (h : Hall) (f : FloorId) (n : SeatId) : Steady h (h.pressQueue now f n).hall := by
  unfold Hall.pressQueue
  split
  · exact refl h
  · exact joinQueue h f _ _

theorem micOpen (now : Clock) (h : Hall) (f : FloorId) (n : SeatId) : Steady h (h.micOpen now f n).hall := by
  unfold Hall.micOpen
  simp only []
  repeat' split
  all_goals try simp only [taken, turnedDown]
  all_goals first | with_reducible exact refl h | with_reducible exact grant now h f n _ | with_reducible exact pressQueue now h f n

theorem micRequest (now : Clock) (h : Hall) (f : FloorId) (n : SeatId) : Steady h (h.micRequest now f n).hall := by
  unfold Hall.micRequest
  split
  · exact pressQueue now h f n
  · exact refl h

theorem micOverride (now : Clock) (h : Hall) (f : FloorId) (n : SeatId) : Steady h (h.micOverride now f n).hall := by
  unfold Hall.micOverride
  simp only []
  repeat' split
  all_goals try simp only [taken, turnedDown]
  all_goals first | with_reducible exact refl h | with_reducible exact grant now h f n _ | with_reducible exact passTurn now h f n _

theorem micDelegate (now : Clock) (h : Hall) (f : FloorId) (n : SeatId) : Steady h (h.micDelegate now f n).hall := by
  unfold Hall.micDelegate
  split
  · exact micOpen now h f n
  · exact micRequest now h f n
  · exact micOverride now h f n
  · exact refl h

theorem micChair (now : Clock) (h : Hall) (f : FloorId) (n : SeatId) : Steady h (h.micChair now f n).hall := by
  unfold Hall.micChair
  split
  · exact grant now h f n _
  · exact refl h

theorem mic (now : Clock) (h : Hall) (f : FloorId) (n : SeatId) (r : Role) : Steady h (h.mic now f n r).hall := by
  unfold Hall.mic
  split
  next g hg => exact withdraw hg
  · split
    · exact micChair now h f n
    · exact micDelegate now h f n

theorem cancel (now : Clock) (h : Hall) (n : SeatId) : Steady h (h.cancel now n).hall := by
  unfold Hall.cancel
  cases hw : h.withdraw now n with
  | none => exact refl h
  | some g => exact withdraw hw

theorem nextKey (now : Clock) (h : Hall) (f : FloorId) : Steady h (h.nextKey now f).hall := by
  unfold Hall.nextKey
  simp only []
  repeat' split
  all_goals try simp only [taken, turnedDown]
  all_goals first
    | with_reducible exact refl h
    | with_reducible exact grant now h f _ _
    | with_reducible exact passTurn now h f _ _
    | with_reducible exact endOldest now h f _

theorem setLinkMute (h : Hall) (n : SeatId) (b : Bool) : Steady h (h.setLinkMute n b) := by
  unfold Hall.setLinkMute
  split
  · exact (setMutes h _ _ _ _).trans (raise _ _)
  · exact refl h

theorem setUnreachable (h : Hall) (n : SeatId) (b : Bool) : Steady h (h.setUnreachable n b) := by
  unfold Hall.setUnreachable
  split
  · exact (updFloor h _ _).trans (queueReport _ _)
  · exact refl h

theorem speechLink (now : Clock) (h : Hall) (n : SeatId) (b : Bool) : Steady h (h.speechLink now n b) := by
  unfold Hall.speechLink
  split
  · exact ((setLinkMute h n b).trans (setUnreachable _ n b)).trans (arbitrate now _)
  · exact refl h

theorem endRoles (now : Clock) (h : Hall) (n : SeatId) (t : TurnCause) (r : RemovalCause) :
    Steady h (h.endRoles now n t r) := by
  unfold Hall.endRoles
  split
  · exact endTurn now h _ n _
  · exact removeEntry h _ n _
  · exact refl h

theorem speechGone (now : Clock) (h : Hall) (n : SeatId) (t : TurnCause) (r : RemovalCause) :
    Steady h (h.speechGone now n t r) :=
  ((endRoles now h n t r).trans (leaveHolders _ n)).trans (arbitrate now _)

theorem badgeRemoved (now : Clock) (h : Hall) (n : SeatId) : Steady h (h.badgeRemoved now n) := by
  unfold Hall.badgeRemoved
  split
  · split
    · exact (endRoles now h n _ _).trans (arbitrate now _)
    · exact refl h
  · exact refl h

/-! ## Booths -/

theorem setOutState (h : Hall) (b : BoothId) (o : Out) (st : OutState) : Steady h (h.setOutState b o st) :=
  setOutput h b o _

theorem outContent (h : Hall) (b : BoothId) (o : Out) (x : Content) : Steady h (h.outContent b o x) := by
  unfold Hall.outContent
  split
  · exact setContent h _ x
  · exact refl h

theorem setLastRelease (h : Hall) (b : BoothId) (o : Out) (n : SeatId) (c : ReleaseCause) :
    Steady h (h.setLastRelease b o n c) :=
  setOutput h b o _

theorem mixContent (h : Hall) (b : BoothId) (o : Out) : Steady h (h.mixContent b o) := by
  unfold Hall.mixContent
  split
  · exact outContent h b o _
  · exact refl h

theorem enterFallback (h : Hall) (b : BoothId) (o : Out) : Steady h (h.enterFallback b o) :=
  ((setOutState h b o _).trans (mixContent _ b o)).trans (raise _ _)

theorem enterSilent (h : Hall) (b : BoothId) (o : Out) : Steady h (h.enterSilent b o) := by
  unfold Hall.enterSilent
  simp only []
  split
  · exact ((setOutState h b o _).trans (outContent _ b o _)).trans (enterFallback _ b o)
  · exact (setOutState h b o _).trans (outContent _ b o _)

theorem setDeskLive (h : Hall) (n : SeatId) (b : Bool) : Steady h (h.setDeskLive n b) := by
  unfold Hall.setDeskLive
  split
  · exact setDesk h n _
  · exact refl h

theorem takeOff (h : Hall) (b : BoothId) (o : Out) (c : ReleaseCause) : Steady h (h.takeOff b o c) := by
  unfold Hall.takeOff
  split
  · exact (setDeskLive h _ false).trans (setLastRelease _ b o _ c)
  · exact refl h

theorem deskLeaves (h : Hall) (n : SeatId) (c : ReleaseCause) : Steady h (h.deskLeaves n c) := by
  unfold Hall.deskLeaves
  split
  · exact ((setDeskLive h n false).trans (setLastRelease _ _ _ n c)).trans (enterSilent _ _ _)
  · exact refl h

theorem clearOutput (h : Hall) (b : BoothId) (o : Out) (c : ReleaseCause) : Steady h (h.clearOutput b o c) := by
  unfold Hall.clearOutput
  split
  · exact (((takeOff h b o c).trans (setOutput _ b o _)).trans (freeing _ _)).trans (recomposeDesks _ b)
  · exact refl h

theorem releaseBooth (h : Hall) (b : BoothId) : Steady h (h.releaseBooth b) := by
  unfold Hall.releaseBooth
  refine trans ((clearOutput h b .a .boothReleased).trans (clearOutput _ b .b .boothReleased)) ?_
  refine trans (trans ?_ (foldl (fun g n => ?_) _ _)) (retuneDesks _ b)
  · exact same rfl rfl rfl rfl
  · split
    · exact setDesk g n _
    · exact refl g

theorem holdOutput (h : Hall) (b : BoothId) (o : Out) : Steady h (h.holdOutput b o) := by
  unfold Hall.holdOutput
  split
  · exact ((((takeOff h b o _).trans (setOutState _ b o _)).trans (reserveChannel _ _)).trans (relayRecheck _)).trans
      (recomposeDesks _ b)
  · exact refl h

theorem restoreOutput (h : Hall) (b : BoothId) (o : Out) : Steady h (h.restoreOutput b o) :=
  (enterSilent h b o).trans (recomposeDesks _ b)

theorem followServing (h : Hall) (b : BoothId) : Steady h (h.followServing b) := by
  refine foldl (fun g o => ?_) _ h
  split
  · split
    · exact mixContent g b o
    · exact refl g
  · exact refl g

theorem goLive (h : Hall) (b : BoothId) (o : Out) (n : SeatId) : Steady h (h.goLive b o n) :=
  ((setDeskLive h n true).trans (setOutState _ b o _)).trans (outContent _ b o _)

theorem goLiveOver (h : Hall) (b : BoothId) (o : Out) (n : SeatId) : Steady h (h.goLiveOver b o n) :=
  (takeOff h b o _).trans (goLive _ b o n)

theorem deskOn (h : Hall) (n : SeatId) (d : DeskFields) : Steady h (h.deskOn n d).hall := by
  unfold Hall.deskOn
  repeat' split
  all_goals try simp only [taken, turnedDown]
  all_goals first | with_reducible exact refl h | with_reducible exact goLiveOver h _ _ n

theorem selectOut (h : Hall) (n : SeatId) (d : DeskFields) (o : Out) : Steady h (h.selectOut n d o).hall := by
  unfold Hall.selectOut
  repeat' split
  all_goals try simp only [taken, turnedDown]
  all_goals first
    | with_reducible exact refl h
    | with_reducible exact setDesk h n _
    | with_reducible exact (((setLastRelease h _ _ n _).trans (enterSilent _ _ _)).trans (setDesk _ n _)).trans (goLiveOver _ _ o n)

theorem relayKey (h : Hall) (n : SeatId) (d : DeskFields) (s : Option RelaySrc) : Steady h (h.relayKey n d s).hall := by
  unfold Hall.relayKey
  repeat' split
  all_goals try simp only [taken, turnedDown]
  all_goals first | with_reducible exact refl h | with_reducible exact setDesk h n _

theorem deskLinkLost (h : Hall) (n : SeatId) : Steady h (h.deskLinkLost n) := by
  unfold Hall.deskLinkLost
  split
  · exact (setOutState h _ _ _).trans (outContent _ _ _ _)
  · exact refl h

theorem deskLinkRegained (h : Hall) (n : SeatId) : Steady h (h.deskLinkRegained n) := by
  unfold Hall.deskLinkRegained
  repeat' split
  all_goals first | with_reducible exact refl h | with_reducible exact (setOutState h _ _ _).trans (outContent _ _ _ _)

theorem deskRetired (h : Hall) (n : SeatId) (c : ReleaseCause) : Steady h (h.deskRetired n c) := by
  unfold Hall.deskRetired
  split
  · exact (deskLeaves h n c).trans (same rfl rfl rfl rfl)
  · exact refl h

/-! ## Folding -/

theorem annex (h : Hall) (x : FloorId) (s : SecSet) : Steady h (h.annex x s) :=
  ((updFloor h x _).trans (membersReport _ _)).trans (raise _ _)

theorem removeAdopted (h : Hall) (x : FloorId) (p : FloorId → Bool) : Steady h (h.removeAdopted x p) := by
  unfold Hall.removeAdopted
  simp only []
  split
  · exact (updFloor h x _).trans (listenReport _ x)
  · exact updFloor h x _

theorem endAdopted (h : Hall) (x : FloorId) : Steady h (h.endAdopted x) := updFloor h x _

theorem moveSlots (h : Hall) (x : FloorId) (es : List Speaker) : Steady h (h.moveSlots x es) := by
  refine foldl (fun g e => ?_) es h
  split
  · exact setSlot g _ _
  · exact refl g

theorem absorbSpeakers (now : Clock) (h : Hall) (x : FloorId) (es : List Speaker) :
    Steady h (h.absorbSpeakers now x es) := by
  have base := ((((updFloor h x fun f => { f with speakers := f.speakers ++ es }).trans (moveSlots _ x es)).trans
    (raiseIf _ (!es.isEmpty) (.speakersChanged x))).trans (closeExcess now _ x .mergeExcess))
  unfold Hall.absorbSpeakers
  simp only []
  split
  · exact (base.trans (closeTurns now _ x _ _)).trans (removeEntries _ x _ _)
  · exact base

theorem absorbQueue (h : Hall) (x : FloorId) (es : List Waiting) : Steady h (h.absorbQueue x es) := by
  have base := (updFloor h x fun f => { f with queue := f.queue ++ es }).trans
    (raiseIf _ (!es.isEmpty) (.queueChanged x))
  unfold Hall.absorbQueue
  simp only []
  split
  · exact (base.trans (removeEntries _ x _ _)).trans (trimQueue _ x _)
  · exact base.trans (trimQueue _ x _)

theorem setCarriers (h : Hall) (fs : List FloorId) (x : FloorId) : Steady h (h.setCarriers fs x) :=
  foldl (fun g z => updFloor g z _) fs h

theorem foldRelation (h : Hall) (x y : FloorId) (fs : List FloorId) : Steady h (h.foldRelation x y fs) :=
  (((updFloor h y _).trans (setCarriers _ fs x)).trans (updFloor _ x _)).trans (membersReport _ _)

theorem foldSpeakers (now : Clock) (h : Hall) (x y : FloorId) : Steady h (h.foldSpeakers now x y) :=
  ((updFloor h y _).trans (raiseIf _ _ _)).trans (absorbSpeakers now _ x _)

theorem foldQueue (h : Hall) (x y : FloorId) : Steady h (h.foldQueue x y) :=
  ((updFloor h y _).trans (raiseIf _ _ _)).trans (absorbQueue _ x _)

theorem foldHolders (h : Hall) (x y : FloorId) : Steady h (h.foldHolders x y) :=
  ((updFloor h x _).trans (updFloor _ y _)).trans (remute _ x)

theorem mixOriginal (h : Hall) (z x : FloorId) (move : Hall → ChannelId → Hall) (k : ∀ g c, Steady g (move g c)) :
    Steady h (h.mixOriginal z x move) := by
  unfold Hall.mixOriginal
  split
  · exact (k h _).trans (setContent _ _ _)
  · exact refl h

theorem foldOriginals (h : Hall) (x y : FloorId) (fs : List FloorId) : Steady h (h.foldOriginals x y fs) :=
  (mixOriginal h y x _ fun g c => lend g c x).trans
    (foldl (fun g z => mixOriginal g z x _ fun g c => relend g c x) fs _)

theorem carryChannel (h : Hall) (c : ChannelId) (x : FloorId) : Steady h (h.carryChannel c x) := by
  unfold Hall.carryChannel
  split
  · split
    · exact lend h c x
    · exact relend h c x
  · exact refl h

theorem placeOutput (x : FloorId) (h : Hall) (p : BoothId × Out) : Steady h (h.placeOutput x p) := by
  unfold Hall.placeOutput
  repeat' split
  all_goals first | with_reducible exact refl h | with_reducible exact holdOutput h _ _ | with_reducible exact carryChannel h _ x

theorem servingChanged (h : Hall) (bs : List BoothId) : Steady h (h.servingChanged bs) :=
  (foldl followServing bs h).trans (relayRecheck _)

theorem foldOutputs (h : Hall) (x : FloorId) (fs : List FloorId) : Steady h (h.foldOutputs x fs) :=
  (foldl (placeOutput x) _ h).trans (servingChanged _ _)

theorem settleSwap (now : Clock) (h : Hall) (y : FloorId) : Steady h (h.settleSwap now y) := by
  unfold Hall.settleSwap
  split
  · exact (completeSwap now h y).trans (raise _ _)
  · exact refl h

theorem raiseFold (h : Hall) (fs : List FloorId) : Steady h (h.raiseFold fs) := foldl (fun g _ => raise g _) fs h

theorem foldInto (now : Clock) (h : Hall) (x y : FloorId) : Steady h (h.foldInto now x y) := by
  unfold Hall.foldInto
  exact (((((((((foldRelation h x y _).trans (foldSpeakers now _ x y)).trans (foldQueue _ x y)).trans
    (foldHolders _ x y)).trans (foldOriginals _ x y _)).trans (foldOutputs _ x _)).trans (adoptionPass _ x)).trans
    (settleSwap now _ y)).trans (raiseFold _ _)).trans ((recomposeFloor _ x).trans (arbitrate now _))

theorem darken (now : Clock) (h : Hall) (x : FloorId) (c : SecSet) : Steady h (h.darken now x c) := by
  unfold Hall.darken
  exact ((((closeTurns now h x _ _).trans (removeEntries _ x _ _)).trans
    (foldl (fun g n => leaveHolder n g x) _ _)).trans (updFloor _ x _)).trans (membersReport _ c)

theorem reviveRecords (h : Hall) (x r : FloorId) (fs : List FloorId) (c : SecSet) :
    Steady h (h.reviveRecords x r fs c) :=
  ((updFloor h r _).trans (setCarriers _ fs r)).trans (updFloor _ x _)

theorem reviveEntries (now : Clock) (h : Hall) (x r : FloorId) (c : SecSet) : Steady h (h.reviveEntries now x r c) := by
  unfold Hall.reviveEntries
  exact (((((updFloor h x _).trans (raiseIf _ _ _)).trans (absorbSpeakers now _ r _)).trans (updFloor _ x _)).trans
    (raiseIf _ _ _)).trans (absorbQueue _ r _)

theorem reviveHolders (h : Hall) (x r : FloorId) (c : SecSet) : Steady h (h.reviveHolders x r c) :=
  (((updFloor h x _).trans (updFloor _ r _)).trans (remute _ r)).trans (remute _ x)

theorem giveBackOutput (h : Hall) (p : BoothId × Out) : Steady h (h.giveBackOutput p) := by
  unfold Hall.giveBackOutput
  repeat' split
  all_goals first | with_reducible exact refl h | with_reducible exact (giveBack h _).trans (restoreOutput _ _ _) | with_reducible exact giveBack h _

theorem reviveCarried (r : FloorId) (h : Hall) (z : FloorId) : Steady h (h.reviveCarried r z) :=
  (mixOriginal h z r _ fun g c => relend g c r).trans (foldl (placeOutput r) _ _)

theorem reviveChannels (h : Hall) (r : FloorId) (fs : List FloorId) : Steady h (h.reviveChannels r fs) :=
  (((mixOriginal h r r _ fun g c => giveBack g c).trans (foldl giveBackOutput _ _)).trans
    (foldl (reviveCarried r) fs _)).trans (servingChanged _ _)

theorem reviveListen (h : Hall) (x r : FloorId) (fs : List FloorId) (c : SecSet) :
    Steady h (h.reviveListen x r fs c) := by
  unfold Hall.reviveListen
  simp only []
  split
  · exact (removeAdopted h x _).trans (membersReport _ c)
  · exact ((removeAdopted h x _).trans (adoptionPass _ r)).trans (membersReport _ c)

theorem revive (now : Clock) (h : Hall) (x r : FloorId) (fs : List FloorId) (c : SecSet) :
    Steady h (h.revive now x r fs c) := by
  unfold Hall.revive
  exact ((((((reviveRecords h x r fs c).trans (reviveEntries now _ x r c)).trans (reviveHolders _ x r c)).trans
    (reviveChannels _ r fs)).trans (reviveListen _ x r fs c)).trans (raiseFold _ _)).trans (recomposeFloor _ r)

theorem takePart (now : Clock) (x : FloorId) (h : Hall) (c : SecSet) : Steady h (h.takePart now x c) := by
  unfold Hall.takePart
  simp only []
  split
  · exact revive now h x _ _ c
  · exact darken now h x c

theorem reduceHome (h : Hall) (f : FloorId) : Steady h (h.reduceHome f) := by
  unfold Hall.reduceHome
  split
  · simp only []
    split
    · exact refl h
    · exact (updFloor h f _).trans (raise _ _)
  · exact refl h

theorem endUnfold (now : Clock) (h : Hall) (x : FloorId) (b : Bool) : Steady h (h.endUnfold now x b) := by
  unfold Hall.endUnfold
  have part : Steady h (if (((List.finRange 6).foldl Hall.reduceHome h).foldedInto x).isEmpty then
      ((List.finRange 6).foldl Hall.reduceHome h).endAdopted x
    else ((List.finRange 6).foldl Hall.reduceHome h).adoptionPass x) :=
    trans (foldl reduceHome _ h) (ite (endAdopted _ x) (adoptionPass _ x))
  exact (((ite (part.trans (quiet now _ x)) part).trans (raise _ _)).trans (recomposeFloor _ x)).trans (arbitrate now _)

theorem unfold (now : Clock) (w : Tbl (Option Wall) 16) (h : Hall) (x : FloorId) : Steady h (h.unfold now w x) := by
  unfold Hall.unfold
  split
  · simp only []
    split
    · exact refl h
    · exact (foldl (takePart now x) _ h).trans (endUnfold now _ x _)
  · exact refl h

theorem appliedOpen (now : Clock) (w : Tbl (Option Wall) 16) (h : Hall) (a b : SectionId) :
    Steady h (h.appliedOpen now w a b) := by
  unfold Hall.appliedOpen
  repeat' split
  all_goals first | with_reducible exact refl h | with_reducible exact annex h _ _ | with_reducible exact foldInto now h _ _

theorem appliedClosed (now : Clock) (w : Tbl (Option Wall) 16) (h : Hall) (a b : SectionId) :
    Steady h (h.appliedClosed now w a b) := by
  unfold Hall.appliedClosed
  repeat' split
  all_goals first | with_reducible exact refl h | with_reducible exact Steady.unfold now w h _

theorem releaseBooths (h : Hall) (f : FloorId) : Steady h (h.releaseBooths f) := foldl releaseBooth _ h

theorem freeOriginal (h : Hall) (f : FloorId) : Steady h (h.freeOriginal f) := by
  unfold Hall.freeOriginal
  split
  · exact freeing h _
  · exact refl h

theorem closeRecord (h : Hall) (f : FloorId) : Steady h (h.closeRecord f) := updFloor h f _

theorem closeWithCarrier (h : Hall) (y : FloorId) : Steady h (h.closeWithCarrier y) :=
  ((releaseBooths h y).trans (freeOriginal _ y)).trans (closeRecord _ y)

theorem closeFolded (h : Hall) (y x : FloorId) : Steady h (h.closeFolded y x) := by
  unfold Hall.closeFolded
  simp only []
  refine trans ?_ ((closeRecord _ y).trans (raise _ _))
  refine trans (((releaseBooths h y).trans (freeOriginal _ y)).trans (removeAdopted _ x fun z => z = y)) ?_
  split
  · exact endAdopted _ x
  · exact adoptionPassOver _ x _

theorem closeSpeech (now : Clock) (h : Hall) (f : FloorId) : Steady h (h.closeSpeech now f) :=
  (((closeTurns now h f _ _).trans (updFloor _ f _)).trans (raiseIf _ _ _)).trans (recomposeAll _ _)

theorem freeOwned (h : Hall) (f : FloorId) : Steady h (h.freeOwned f) := foldl freeing _ h

theorem closeLive (now : Clock) (h : Hall) (f : FloorId) : Steady h (h.closeLive now f) := by
  unfold Hall.closeLive
  exact (((((updFloor h f _).trans (closeSpeech now _ f)).trans (arbitrate now _)).trans (releaseBooths _ f)).trans
    ((foldl closeWithCarrier _ _).trans (freeOwned _ f))).trans (((updFloor _ f _).trans (membersReport _ _)).trans
    (closeRecord _ f))

theorem closeFloor (now : Clock) (h : Hall) (f : FloorId) : Steady h (h.closeFloor now f) := by
  unfold Hall.closeFloor
  split
  · exact closeLive now h f
  · exact closeFolded h f _
  · exact refl h

theorem openFloor (w : Tbl (Option Wall) 16) (h : Hall) (f : FloorId) (a : SectionId) (p : Nat) (c : ChannelId) :
    Steady h (h.openFloor w f a p c) :=
  (updFloor h f _).trans (membersReport _ _)

end Steady

end Sys2Proof
end

