-- ==== Sys2Proof/Laws/Parts.lean ====
section
/-! SUPPORT. Which parts of the hall the shared operations do not reach, field by field: route operations reach the route queue,
slots and reports reach no other record. -/

namespace Sys2Proof

namespace Hall

/-! ## Route Output -/

theorem startFrame_eq (h : Hall) : h.startFrame =
    { h with routeQueue := h.startFrame.routeQueue, inFlight := h.startFrame.inFlight, link := h.startFrame.link } := by
  unfold Hall.startFrame
  split <;> rfl

@[simp] theorem startFrame_seats (h : Hall) : h.startFrame.seats = h.seats :=
  (congrArg Hall.seats (startFrame_eq h) :)

@[simp] theorem startFrame_marks (h : Hall) : h.startFrame.marks = h.marks :=
  (congrArg Hall.marks (startFrame_eq h) :)

@[simp] theorem startFrame_floors (h : Hall) : h.startFrame.floors = h.floors :=
  (congrArg Hall.floors (startFrame_eq h) :)

@[simp] theorem startFrame_slots (h : Hall) : h.startFrame.slots = h.slots :=
  (congrArg Hall.slots (startFrame_eq h) :)

@[simp] theorem startFrame_channels (h : Hall) : h.startFrame.channels = h.channels :=
  (congrArg Hall.channels (startFrame_eq h) :)

@[simp] theorem startFrame_booths (h : Hall) : h.startFrame.booths = h.booths :=
  (congrArg Hall.booths (startFrame_eq h) :)

@[simp] theorem startFrame_hold (h : Hall) : h.startFrame.hold = h.hold := (congrArg Hall.hold (startFrame_eq h) :)

@[simp] theorem startFrame_attention (h : Hall) : h.startFrame.attention = h.attention :=
  (congrArg Hall.attention (startFrame_eq h) :)

@[simp] theorem route_seats (h : Hall) (u : RouteUpdate) : (h.route u).seats = h.seats := startFrame_seats _

@[simp] theorem route_marks (h : Hall) (u : RouteUpdate) : (h.route u).marks = h.marks := startFrame_marks _

@[simp] theorem route_floors (h : Hall) (u : RouteUpdate) : (h.route u).floors = h.floors := startFrame_floors _

@[simp] theorem route_slots (h : Hall) (u : RouteUpdate) : (h.route u).slots = h.slots := startFrame_slots _

@[simp] theorem route_channels (h : Hall) (u : RouteUpdate) : (h.route u).channels = h.channels :=
  startFrame_channels _

@[simp] theorem route_booths (h : Hall) (u : RouteUpdate) : (h.route u).booths = h.booths := startFrame_booths _

@[simp] theorem route_hold (h : Hall) (u : RouteUpdate) : (h.route u).hold = h.hold := startFrame_hold _

@[simp] theorem route_attention (h : Hall) (u : RouteUpdate) : (h.route u).attention = h.attention :=
  startFrame_attention _

@[simp] theorem setSlot_seats (h : Hall) (n : SlotId) (v : Option HeldSlot) : (h.setSlot n v).seats = h.seats :=
  route_seats _ _

@[simp] theorem setSlot_marks (h : Hall) (n : SlotId) (v : Option HeldSlot) : (h.setSlot n v).marks = h.marks :=
  route_marks _ _

@[simp] theorem setSlot_floors (h : Hall) (n : SlotId) (v : Option HeldSlot) : (h.setSlot n v).floors = h.floors :=
  route_floors _ _

@[simp] theorem setSlot_slots (h : Hall) (n : SlotId) (v : Option HeldSlot) : (h.setSlot n v).slots = h.slots.set n v :=
  route_slots _ _

@[simp] theorem setSlot_channels (h : Hall) (n : SlotId) (v : Option HeldSlot) : (h.setSlot n v).channels = h.channels :=
  route_channels _ _

@[simp] theorem setSlot_booths (h : Hall) (n : SlotId) (v : Option HeldSlot) : (h.setSlot n v).booths = h.booths :=
  route_booths _ _

@[simp] theorem setSlot_hold (h : Hall) (n : SlotId) (v : Option HeldSlot) : (h.setSlot n v).hold = h.hold :=
  route_hold _ _

@[simp] theorem setSlot_attention (h : Hall) (n : SlotId) (v : Option HeldSlot) : (h.setSlot n v).attention = h.attention :=
  route_attention _ _

/-! ## Seats, marks and reports -/

theorem raiseIf_eq (h : Hall) (b : Bool) (i : AttnItem) :
    h.raiseIf b i = { h with attention := (h.raiseIf b i).attention } := by
  unfold Hall.raiseIf
  split <;> rfl

theorem updSeat_eq (h : Hall) (n : SeatId) (k : Seat → Seat) :
    h.updSeat n k = { h with seats := (h.updSeat n k).seats } := by
  unfold Hall.updSeat
  split <;> rfl

@[simp] theorem raiseIf_seats (h : Hall) (b : Bool) (i : AttnItem) : (h.raiseIf b i).seats = h.seats :=
  (congrArg Hall.seats (raiseIf_eq h b i) :)

@[simp] theorem raiseIf_marks (h : Hall) (b : Bool) (i : AttnItem) : (h.raiseIf b i).marks = h.marks :=
  (congrArg Hall.marks (raiseIf_eq h b i) :)

@[simp] theorem raiseIf_floors (h : Hall) (b : Bool) (i : AttnItem) : (h.raiseIf b i).floors = h.floors :=
  (congrArg Hall.floors (raiseIf_eq h b i) :)

@[simp] theorem raiseIf_slots (h : Hall) (b : Bool) (i : AttnItem) : (h.raiseIf b i).slots = h.slots :=
  (congrArg Hall.slots (raiseIf_eq h b i) :)

@[simp] theorem raiseIf_channels (h : Hall) (b : Bool) (i : AttnItem) : (h.raiseIf b i).channels = h.channels :=
  (congrArg Hall.channels (raiseIf_eq h b i) :)

@[simp] theorem raiseIf_booths (h : Hall) (b : Bool) (i : AttnItem) : (h.raiseIf b i).booths = h.booths :=
  (congrArg Hall.booths (raiseIf_eq h b i) :)

@[simp] theorem raiseIf_routeQueue (h : Hall) (b : Bool) (i : AttnItem) : (h.raiseIf b i).routeQueue = h.routeQueue :=
  (congrArg Hall.routeQueue (raiseIf_eq h b i) :)

@[simp] theorem raiseIf_inFlight (h : Hall) (b : Bool) (i : AttnItem) : (h.raiseIf b i).inFlight = h.inFlight :=
  (congrArg Hall.inFlight (raiseIf_eq h b i) :)

@[simp] theorem raiseIf_hold (h : Hall) (b : Bool) (i : AttnItem) : (h.raiseIf b i).hold = h.hold :=
  (congrArg Hall.hold (raiseIf_eq h b i) :)

@[simp] theorem raiseIf_link (h : Hall) (b : Bool) (i : AttnItem) : (h.raiseIf b i).link = h.link :=
  (congrArg Hall.link (raiseIf_eq h b i) :)

@[simp] theorem mark_seats (h : Hall) (n : SeatId) : (h.mark n).seats = h.seats := raiseIf_seats h _ _

@[simp] theorem mark_floors (h : Hall) (n : SeatId) : (h.mark n).floors = h.floors := raiseIf_floors h _ _

@[simp] theorem mark_slots (h : Hall) (n : SeatId) : (h.mark n).slots = h.slots := raiseIf_slots h _ _

@[simp] theorem mark_channels (h : Hall) (n : SeatId) : (h.mark n).channels = h.channels := raiseIf_channels h _ _

@[simp] theorem mark_booths (h : Hall) (n : SeatId) : (h.mark n).booths = h.booths := raiseIf_booths h _ _

@[simp] theorem mark_routeQueue (h : Hall) (n : SeatId) : (h.mark n).routeQueue = h.routeQueue :=
  raiseIf_routeQueue h _ _

@[simp] theorem mark_inFlight (h : Hall) (n : SeatId) : (h.mark n).inFlight = h.inFlight := raiseIf_inFlight h _ _

@[simp] theorem mark_hold (h : Hall) (n : SeatId) : (h.mark n).hold = h.hold := raiseIf_hold h _ _

@[simp] theorem mark_link (h : Hall) (n : SeatId) : (h.mark n).link = h.link := raiseIf_link h _ _

@[simp] theorem mark_marks (h : Hall) (n : SeatId) : (h.mark n).marks = h.marks.set n true := rfl

@[simp] theorem updSeat_marks (h : Hall) (n : SeatId) (k : Seat → Seat) : (h.updSeat n k).marks = h.marks :=
  (congrArg Hall.marks (updSeat_eq h n k) :)

@[simp] theorem updSeat_floors (h : Hall) (n : SeatId) (k : Seat → Seat) : (h.updSeat n k).floors = h.floors :=
  (congrArg Hall.floors (updSeat_eq h n k) :)

@[simp] theorem updSeat_slots (h : Hall) (n : SeatId) (k : Seat → Seat) : (h.updSeat n k).slots = h.slots :=
  (congrArg Hall.slots (updSeat_eq h n k) :)

@[simp] theorem updSeat_channels (h : Hall) (n : SeatId) (k : Seat → Seat) : (h.updSeat n k).channels = h.channels :=
  (congrArg Hall.channels (updSeat_eq h n k) :)

@[simp] theorem updSeat_booths (h : Hall) (n : SeatId) (k : Seat → Seat) : (h.updSeat n k).booths = h.booths :=
  (congrArg Hall.booths (updSeat_eq h n k) :)

@[simp] theorem updSeat_routeQueue (h : Hall) (n : SeatId) (k : Seat → Seat) : (h.updSeat n k).routeQueue = h.routeQueue :=
  (congrArg Hall.routeQueue (updSeat_eq h n k) :)

@[simp] theorem updSeat_inFlight (h : Hall) (n : SeatId) (k : Seat → Seat) : (h.updSeat n k).inFlight = h.inFlight :=
  (congrArg Hall.inFlight (updSeat_eq h n k) :)

@[simp] theorem updSeat_hold (h : Hall) (n : SeatId) (k : Seat → Seat) : (h.updSeat n k).hold = h.hold :=
  (congrArg Hall.hold (updSeat_eq h n k) :)

@[simp] theorem updSeat_link (h : Hall) (n : SeatId) (k : Seat → Seat) : (h.updSeat n k).link = h.link :=
  (congrArg Hall.link (updSeat_eq h n k) :)

@[simp] theorem updSeat_attention (h : Hall) (n : SeatId) (k : Seat → Seat) : (h.updSeat n k).attention = h.attention :=
  (congrArg Hall.attention (updSeat_eq h n k) :)

@[simp] theorem retune_floors (h : Hall) (p : SeatId → Seat → Bool) : (h.retune p).floors = h.floors :=
  raiseIf_floors h _ _

@[simp] theorem retune_slots (h : Hall) (p : SeatId → Seat → Bool) : (h.retune p).slots = h.slots :=
  raiseIf_slots h _ _

@[simp] theorem retune_channels (h : Hall) (p : SeatId → Seat → Bool) : (h.retune p).channels = h.channels :=
  raiseIf_channels h _ _

@[simp] theorem retune_booths (h : Hall) (p : SeatId → Seat → Bool) : (h.retune p).booths = h.booths :=
  raiseIf_booths h _ _

@[simp] theorem retune_routeQueue (h : Hall) (p : SeatId → Seat → Bool) : (h.retune p).routeQueue = h.routeQueue :=
  raiseIf_routeQueue h _ _

@[simp] theorem retune_inFlight (h : Hall) (p : SeatId → Seat → Bool) : (h.retune p).inFlight = h.inFlight :=
  raiseIf_inFlight h _ _

@[simp] theorem retune_hold (h : Hall) (p : SeatId → Seat → Bool) : (h.retune p).hold = h.hold := raiseIf_hold h _ _

@[simp] theorem retune_link (h : Hall) (p : SeatId → Seat → Bool) : (h.retune p).link = h.link := raiseIf_link h _ _

@[simp] theorem recompose_marks (h : Hall) (n : SeatId) : (h.recompose n).marks = h.marks := updSeat_marks h n _

@[simp] theorem recompose_floors (h : Hall) (n : SeatId) : (h.recompose n).floors = h.floors := updSeat_floors h n _

@[simp] theorem recompose_slots (h : Hall) (n : SeatId) : (h.recompose n).slots = h.slots := updSeat_slots h n _

@[simp] theorem recompose_channels (h : Hall) (n : SeatId) : (h.recompose n).channels = h.channels :=
  updSeat_channels h n _

@[simp] theorem recompose_booths (h : Hall) (n : SeatId) : (h.recompose n).booths = h.booths := updSeat_booths h n _

@[simp] theorem recompose_routeQueue (h : Hall) (n : SeatId) : (h.recompose n).routeQueue = h.routeQueue :=
  updSeat_routeQueue h n _

@[simp] theorem recompose_inFlight (h : Hall) (n : SeatId) : (h.recompose n).inFlight = h.inFlight :=
  updSeat_inFlight h n _

@[simp] theorem recompose_hold (h : Hall) (n : SeatId) : (h.recompose n).hold = h.hold := updSeat_hold h n _

@[simp] theorem recompose_link (h : Hall) (n : SeatId) : (h.recompose n).link = h.link := updSeat_link h n _

@[simp] theorem recompose_attention (h : Hall) (n : SeatId) : (h.recompose n).attention = h.attention :=
  updSeat_attention h n _

@[simp] theorem recomposeAll_marks (h : Hall) (ns : List SeatId) : (h.recomposeAll ns).marks = h.marks :=
  foldl_keeps (part := Hall.marks) (fun g n => recompose_marks g n) ns h

@[simp] theorem recomposeAll_floors (h : Hall) (ns : List SeatId) : (h.recomposeAll ns).floors = h.floors :=
  foldl_keeps (part := Hall.floors) (fun g n => recompose_floors g n) ns h

@[simp] theorem recomposeAll_slots (h : Hall) (ns : List SeatId) : (h.recomposeAll ns).slots = h.slots :=
  foldl_keeps (part := Hall.slots) (fun g n => recompose_slots g n) ns h

@[simp] theorem recomposeAll_channels (h : Hall) (ns : List SeatId) : (h.recomposeAll ns).channels = h.channels :=
  foldl_keeps (part := Hall.channels) (fun g n => recompose_channels g n) ns h

@[simp] theorem recomposeAll_booths (h : Hall) (ns : List SeatId) : (h.recomposeAll ns).booths = h.booths :=
  foldl_keeps (part := Hall.booths) (fun g n => recompose_booths g n) ns h

@[simp] theorem recomposeAll_routeQueue (h : Hall) (ns : List SeatId) : (h.recomposeAll ns).routeQueue = h.routeQueue :=
  foldl_keeps (part := Hall.routeQueue) (fun g n => recompose_routeQueue g n) ns h

@[simp] theorem recomposeAll_inFlight (h : Hall) (ns : List SeatId) : (h.recomposeAll ns).inFlight = h.inFlight :=
  foldl_keeps (part := Hall.inFlight) (fun g n => recompose_inFlight g n) ns h

@[simp] theorem recomposeAll_hold (h : Hall) (ns : List SeatId) : (h.recomposeAll ns).hold = h.hold :=
  foldl_keeps (part := Hall.hold) (fun g n => recompose_hold g n) ns h

@[simp] theorem recomposeAll_link (h : Hall) (ns : List SeatId) : (h.recomposeAll ns).link = h.link :=
  foldl_keeps (part := Hall.link) (fun g n => recompose_link g n) ns h

@[simp] theorem recomposeAll_attention (h : Hall) (ns : List SeatId) : (h.recomposeAll ns).attention = h.attention :=
  foldl_keeps (part := Hall.attention) (fun g n => recompose_attention g n) ns h

end Hall

end Sys2Proof
end

