-- ==== Sys2Proof/Laws/Reach.lean ====
section
/-! SUPPORT. What the operations of one family leave of another's records: channel and booth operations leave floors and voice
slots (`talk`), speech operations leave channels and booths (`sound`), and hand-outs leave every last turn (`turns`). -/

namespace Sys2Proof

/-- The records of speech: floors and voice slots. -/
def Hall.talk (h : Hall) : Tbl Floor 6 × Tbl (Option HeldSlot) 16 :=
  (h.floors, h.slots)

/-- The records of sound: channels and booths. -/
def Hall.sound (h : Hall) : Tbl Channel 32 × Tbl Booth 12 :=
  (h.channels, h.booths)

def SeatPos.turn : SeatPos → Option LastTurn
  | .held r => r.lastTurn
  | _ => none

/-- The last turns of the Seat Table. -/
def Hall.turns (h : Hall) : Tbl (Option LastTurn) 256 :=
  h.seats.imap fun _ p => p.turn

theorem Hall.floors_of_talk {h g : Hall} (k : g.talk = h.talk) : g.floors = h.floors :=
  congrArg Prod.fst k

theorem Hall.slots_of_talk {h g : Hall} (k : g.talk = h.talk) : g.slots = h.slots :=
  congrArg Prod.snd k

theorem Hall.channels_of_sound {h g : Hall} (k : g.sound = h.sound) : g.channels = h.channels :=
  congrArg Prod.fst k

theorem Hall.booths_of_sound {h g : Hall} (k : g.sound = h.sound) : g.booths = h.booths :=
  congrArg Prod.snd k

namespace Talk

/-! ## Channel and booth operations leave floors and voice slots -/

theorem setDesk (h : Hall) (n : SeatId) (d : DeskFields) : (h.setDesk n d).talk = h.talk := by
  unfold Hall.setDesk
  repeat' split
  all_goals simp [Hall.talk, Hall.retuneSeat]

theorem recheckDesk (b : BoothId) (h : Hall) (n : SeatId) : (h.recheckDesk b n).talk = h.talk := by
  unfold Hall.recheckDesk
  repeat' split
  all_goals simp [setDesk]

theorem relayRecheck (h : Hall) : h.relayRecheck.talk = h.talk :=
  foldl_keeps (fun g b => foldl_keeps (recheckDesk b) _ g) _ h

theorem mapReport (h : Hall) (f : FloorId) : (h.mapReport f).talk = h.talk := by
  unfold Hall.mapReport
  split
  · rw [relayRecheck]
    simp [Hall.talk]
  · rfl

theorem mapReportOf (h : Hall) (f : Option FloorId) : (h.mapReportOf f).talk = h.talk := by
  cases f with
  | none => rfl
  | some f => exact mapReport h f

theorem setContent (h : Hall) (c : ChannelId) (x : Content) : (h.setContent c x).talk = h.talk := by
  unfold Hall.setContent
  split <;> simp [Hall.talk]

theorem fillChannel (h : Hall) (c : ChannelId) (f : FloorId) (o : ChanOrigin) (l : Lang) :
    (h.fillChannel c f o l).talk = h.talk := by
  unfold Hall.fillChannel
  simp [Hall.talk]

theorem allocate {h g : Hall} {want : Option ChannelId} {f : FloorId} {o : ChanOrigin} {l : Lang} {c : ChannelId}
    (k : h.allocate want f o l = some (g, c)) : g.talk = h.talk := by
  unfold Hall.allocate at k
  cases hc : h.freeChannel want with
  | none => simp [hc] at k
  | some d =>
    simp only [hc, Option.map_some, Option.some.injEq, Prod.mk.injEq] at k
    rw [← k.1, mapReportOf, fillChannel]

theorem freeing (h : Hall) (c : ChannelId) : (h.freeing c).talk = h.talk := by
  unfold Hall.freeing
  split
  · rw [mapReportOf]
    simp [Hall.talk]
  · rfl

theorem setOutState (h : Hall) (b : BoothId) (o : Out) (st : OutState) : (h.setOutState b o st).talk = h.talk := rfl

theorem setLastRelease (h : Hall) (b : BoothId) (o : Out) (n : SeatId) (c : ReleaseCause) :
    (h.setLastRelease b o n c).talk = h.talk := rfl

theorem outContent (h : Hall) (b : BoothId) (o : Out) (x : Content) : (h.outContent b o x).talk = h.talk := by
  unfold Hall.outContent
  split
  · exact setContent h _ x
  · rfl

theorem mixContent (h : Hall) (b : BoothId) (o : Out) : (h.mixContent b o).talk = h.talk := by
  unfold Hall.mixContent
  split
  · exact outContent h b o _
  · rfl

theorem enterFallback (h : Hall) (b : BoothId) (o : Out) : (h.enterFallback b o).talk = h.talk := by
  unfold Hall.enterFallback
  exact (mixContent _ b o).trans (setOutState h b o _)

theorem enterSilent (h : Hall) (b : BoothId) (o : Out) : (h.enterSilent b o).talk = h.talk := by
  have base := (outContent (h.setOutState b o (.silent ((h.booths.get b).delay * 10))) b o .silence).trans
    (setOutState h b o _)
  unfold Hall.enterSilent
  simp only []
  split
  · exact (enterFallback _ b o).trans base
  · exact base

theorem setDeskLive (h : Hall) (n : SeatId) (b : Bool) : (h.setDeskLive n b).talk = h.talk := by
  unfold Hall.setDeskLive
  split
  · exact setDesk h n _
  · rfl

theorem takeOff (h : Hall) (b : BoothId) (o : Out) (c : ReleaseCause) : (h.takeOff b o c).talk = h.talk := by
  unfold Hall.takeOff
  split
  · exact (setLastRelease _ b o _ c).trans (setDeskLive h _ false)
  · rfl

theorem deskLeaves (h : Hall) (n : SeatId) (c : ReleaseCause) : (h.deskLeaves n c).talk = h.talk := by
  unfold Hall.deskLeaves
  split
  · exact (enterSilent _ _ _).trans ((setLastRelease _ _ _ n c).trans (setDeskLive h n false))
  · rfl

theorem clearOutput (h : Hall) (b : BoothId) (o : Out) (c : ReleaseCause) : (h.clearOutput b o c).talk = h.talk := by
  unfold Hall.clearOutput
  split
  next u _ =>
    refine Eq.trans (b := (((h.takeOff b o c).setOutput b o
      { (h.takeOff b o c).output b o with use := none }).freeing u.chan).talk) ?_ ?_
    · simp [Hall.talk, Hall.recomposeDesks]
    · exact (freeing _ _).trans (takeOff h b o c)
  · rfl

theorem retune (h : Hall) (p : SeatId → Seat → Bool) : (h.retune p).talk = h.talk := by
  simp [Hall.talk]

theorem releaseBooth (h : Hall) (b : BoothId) : (h.releaseBooth b).talk = h.talk := by
  unfold Hall.releaseBooth
  refine (retune _ _).trans ?_
  refine (foldl_keeps (part := Hall.talk) (fun g n => ?_) _ _).trans
    ((clearOutput _ b .b _).trans (clearOutput h b .a _))
  split
  · exact setDesk g n _
  · rfl

theorem tailOfRemoval (g : Hall) (b : BoothId) (n : SeatId) (f : Booth → Booth) :
    ((Machine.updBooth g b f).retuneSeat n |>.recompose n).talk = g.talk := by
  simp [Hall.talk, Hall.retuneSeat, Machine.updBooth]

theorem removeDesk (h : Hall) (b : BoothId) (n : SeatId) : (Machine.removeDesk h b n).talk = h.talk := by
  unfold Machine.removeDesk
  refine (tailOfRemoval _ b n _).trans ?_
  split
  · exact (setDesk _ n _).trans (deskLeaves h n _)
  · exact deskLeaves h n _

end Talk

namespace Sound

/-! ## Speech operations leave channels and booths -/

theorem recompose (h : Hall) (n : SeatId) : (h.recompose n).sound = h.sound := by
  simp [Hall.sound]

theorem recomposeAll (h : Hall) (ns : List SeatId) : (h.recomposeAll ns).sound = h.sound := by
  simp [Hall.sound]

theorem raise (h : Hall) (i : AttnItem) : (h.raise i).sound = h.sound := rfl

theorem setGate (h : Hall) (n : SlotId) (b : Bool) : (h.setGate n b).sound = h.sound := by
  unfold Hall.setGate
  repeat' split
  all_goals simp [Hall.sound]

theorem setMutes (h : Hall) (f : FloorId) (e : Speaker) (p l : Bool) : (h.setMutes f e p l).sound = h.sound := by
  unfold Hall.setMutes
  split
  · rfl
  · exact (recompose _ _).trans (setGate _ _ _)

theorem remute (h : Hall) (f : FloorId) : (h.remute f).sound = h.sound :=
  foldl_keeps (fun g _ => setMutes g f _ _ _) _ h

theorem queueReport (h : Hall) (f : FloorId) : (h.queueReport f).sound = h.sound := recomposeAll _ _

theorem removeEntry (h : Hall) (f : FloorId) (n : SeatId) (c : RemovalCause) :
    (h.removeEntry f n c).sound = h.sound :=
  (recompose _ n).trans (queueReport _ f)

theorem removeEntries (h : Hall) (f : FloorId) (ns : List SeatId) (c : RemovalCause) :
    (h.removeEntries f ns c).sound = h.sound :=
  foldl_keeps (fun g n => removeEntry g f n c) ns h

theorem joinQueue (h : Hall) (f : FloorId) (k : Nat) (e : Waiting) : (h.joinQueue f k e).sound = h.sound :=
  (recompose _ _).trans (queueReport _ f)

theorem trimQueue (h : Hall) (f : FloorId) (c : RemovalCause) : (h.trimQueue f c).sound = h.sound :=
  removeEntries h f _ c

theorem grant (now : Clock) (h : Hall) (f : FloorId) (n : SeatId) (k : SlotId) :
    (h.grant now f n k).sound = h.sound := by
  unfold Hall.grant
  simp [Hall.sound, Hall.recomposeQueue, Hall.unqueue]

theorem writeLastTurn (h : Hall) (n : SeatId) (t : LastTurn) : (h.writeLastTurn n t).sound = h.sound := by
  unfold Hall.writeLastTurn
  split <;> simp [Hall.sound]

theorem releaseSlot (h : Hall) (k : SlotId) (b : Bool) : (h.releaseSlot k b).sound = h.sound := by
  unfold Hall.releaseSlot
  split <;> simp [Hall.sound]

theorem closeTurn (now : Clock) (h : Hall) (f : FloorId) (n : SeatId) (c : TurnCause) (b : Bool) :
    (h.closeTurn now f n c b).sound = h.sound := by
  unfold Hall.closeTurn
  split
  · exact (recompose _ n).trans ((releaseSlot _ _ b).trans (writeLastTurn _ n _))
  · rfl

theorem closeTurns (now : Clock) (h : Hall) (f : FloorId) (ns : List SeatId) (c : TurnCause) :
    (h.closeTurns now f ns c).sound = h.sound :=
  foldl_keeps (fun g n => closeTurn now g f n c false) ns h

theorem closeExcessOne (now : Clock) (f : FloorId) (c : TurnCause) (h : Hall) (e : Speaker) :
    (h.closeExcessOne now f c e).sound = h.sound := by
  unfold Hall.closeExcessOne
  simp only []
  split
  · exact (joinQueue _ f 0 _).trans (closeTurn now h f _ c false)
  · exact closeTurn now h f _ c false

theorem closeExcess (now : Clock) (h : Hall) (f : FloorId) (c : TurnCause) :
    (h.closeExcess now f c).sound = h.sound :=
  foldl_keeps (closeExcessOne now f c) _ h

theorem handOut {now : Clock} {h g : Hall} (k : h.handOut now = some g) : g.sound = h.sound := by
  unfold Hall.handOut at k
  split at k
  next slot f _ _ =>
    cases he : (h.floor f).firstReachable with
    | none => simp [he] at k
    | some e =>
      simp only [he, Option.map_some, Option.some.injEq] at k
      rw [← k]
      exact grant now h f _ _
  · cases k

theorem handOuts (now : Clock) : ∀ (k : Nat) (h : Hall), (h.handOuts now k).sound = h.sound
  | 0, _ => rfl
  | k + 1, h => by
    unfold Hall.handOuts
    split
    next g hg => exact (handOuts now k g).trans (handOut hg)
    · rfl

theorem arbitrate (now : Clock) (h : Hall) : (h.arbitrate now).sound = h.sound := handOuts now 16 h

theorem retune (h : Hall) (p : SeatId → Seat → Bool) : (h.retune p).sound = h.sound := by
  simp [Hall.sound]

theorem raiseIf (h : Hall) (b : Bool) (i : AttnItem) : (h.raiseIf b i).sound = h.sound := by
  simp [Hall.sound]

theorem adoptionPass (h : Hall) (f : FloorId) : (h.adoptionPass f).sound = h.sound := by
  unfold Hall.adoptionPass Hall.adoptionPassOver
  simp only []
  split
  · exact (retune _ _).trans (raiseIf _ _ _)
  · exact raiseIf _ _ _

theorem swapListen (h : Hall) (f : FloorId) : (h.swapListen f).sound = h.sound := by
  unfold Hall.swapListen
  split
  · split
    · exact retune h _
    · exact (retune _ _).trans ((raiseIf _ _ _).trans (adoptionPass _ f))
  · rfl

theorem requireBadges (now : Clock) (h : Hall) (f : FloorId) : (h.requireBadges now f).sound = h.sound := by
  unfold Hall.requireBadges
  split
  · exact (removeEntries _ f _ _).trans (closeTurns now h f _ _)
  · rfl

theorem completeSwap (now : Clock) (h : Hall) (f : FloorId) : (h.completeSwap now f).sound = h.sound := by
  unfold Hall.completeSwap
  exact (swapListen _ f).trans ((remute _ f).trans ((trimQueue _ f _).trans ((requireBadges now _ f).trans
    (closeExcess now _ f _))))

theorem quiet (now : Clock) (h : Hall) (f : FloorId) : (h.quiet now f).sound = h.sound := by
  unfold Hall.quiet
  split
  · exact (raise _ _).trans (completeSwap now h f)
  · rfl

theorem endTurn (now : Clock) (h : Hall) (f : FloorId) (n : SeatId) (c : TurnCause) :
    (h.endTurn now f n c).sound = h.sound := by
  unfold Hall.endTurn
  simp only []
  split
  · exact (quiet now _ f).trans (closeTurn now h f n c false)
  · exact closeTurn now h f n c false

theorem passTurn (now : Clock) (h : Hall) (f : FloorId) (n : SeatId) (c : TurnCause) :
    (h.passTurn now f n c).sound = h.sound := by
  unfold Hall.passTurn
  split
  · exact (grant now _ f n _).trans (closeTurn now h f _ c true)
  · rfl

theorem priorityClose (now : Clock) (h : Hall) (f : FloorId) : (h.priorityClose now f).sound = h.sound :=
  foldl_keeps (fun g n => endTurn now g f n _) _ h

theorem priorityAct (now : Clock) (h : Hall) (f : FloorId) : (h.priorityAct now f).sound = h.sound := by
  unfold Hall.priorityAct
  split
  · exact remute h f
  · exact priorityClose now h f
  · exact (removeEntries _ f _ _).trans (priorityClose now h f)

theorem liftIfEmpty (h : Hall) (f : FloorId) : (h.liftIfEmpty f).sound = h.sound := by
  unfold Hall.liftIfEmpty
  split
  · rfl
  · exact remute h f

end Sound

namespace Turns

/-! ## Hand-outs leave every last turn -/

theorem updSeat (h : Hall) (n : SeatId) (f : Seat → Seat) (k : ∀ r, (f r).lastTurn = r.lastTurn) :
    (h.updSeat n f).turns = h.turns := by
  unfold Hall.updSeat
  cases hp : h.seats.get n with
  | held r =>
    refine Tbl.ext_get fun i => ?_
    by_cases e : n = i
    · subst e
      simp [Hall.turns, hp, SeatPos.turn, k r]
    · simp [Hall.turns, Tbl.get_set, e]
  | free => rfl
  | reserved => rfl

theorem recompose (h : Hall) (n : SeatId) : (h.recompose n).turns = h.turns := updSeat h n _ fun _ => rfl

theorem recomposeAll (h : Hall) (ns : List SeatId) : (h.recomposeAll ns).turns = h.turns :=
  foldl_keeps recompose ns h

theorem same {h g : Hall} (k : g.seats = h.seats) : g.turns = h.turns := by
  unfold Hall.turns
  rw [k]

theorem retune (h : Hall) (p : SeatId → Seat → Bool) : (h.retune p).turns = h.turns := by
  refine Tbl.ext_get fun i => ?_
  simp only [Hall.turns, Hall.retune, Tbl.get_imap]
  cases h.seats.get i with
  | held r =>
    simp only [Hall.retuned]
    split <;> rfl
  | free => rfl
  | reserved => rfl

theorem grant (now : Clock) (h : Hall) (f : FloorId) (n : SeatId) (k : SlotId) :
    (h.grant now f n k).turns = h.turns := by
  unfold Hall.grant
  refine (recomposeAll _ _).trans ((recompose _ n).trans (same ?_))
  simp [Hall.unqueue]

theorem handOut {now : Clock} {h g : Hall} (k : h.handOut now = some g) : g.turns = h.turns := by
  unfold Hall.handOut at k
  split at k
  next slot f _ _ =>
    cases he : (h.floor f).firstReachable with
    | none => simp [he] at k
    | some e =>
      simp only [he, Option.map_some, Option.some.injEq] at k
      rw [← k]
      exact grant now h f _ _
  · cases k

theorem handOuts (now : Clock) : ∀ (k : Nat) (h : Hall), (h.handOuts now k).turns = h.turns
  | 0, _ => rfl
  | k + 1, h => by
    unfold Hall.handOuts
    split
    next g hg => exact (handOuts now k g).trans (handOut hg)
    · rfl

theorem arbitrate (now : Clock) (h : Hall) : (h.arbitrate now).turns = h.turns := handOuts now 16 h

end Turns

/-- What a seat keeps of its last turn through an operation that keeps the last turns. -/
theorem Hall.seat_turn {h g : Hall} (k : g.turns = h.turns) {n : SeatId} {r q : Seat} (a : h.seat? n = some r)
    (b : g.seat? n = some q) : q.lastTurn = r.lastTurn := by
  have c : (g.seats.get n).turn = (h.seats.get n).turn := by
    have := congrArg (fun t => t.get n) k
    simpa [Hall.turns] using this
  unfold Hall.seat? at a b
  cases hp : h.seats.get n <;> cases gp : g.seats.get n <;> simp_all [SeatPos.turn]

end Sys2Proof
end

