-- ==== Sys2Proof/Laws/Requests.lean ====
section
/-! SUPPORT. The three shapes of a command (request, event, port transition) and everything each can do; the arguments of
requests once they name a record. -/

namespace Sys2Proof

/-! ## Arguments -/

theorem numbered_eq {n k : Nat} {i : Fin n} (h : k = i.val + 1) : numbered n k = some i := by
  subst h
  have : i.val < n := i.isLt
  simp only [numbered]
  rw [dif_pos (by omega)]
  simp

theorem numbered_none {n k : Nat} (h : k = 0 ∨ n < k) : numbered n k = none := by
  simp only [numbered]
  rw [dif_neg (by omega)]

theorem numbered_some {n k : Nat} (lo : 1 ≤ k) (hi : k ≤ n) : ∃ i : Fin n, numbered n k = some i ∧ k = i.val + 1 := by
  refine ⟨⟨k - 1, by omega⟩, ?_, ?_⟩
  · exact numbered_eq (by simp only []; omega)
  · simp only []
    omega

theorem indexed_eq {n k : Nat} {i : Fin n} (h : k = i.val) : indexed n k = some i := by
  subst h
  simp [indexed]

theorem indexed_none {n k : Nat} (h : n ≤ k) : indexed n k = none := by
  simp only [indexed]
  rw [dif_neg (by omega)]

theorem within_eq {a b k : Nat} (lo : a ≤ k) (hi : k ≤ b) : within a b k = some k := by
  simp [within, lo, hi]

theorem within_none {a b k : Nat} (h : k < a ∨ b < k) : within a b k = none := by
  simp only [within]
  rw [if_neg (by omega)]

namespace Machine

/-! ## The shapes of a command -/

theorem request_taken {n : Nat} {code : Byte} {f : World → Handled} {s : State} (h : s.takes) :
    request n code f s = .next (s.answered n code (f s.world)) := by
  unfold request
  rw [if_pos (show s.port.takesWrite = true from h)]

theorem request_untaken {n : Nat} {code : Byte} {f : World → Handled} {s : State} (h : ¬ s.takes) :
    request n code f s = .next (s.discarded n) := by
  unfold request
  rw [if_neg (show ¬ s.port.takesWrite = true from h)]

theorem event_next (f : World → World) (s : State) : event f s = .next (s.after (f s.world)) := rfl

/-- A request keeps every part of the world that its effect keeps. -/
theorem request_keeps {α : Type} (part : World → α) {n : Nat} {code : Byte} {f : World → Handled} {s t : State}
    (keep : part (f s.world).world = part s.world) (e : request n code f s = .next t) : part t.world = part s.world := by
  by_cases h : s.takes
  · rw [request_taken h] at e
    cases e
    exact keep
  · rw [request_untaken h] at e
    cases e
    rfl

/-- An event keeps every part of the world that its effect keeps. -/
theorem event_keeps {α : Type} (part : World → α) {f : World → World} {s t : State}
    (keep : part (f s.world) = part s.world) (e : event f s = .next t) : part t.world = part s.world := by
  rw [event_next] at e
  cases e
  exact keep

/-- A request answers a next state with the queue as it was. -/
theorem request_runs (n : Nat) (code : Byte) (f : World → Handled) (s : State) :
    ∃ t, request n code f s = .next t ∧ t.pending = s.pending := by
  by_cases h : s.takes
  · exact ⟨_, request_taken h, rfl⟩
  · exact ⟨_, request_untaken h, rfl⟩

/-- What a request taken leaves at the Host Port. -/
theorem answered_port (s : State) (n : Nat) (code : Byte) (r : Handled) :
    (s.answered n code r).port.buffer = .unread ⟨r.status, code, r.payload⟩ ∧ (s.answered n code r).port.ready = true ∧
      (s.answered n code r).port.phase = .idle ∧ (s.answered n code r).port.cs = .released ∧
      (s.answered n code r).port.readOut = s.port.buffer.shifted n ∧
      (s.answered n code r).port.mask = s.port.mask ∧
      (s.answered n code r).port.attn = (s.answered n code r).world.hall.calls s.port.mask :=
  ⟨rfl, rfl, rfl, rfl, rfl, rfl, rfl⟩

/-! ## Records named by arguments -/

theorem withFloor_eq {w : World} {b : Byte} {f : FloorId} (h : b.toNat = f.val + 1) (k : FloorId → Handled) :
    withFloor w b k = k f := by
  simp [withFloor, numbered_eq h]

theorem withFloor_bad {w : World} {b : Byte} (h : b.toNat = 0 ∨ 6 < b.toNat) (k : FloorId → Handled) :
    withFloor w b k = refusal w .badArgument := by
  simp [withFloor, numbered_none h]

theorem session?_closed {f : Floor} (h : f.state = .closed) : f.session? = none := by
  simp [Floor.session?, h]

theorem session?_open {f : Floor} (h : f.state ≠ .closed) : f.session? = f.sess := by
  simp [Floor.session?, h]

theorem withSession_eq {w : World} {b : Byte} {f : FloorId} {x : Session} (h : b.toNat = f.val + 1)
    (o : (w.hall.floor f).state ≠ .closed) (y : (w.hall.floor f).sess = some x) (k : FloorId → Session → Handled) :
    withSession w b k = k f x := by
  simp [withSession, withFloor_eq h, session?_open o, y]

theorem withSession_closed {w : World} {b : Byte} {f : FloorId} (h : b.toNat = f.val + 1)
    (o : (w.hall.floor f).state = .closed) (k : FloorId → Session → Handled) :
    withSession w b k = refusal w .wrongState := by
  simp [withSession, withFloor_eq h, session?_closed o]

theorem withSession_bad {w : World} {b : Byte} (h : b.toNat = 0 ∨ 6 < b.toNat) (k : FloorId → Session → Handled) :
    withSession w b k = refusal w .badArgument := by
  simp [withSession, withFloor_bad h]

theorem withLive_eq {w : World} {b : Byte} {f : FloorId} (h : b.toNat = f.val + 1)
    (o : (w.hall.floor f).state = .live) (k : FloorId → Handled) : withLive w b k = k f := by
  simp [withLive, withFloor_eq h, Floor.isLive, o]

theorem withSeat_eq {w : World} {b : Half} {n : SeatId} {r : Seat} (h : b.toNat = n.val + 1)
    (o : w.hall.seat? n = some r) (k : SeatId → Seat → Handled) : withSeat w b k = k n r := by
  simp [withSeat, numbered_eq h, o]

theorem withSeat_none {w : World} {b : Half} {n : SeatId} (h : b.toNat = n.val + 1)
    (o : w.hall.seat? n = none) (k : SeatId → Seat → Handled) : withSeat w b k = refusal w .notFound := by
  simp [withSeat, numbered_eq h, o]

theorem withBooth_eq {w : World} {x : Byte} {b : BoothId} (h : x.toNat = b.val + 1) (k : BoothId → Handled) :
    withBooth w x k = k b := by
  simp [withBooth, numbered_eq h]

theorem withBoothSeat_eq {w : World} {x : Byte} {m : Half} {b : BoothId} {n : SeatId} {r : Seat}
    (h : x.toNat = b.val + 1) (i : m.toNat = n.val + 1) (o : w.hall.seat? n = some r)
    (k : BoothId → SeatId → Seat → Handled) : withBoothSeat w x m k = k b n r := by
  simp [withBoothSeat, withBooth_eq h, withSeat_eq i o]

theorem withWall_eq {w : World} {x : Byte} {i : WallId} (h : x.toNat = i.val + 1) (k : WallId → Handled) :
    withWall w x k = k i := by
  simp [withWall, numbered_eq h]

theorem withWall_bad {w : World} {x : Byte} (h : x.toNat = 0 ∨ 16 < x.toNat) (k : WallId → Handled) :
    withWall w x k = refusal w .badArgument := by
  simp [withWall, numbered_none h]

theorem withDefined_eq {w : World} {x : Byte} {i : WallId} {y : Wall} (h : x.toNat = i.val + 1)
    (o : w.layout.wall i = some y) (k : WallId → Wall → Handled) : withDefined w x k = k i y := by
  simp [withDefined, withWall_eq h, o]

theorem withDefined_none {w : World} {x : Byte} {i : WallId} (h : x.toNat = i.val + 1)
    (o : w.layout.wall i = none) (k : WallId → Wall → Handled) : withDefined w x k = refusal w .notFound := by
  simp [withDefined, withWall_eq h, o]

theorem withDefined_bad {w : World} {x : Byte} (h : x.toNat = 0 ∨ 16 < x.toNat) (k : WallId → Wall → Handled) :
    withDefined w x k = refusal w .badArgument := by
  simp [withDefined, withWall_bad h]

theorem paired_linear {c : Chain} {r : RingId} (h : (c.rings.get r).state = .linear) : paired c r = false := by
  simp [paired, h]

theorem withTarget_port {w : World} {b : Byte} {p : PortId} (h : b.toNat = p.val)
    (o : (w.ring (ringOfPort p)).state = .linear) (k : PortId → Handled) : withTarget w b k = k p := by
  have : targetOf b = some (.port p) := by
    simp [targetOf, indexed_eq h]
  simp only [withTarget, this]
  rw [if_neg]
  simp [paired_linear (show (w.chain.rings.get (ringOfPort p)).state = .linear from o)]

end Machine

end Sys2Proof
end

