-- ==== Sys2Proof/Laws/Shapes.lean ====
section
/-! SUPPORT. Every command by its shape: a request of the host, an event of the part, or a transition of the Host Port. -/

namespace Sys2Proof.Machine

/-- The items of a BANK_WRITE take three bytes each (11 R185). -/
theorem itemBytes_length (items : List BankItem) :
    (items.flatMap fun it => it.field :: halfBytes it.value).length = 3 * items.length := by
  induction items with
  | nil => rfl
  | cons it rest ih =>
    simp [halfBytes]
    omega

set_option maxHeartbeats 1000000 in
/-- Every request but HALL_RESET and ATTENTION_MASK runs as `request` with its own code and the length of its frame. -/
theorem exec_request {i : Instr} {code : Byte} {args : List Byte} (h : requestArgs i = some (code, args))
    (reset : ∀ k, i ≠ .hallReset k) (mask : ∀ k, i ≠ .attentionMask k) :
    ∃ f, ∀ s, exec i s = request (args.length + 3) code f s := by
  cases i
  case hallReset k => exact absurd rfl (reset k)
  case attentionMask k => exact absurd rfl (mask k)
  case seatFind k => cases k <;> cases h <;> simp only [exec, execSeatFind] <;> exact ⟨_, fun _ => rfl⟩
  case bankWrite f items =>
    cases h
    simp only [exec, execBankWrite, List.length_cons, itemBytes_length]
    rw [show 3 * items.length + 1 + 3 = 4 + 3 * items.length by omega]
    exact ⟨_, fun _ => rfl⟩
  all_goals first
    | (cases h; done)
    | (cases h
       simp only [exec, execLayoutOpen, execLayoutConfirm, execLayoutClose, execSectionSet, execWallDefine, execWallRemove,
         execWallSet, execWallRead, execMergeConfirm, execMergeRefuse, execSeatPlace, execSeatRole, execSeatRead,
         execSeatRetire, execMaskSet, execRosterChanges, execReadAttention, execClockRead, execIdentify, execFloorOpen,
         execFloorClose, execFloorSet, execFloorRead, execBankRead, execBankSwapNormal,
         execBankSwapForce, execBankCancel, execGrant, execCloseMic, execQueueInsert, execQueueRemove, execQueueClear,
         execFloorPriorityOn, execFloorPriorityOff, execSpeakersRead, execQueueRead, execBoothAssign, execBoothOutput,
         execBoothOutputClear, execBoothAddDesk, execBoothRemoveDesk, execBoothSet, execBoothRelease, execBoothRead,
         execChannelRead, execChainConfig, execEnrollFull, execEnrollExtend, execEnrollAbort, execChainReset,
         execChainRead, execRingTest]
       exact ⟨_, fun _ => rfl⟩)

/-- The events of the part. -/
def isEvent : Instr → Bool
  | .armWindowExpiry | .idleTimerExpiry | .wallLineChange _ _ | .settleTimerExpiry _ | .routeFrameDone
  | .holdActive | .holdInactive | .sessionTick | .turnTimerZeroCut _ | .turnTimerZeroWarn _ | .flashEnd _
  | .poll _ | .reply _ _ | .pollMiss _ _ | .graceExpiry _ | .fallbackDelayExpiry _ _ | .chainSeatRetire _
  | .assignStep _ | .assignAck _ _ _ | .assignReturned _ | .assignBadAnswer _ _ | .assignTimeout _
  | .periodicLoopTest _ | .loopArrival _ _ | .loopTimeout _ => true
  | _ => false

set_option maxHeartbeats 1000000 in
/-- Every event runs as `event`. -/
theorem exec_event {i : Instr} (h : isEvent i = true) : ∃ f, ∀ s, exec i s = event f s := by
  cases i
  all_goals first
    | (cases h; done)
    | (simp only [exec, execArmWindowExpiry, execIdleTimerExpiry, execWallLineChange, execSettleTimerExpiry, execRouteFrameDone,
         execHoldActive, execHoldInactive, execSessionTick, execTurnTimerZeroCut, execTurnTimerZeroWarn, execFlashEnd,
         execPoll, execReply, execPollMiss, execGraceExpiry, execFallbackDelayExpiry, execChainSeatRetire,
         execAssignStep, execAssignAck, execAssignReturned, execAssignBadAnswer, execAssignTimeout,
         execPeriodicLoopTest, execLoopArrival, execLoopTimeout]
       exact ⟨_, fun _ => rfl⟩)

/-- HALL_RESET by its argument. -/
theorem exec_hallReset {c : Half} {s : State} (h : s.takes) :
    exec (.hallReset c) s =
      if c = partCode then .next { s with port := (s.port.transact 5).execute .closing }
      else .next (s.answered 5 0x72#8 ⟨s.world, .badArgument, .empty⟩) := by
  have k : s.port.takesWrite = true := h
  simp only [exec, execHallReset, k, Bool.true_and, decide_eq_true_eq]
  split
  · rfl
  · exact request_taken h

/-- ATTENTION_MASK by its argument. -/
theorem exec_attentionMask {k : Half} {s : State} (h : s.takes) :
    exec (.attentionMask k) s =
      match maskOf k with
      | some m => .next (({ s with port := { s.port with mask := m } }).answered 5 0x71#8 ⟨s.world, .ok, .mask m⟩)
      | none => .next (s.answered 5 0x71#8 ⟨s.world, .badArgument, .empty⟩) := by
  have t : s.port.takesWrite = true := h
  simp only [exec, execAttentionMask, t]
  cases maskOf k with
  | none => exact request_taken h
  | some m => exact request_taken (s := { s with port := { s.port with mask := m } }) h

/-- A frame that is handed to its owner runs as its command. -/
theorem runRequest_eq {i : Instr} {code : Byte} {args : List Byte} (h : requestArgs i = some (code, args)) (s : State) :
    runRequest i s = exec i s := by
  cases i <;> first | rfl | cases h

end Sys2Proof.Machine
end

