-- ==== Sys2Proof/Laws/Wire.lean ====
section
/-! SUPPORT. Frames: the check byte, fields of two and four bytes, and request frames as they are judged. -/

namespace Sys2Proof

theorem unsealed_sealed (bs : List Byte) : unsealed (sealed bs) = some bs := by
  simp [unsealed, sealed]

theorem unsealed_some {bs cs : List Byte} (h : unsealed bs = some cs) : bs = sealed cs := by
  unfold unsealed at h
  cases l : bs.getLast? with
  | none => simp [l] at h
  | some c =>
    simp only [l] at h
    split at h
    next k =>
      rw [← Option.some.inj h, sealed, k]
      exact (List.dropLast_append_getLast? c l).symm
    · cases h

theorem half_bytes (h : Half) : half (hiByte h) (loByte h) = h := by
  unfold half hiByte loByte
  ext i hi
  simp only [BitVec.getElem_append, BitVec.getElem_extractLsb']
  split
  · simp [BitVec.getLsbD_eq_getElem hi]
  next k =>
    have : 8 + (i - 8) = i := by omega
    simp [this, BitVec.getLsbD_eq_getElem hi]

theorem word_bytes (w : BitVec 32) :
    word (w.extractLsb' 24 8) (w.extractLsb' 16 8) (w.extractLsb' 8 8) (w.extractLsb' 0 8) = w := by
  unfold word
  ext i hi
  simp only [BitVec.getElem_append, BitVec.getElem_extractLsb']
  split
  · split
    · simp [BitVec.getLsbD_eq_getElem hi]
    next k =>
      have : 8 + (i - 8) = i := by omega
      simp [this, BitVec.getLsbD_eq_getElem hi]
  · split
    next k =>
      have : 16 + (i - 16) = i := by omega
      simp [this, BitVec.getLsbD_eq_getElem hi]
    next k =>
      have : 24 + (i - 16 - 8) = i := by omega
      simp [this, BitVec.getLsbD_eq_getElem hi]

/-- The items of a BANK_WRITE are read back from their bytes. -/
theorem bankItems_bytes (items : List BankItem) :
    bankItems (items.flatMap fun it => it.field :: halfBytes it.value) = some items := by
  induction items with
  | nil => rfl
  | cons it rest ih =>
    simp only [halfBytes] at ih
    simp [halfBytes, bankItems, ih, half_bytes]

/-- What a request's parse makes of its frame. -/
def Parsed.verdict : Parsed → FrameVerdict
  | .unknown => .unknownRequest
  | .badLength => .badLength
  | .undefinedKind => .undefinedKind
  | .request i => .request i

/-- A sealed frame with a true length is judged by its code and arguments (10 R176). -/
theorem judgeFrame_request (code : Byte) (args : List Byte) (h : args.length ≤ 48) :
    judgeFrame (requestFrame code args) = (parseRequest code args).verdict := by
  have len : (BitVec.ofNat 8 args.length).toNat = args.length := by
    simp
    omega
  unfold judgeFrame requestFrame
  rw [if_neg (by simp [sealed]), unsealed_sealed]
  simp only [len, h, decide_true, beq_self_eq_true, Bool.and_self, if_true]
  cases parseRequest code args <;> rfl

end Sys2Proof
end

