-- ==== Sys2Proof/Laws/Layouts.lean ====
section
/-! SUPPORT. The Layout Unit: what one sensed change applied under LOCKED writes, and what every return to LOCKED leaves. -/

namespace Sys2Proof

theorem Tbl.set_get {α : Type} {n : Nat} (t : Tbl α n) (i : Fin n) (a : α) (h : t.get i = a) : t.set i a = t :=
  Tbl.ext_get fun j => by
    by_cases e : i = j
    · subst e
      simp [h]
    · simp [Tbl.get_set, e]

theorem Tbl.set_set {α : Type} {n : Nat} (t : Tbl α n) (i : Fin n) (a b : α) : (t.set i a).set i b = t.set i b := by
  apply Tbl.ext_get
  intro j
  simp only [Tbl.get_set]
  split <;> rfl

theorem Layout.wall_setWall (l : Layout) (i j : WallId) (x : Option Wall) :
    (l.setWall i x).wall j = if i = j then x else l.wall j := by
  simp [Layout.wall, Tbl.get_set]

/-- A sensed change applied under LOCKED writes the merge state and the applied state of its wall, and nothing else of the
layout (01 R14, R15). -/
theorem World.applySensed_layout (w : World) (i : WallId) (x : Wall) (h : w.layout.wall i = some x) :
    ∃ m p, (w.applySensed i x).layout = w.layout.setWall i (some { x with merge := m, applied := p }) := by
  have same : w.layout = w.layout.setWall i (some x) := by
    unfold Layout.setWall
    rw [Tbl.set_get _ _ _ h]
  unfold World.applySensed
  split
  · exact ⟨.idle, .closed, rfl⟩
  next hs ha => exact ⟨.idle, .closed, by rw [← ha]; rfl⟩
  next hs ha => exact ⟨x.merge, .opened, by rw [← ha]; exact same⟩
  next hs ha =>
    split
    · exact ⟨.pending, x.applied, rfl⟩
    · exact ⟨x.merge, .opened, rfl⟩

/-- One wall's pending entry applied leaves the entry absent, the other entries and the lock as they were. -/
theorem World.applyPending_layout (w : World) (i : WallId) :
    (w.applyPending i).layout.pendingWalls = w.layout.pendingWalls.set i none ∧
      (w.applyPending i).layout.lock = w.layout.lock ∧ (w.applyPending i).layout.lines = w.layout.lines ∧
      (w.applyPending i).layout.active = w.layout.active := by
  unfold World.applyPending
  split
  next x hp hx =>
    obtain ⟨m, q, e⟩ := World.applySensed_layout { w with layout := w.layout.setPending i none } i x hx
    rw [e]
    exact ⟨rfl, rfl, rfl, rfl⟩
  · exact ⟨rfl, rfl, rfl, rfl⟩
  next hp => exact ⟨(Tbl.set_get _ _ _ hp).symm, rfl, rfl, rfl⟩

theorem World.applyPendings_layout : ∀ (is : List WallId) (w : World),
    (is.foldl World.applyPending w).layout.lock = w.layout.lock ∧
      (is.foldl World.applyPending w).layout.lines = w.layout.lines ∧
      (is.foldl World.applyPending w).layout.active = w.layout.active ∧
      ∀ j, (is.foldl World.applyPending w).layout.pendingWalls.get j =
        if j ∈ is then none else w.layout.pendingWalls.get j
  | [], w => ⟨rfl, rfl, rfl, fun _ => by simp⟩
  | i :: is, w => by
    obtain ⟨a, b, c, d⟩ := World.applyPendings_layout is (w.applyPending i)
    obtain ⟨p, q, r, s⟩ := World.applyPending_layout w i
    refine ⟨a.trans q, b.trans r, c.trans s, fun j => ?_⟩
    rw [List.foldl_cons, d j, p, Tbl.get_set]
    by_cases e : j ∈ is
    · simp [e]
    · by_cases f : i = j
      · simp [f]
      · simp [e, f, Ne.symm f]

theorem World.relock_eq (w : World) : w.relock =
    (List.finRange 16).foldl World.applyPending { w with layout := { w.layout with lock := .locked } } := by
  unfold World.relock
  rfl

/-- A return to LOCKED empties the pending wall set and leaves lines and sections (01 R16). -/
theorem World.relock_layout (w : World) :
    w.relock.layout.lock = .locked ∧ w.relock.layout.lines = w.layout.lines ∧
      w.relock.layout.active = w.layout.active ∧ ∀ i, w.relock.layout.pendingWalls.get i = none := by
  obtain ⟨a, b, c, d⟩ :=
    World.applyPendings_layout (List.finRange 16) { w with layout := { w.layout with lock := .locked } }
  rw [World.relock_eq]
  refine ⟨?_, ?_, ?_, fun i => ?_⟩
  · rw [a]
  · rw [b]
  · rw [c]
  · rw [d i, if_pos (List.mem_finRange i)]

/-- With nothing pending, a return to LOCKED is the lock alone. -/
theorem World.relock_empty (w : World) (h : ∀ i, w.layout.pendingWalls.get i = none) :
    w.relock = { w with layout := { w.layout with lock := .locked } } := by
  have idle : ∀ (is : List WallId) (v : World), (∀ i, v.layout.pendingWalls.get i = none) →
      is.foldl World.applyPending v = v := by
    intro is
    induction is with
    | nil => intro v _; rfl
    | cons i is ih =>
      intro v k
      have e : v.applyPending i = v := by simp [World.applyPending, k]
      rw [List.foldl_cons, e]
      exact ih v k
  rw [World.relock_eq]
  exact idle _ _ h

theorem Layout.isLocked_true {l : Layout} (h : l.lock = .locked) : l.isLocked = true := by
  simp [Layout.isLocked, h]

theorem Layout.isLocked_false {l : Layout} (h : l.lock ≠ .locked) : l.isLocked = false := by
  unfold Layout.isLocked
  split
  · contradiction
  · rfl

/-- A return to LOCKED keeps what every floor operation keeps of the hall, and clock and chains. -/
theorem World.applySensed_hall (w : World) (i : WallId) (x : Wall) :
    Steady w.hall (w.applySensed i x).hall ∧ (w.applySensed i x).clock = w.clock ∧
      (w.applySensed i x).chain = w.chain := by
  unfold World.applySensed
  split
  · exact ⟨Steady.appliedClosed _ _ _ _ _, rfl, rfl⟩
  · exact ⟨Steady.refl _, rfl, rfl⟩
  · exact ⟨Steady.refl _, rfl, rfl⟩
  · split
    · exact ⟨Steady.raise _ _, rfl, rfl⟩
    · exact ⟨Steady.appliedOpen _ _ _ _ _, rfl, rfl⟩

theorem World.relock_hall (w : World) :
    Steady w.hall w.relock.hall ∧ w.relock.clock = w.clock ∧ w.relock.chain = w.chain := by
  have step : ∀ (v : World) (i : WallId), Steady v.hall (v.applyPending i).hall ∧
      (v.applyPending i).clock = v.clock ∧ (v.applyPending i).chain = v.chain := by
    intro v i
    unfold World.applyPending
    split
    next x _ _ => exact World.applySensed_hall { v with layout := v.layout.setPending i none } i x
    · exact ⟨Steady.refl _, rfl, rfl⟩
    · exact ⟨Steady.refl _, rfl, rfl⟩
  have all := foldl_rel (R := fun (a b : World) => Steady a.hall b.hall ∧ b.clock = a.clock ∧ b.chain = a.chain)
    (fun _ => ⟨Steady.refl _, rfl, rfl⟩)
    (fun _ _ _ a b => ⟨a.1.trans b.1, b.2.1.trans a.2.1, b.2.2.trans a.2.2⟩) step (List.finRange 16)
    { w with layout := { w.layout with lock := .locked } }
  rw [World.relock_eq]
  exact all

end Sys2Proof
end

