-- ==== Sys2Proof/Laws/Seats.lean ====
section
/-! SUPPORT. Tables searched by position, and what one seat record becomes under the shared seat operations. -/

namespace Sys2Proof

namespace Tbl

variable {α : Type} {n : Nat}

theorem zip_rows (t : Tbl α n) : (List.finRange n).zip t.rows = (List.finRange n).map fun i => (i, t.get i) := by
  apply List.ext_getElem
  · simp [t.size]
  · intro k h1 h2
    simp [get]

theorem positions_eq (p : α → Bool) (t : Tbl α n) : t.positions p = (List.finRange n).filter fun i => p (t.get i) := by
  unfold positions
  rw [zip_rows, List.filterMap_map]
  induction List.finRange n with
  | nil => rfl
  | cons a l ih =>
    simp only [Function.comp_def] at ih ⊢
    by_cases h : p (t.get a) = true
    · simp [h, ih]
    · simp [h, ih]

theorem mem_positions {p : α → Bool} {t : Tbl α n} {i : Fin n} : i ∈ t.positions p ↔ p (t.get i) = true := by
  simp [positions_eq]

theorem lowest_eq_find (p : α → Bool) (t : Tbl α n) : t.lowest p = (List.finRange n).find? fun i => p (t.get i) := by
  unfold lowest
  rw [zip_rows]
  induction List.finRange n with
  | nil => rfl
  | cons a l ih =>
    by_cases h : p (t.get a) = true
    · simp [h]
    · simp [h, ih]

theorem lowest_none {p : α → Bool} {t : Tbl α n} : t.lowest p = none ↔ ∀ i, p (t.get i) = false := by
  simp [lowest_eq_find]

theorem lowest_some {p : α → Bool} {t : Tbl α n} {i : Fin n} (h : t.lowest p = some i) : p (t.get i) = true := by
  rw [lowest_eq_find] at h
  have := List.find?_some h
  exact this

theorem lowest_eq {p : α → Bool} {t : Tbl α n} {i : Fin n} (h : p (t.get i) = true)
    (below : ∀ j, j < i → p (t.get j) = false) : t.lowest p = some i := by
  rw [lowest_eq_find, List.find?_eq_some_iff_getElem]
  refine ⟨h, i.val, by simp, by simp, fun j hj => ?_⟩
  have k := below ⟨j, by omega⟩ hj
  simp [k]

end Tbl

theorem Hall.seat?_of_seats {h g : Hall} (k : g.seats = h.seats) (n : SeatId) : g.seat? n = h.seat? n := by
  unfold Hall.seat?
  rw [k]

theorem Hall.seat?_held {h : Hall} {n : SeatId} {r : Seat} : h.seat? n = some r ↔ h.seats.get n = .held r := by
  unfold Hall.seat?
  cases h.seats.get n <;> simp

theorem Hall.seat?_updSeat {h : Hall} {n : SeatId} {r : Seat} (k : Seat → Seat) (e : h.seat? n = some r) :
    (h.updSeat n k).seat? n = some (k r) := by
  rw [Hall.seat?_held] at e ⊢
  simp [Hall.updSeat, e]

/-- A re-resolution writes the tuned channel alone. -/
theorem Hall.seat?_retune {h : Hall} {n : SeatId} {r : Seat} (p : SeatId → Seat → Bool) (e : h.seat? n = some r) :
    (h.retune p).seat? n = some { r with tuned := if p n r then h.resolve n r else r.tuned } := by
  rw [Hall.seat?_held] at e ⊢
  have : ∀ t c, ({ h.markAll c with seats := t } : Hall).seats = t := fun _ _ => rfl
  simp only [Hall.retune, this, Tbl.get_imap, e, Hall.retuned]
  split <;> rfl

/-- Composition writes the indicator alone. -/
theorem Hall.seat?_recompose {h : Hall} {n : SeatId} {r : Seat} (e : h.seat? n = some r) :
    (h.recompose n).seat? n = some { r with indicator := h.indicate n r } :=
  Hall.seat?_updSeat _ e

/-- The seats that satisfy a test, by their records. -/
theorem Hall.seatsWhere_eq (h : Hall) (p : Seat → Bool) :
    h.seatsWhere p = (List.finRange 256).filter fun n => (h.seat? n).elim false p := by
  unfold Hall.seatsWhere
  rw [Tbl.positions_eq]
  apply List.filter_congr
  intro n _
  unfold Hall.seat?
  cases h.seats.get n <;> rfl

theorem Hall.mem_seatsWhere {h : Hall} {p : Seat → Bool} {n : SeatId} :
    n ∈ h.seatsWhere p ↔ ∃ r, h.seat? n = some r ∧ p r = true := by
  unfold Hall.seatsWhere
  rw [Tbl.mem_positions]
  cases e : h.seats.get n with
  | held r => simp [Hall.seat?, e]
  | free => simp [Hall.seat?, e]
  | reserved => simp [Hall.seat?, e]

/-- A seat whose flash has ended shows another state (02 section 2.6). -/
theorem Hall.indicate_ne_refused (h : Hall) (n : SeatId) (r : Seat) (e : r.flash = none) :
    h.indicate n r ≠ .refused := by
  unfold Hall.indicate
  rw [e]
  simp only [Option.isSome_none, Bool.false_eq_true, if_false]
  split
  · unfold Speaker.indicator
    repeat' split
    all_goals simp
  · repeat' split
    all_goals simp

end Sys2Proof
end

