-- ==== Sys2Proof/Laws/Speech.lean ====
section
/-! SUPPORT. Speech operations by what they do to floors and voice slots: a grant, a hand-out, the steps of a turn end, queue
entries, and what a completed swap keeps of a floor's session. -/

namespace Sys2Proof

/-! ## Granting -/

/-- The speaker entry a grant begins (04 R65). -/
def Hall.begun (h : Hall) (now : Clock) (f : FloorId) (n : SeatId) (k : SlotId) : Speaker :=
  let kind := (h.seat? n).elim .delegate Seat.speakerKind
  let mute := decide (kind = .delegate) && (h.floor f).muteActive
  let carried := ((h.floor f).queue.find? fun e => e.seat = n).bind (·.remaining)
  ⟨n, kind, k, now, mute, false, if kind = .delegate then startTimer (h.floor f).bank carried mute else none⟩

/-- A grant appends one entry to its floor's list and takes the seat out of that floor's queue. -/
theorem Hall.grant_floors (now : Clock) (h : Hall) (f : FloorId) (n : SeatId) (k : SlotId) :
    (h.grant now f n k).floors = h.floors.upd f fun x =>
      { x with queue := x.queue.filter fun e => e.seat ≠ n, speakers := x.speakers ++ [h.begun now f n k] } := by
  unfold Hall.grant
  refine Tbl.ext_get fun i => ?_
  by_cases e : f = i
  · subst e
    simp [Hall.recomposeQueue, Hall.unqueue, Hall.begun]
  · simp [Hall.recomposeQueue, Hall.unqueue, Tbl.upd, Tbl.get_set, e]

/-- A grant holds its slot for the seat and touches no other. -/
theorem Hall.grant_slots (now : Clock) (h : Hall) (f : FloorId) (n : SeatId) (k : SlotId) :
    (h.grant now f n k).slots = h.slots.set k (some ⟨n, f, !(h.begun now f n k).priorityMute⟩) := by
  unfold Hall.grant
  simp [Hall.recomposeQueue, Hall.unqueue, Hall.begun]

/-- What hand-outs of free slots do (04 R68): a floor that does not wait is left whole; a floor that does gains speakers at
the tail of its list and loses queue entries; a slot held before stays as it was. -/
structure Handed (h g : Hall) : Prop where
  idle : ∀ f, (h.floor f).waits = false → g.floor f = h.floor f
  rest : ∀ f, ∃ l q, g.floor f = { h.floor f with speakers := (h.floor f).speakers ++ l, queue := q } ∧
    List.Sublist q (h.floor f).queue
  slots : ∀ k v, h.slots.get k = some v → g.slots.get k = some v

theorem Handed.refl (h : Hall) : Handed h h where
  idle _ _ := rfl
  rest f := ⟨[], (h.floor f).queue, by simp, List.Sublist.refl _⟩
  slots _ _ k := k

theorem Handed.trans {a b c : Hall} (x : Handed a b) (y : Handed b c) : Handed a c where
  idle f k := (y.idle f (by rw [x.idle f k]; exact k)).trans (x.idle f k)
  rest f := by
    obtain ⟨l, q, e, s⟩ := x.rest f
    obtain ⟨m, r, e', s'⟩ := y.rest f
    rw [e] at e' s'
    exact ⟨l ++ m, r, by rw [e']; simp, s'.trans s⟩
  slots k v e := y.slots k v (x.slots k v e)

theorem Hall.nextWaiting_waits {h : Hall} {f : FloorId} (k : h.nextWaiting = some f) : (h.floor f).waits = true := by
  have pick : ∀ (fs : List FloorId) (b : Option FloorId), (∀ g, b = some g → (h.floor g).waits = true) →
      (∀ g ∈ fs, (h.floor g).waits = true) → ∀ g, fs.foldl
        (fun best f =>
          match best with
          | some g => if (h.floor g).precedence < (h.floor f).precedence then some f else some g
          | none => some f) b = some g → (h.floor g).waits = true := by
    intro fs
    induction fs with
    | nil => intro b hb _ g e; exact hb g e
    | cons a fs ih =>
      intro b hb hfs g e
      refine ih _ ?_ (fun g m => hfs g (List.mem_cons_of_mem a m)) g e
      intro g' e'
      have ha := hfs a List.mem_cons_self
      cases b with
      | none =>
        simp only [Option.some.injEq] at e'
        rw [← e']
        exact ha
      | some x =>
        simp only [] at e'
        split at e' <;> rw [← Option.some.inj e']
        · exact ha
        · exact hb x rfl
  refine pick _ none (fun _ e => by cases e) (fun g m => ?_) f k
  exact Tbl.mem_positions.mp m

theorem Handed.handOut {now : Clock} {h g : Hall} (k : h.handOut now = some g) : Handed h g := by
  unfold Hall.handOut at k
  split at k
  next slot f hs hf =>
    cases he : (h.floor f).firstReachable with
    | none => simp [he] at k
    | some e =>
      simp only [he, Option.map_some, Option.some.injEq] at k
      subst k
      have free : h.slots.get slot = none := by
        have := Tbl.lowest_some hs
        simpa using this
      refine ⟨fun x w => ?_, fun x => ?_, fun j v held => ?_⟩
      · have ne : f ≠ x := by
          intro c
          rw [← c, Hall.nextWaiting_waits hf] at w
          cases w
        simp [Hall.floor, Hall.grant_floors, Tbl.upd, Tbl.get_set, ne]
      · by_cases c : f = x
        · subst c
          exact ⟨_, _, by simp [Hall.floor, Hall.grant_floors]; exact ⟨rfl, rfl⟩, List.filter_sublist⟩
        · exact ⟨[], (h.floor x).queue, by simp [Hall.floor, Hall.grant_floors, Tbl.upd, Tbl.get_set, c],
            List.Sublist.refl _⟩
      · rw [Hall.grant_slots, Tbl.get_set_ne]
        · exact held
        · intro c
          rw [← c, free] at held
          cases held
  · cases k

theorem Handed.arbitrate (now : Clock) (h : Hall) : Handed h (h.arbitrate now) := by
  have many : ∀ (k : Nat) (h : Hall), Handed h (h.handOuts now k) := by
    intro k
    induction k with
    | zero => exact Handed.refl
    | succ k ih =>
      intro h
      unfold Hall.handOuts
      split
      next g hg => exact (Handed.handOut hg).trans (ih g)
      · exact Handed.refl h
  exact many 16 h

/-! ## Floors that the steps of an event reach -/

theorem Hall.floor_updFloor (h : Hall) (f g : FloorId) (k : Floor → Floor) :
    (h.updFloor f k).floor g = if f = g then k (h.floor f) else h.floor g := by
  by_cases e : f = g
  · subst e
    simp [Hall.floor]
  · simp [Hall.floor, Tbl.upd, Tbl.get_set, e]

/-- A turn end takes the seat out of its floor's list (04 R66 step 1). -/
theorem Hall.closeTurn_floors (now : Clock) (h : Hall) (f : FloorId) (n : SeatId) (c : TurnCause) (b : Bool) :
    (h.closeTurn now f n c b).floors =
      h.floors.upd f fun x => { x with speakers := x.speakers.filter fun y => y.seat ≠ n } := by
  unfold Hall.closeTurn
  split
  next e _ =>
    have last : ∀ g t, (Hall.writeLastTurn g n t).floors = g.floors := by
      intro g t
      unfold Hall.writeLastTurn
      split <;> simp
    have slot : ∀ g : Hall, (g.releaseSlot e.slot b).floors = g.floors := by
      intro g
      unfold Hall.releaseSlot
      split <;> simp
    simp [last, slot]
  next none =>
    refine (Tbl.set_get _ _ _ ?_).symm
    have all : (h.floors.get f).speakers.filter (fun y => y.seat ≠ n) = (h.floors.get f).speakers := by
      rw [List.filter_eq_self]
      intro y m
      have := List.find?_eq_none.mp none y m
      simpa using this
    show _ = { h.floors.get f with speakers := (h.floors.get f).speakers.filter fun y => y.seat ≠ n }
    rw [all]

theorem Hall.removeEntry_floors (h : Hall) (f : FloorId) (n : SeatId) (c : RemovalCause) :
    (h.removeEntry f n c).floors = h.floors.upd f fun x =>
      { x with queue := x.queue.filter fun e => e.seat ≠ n, lastRemoval := some (n, c) } := by
  unfold Hall.removeEntry Hall.queueReport Hall.recomposeQueue
  refine Tbl.ext_get fun i => ?_
  by_cases e : f = i
  · subst e
    simp [Hall.unqueue]
  · simp [Hall.unqueue, Tbl.upd, Tbl.get_set, e]

theorem Hall.joinQueue_floors (h : Hall) (f : FloorId) (k : Nat) (e : Waiting) :
    (h.joinQueue f k e).floors = h.floors.upd f fun x => { x with queue := x.queue.insertIdx k e } := by
  unfold Hall.joinQueue Hall.queueReport Hall.recomposeQueue
  simp

/-- A change of mutes reaches the mute flags and timers of one floor's list (04 R76, R77). -/
theorem Hall.setMutes_floors (h : Hall) (f : FloorId) (e : Speaker) (p l : Bool) :
    (h.setMutes f e p l).floors =
      if e.priorityMute = p ∧ e.linkMute = l then h.floors
      else h.floors.upd f fun x =>
        { x with speakers := x.speakers.map fun y => if y.seat = e.seat then y.withMutes p l else y } := by
  have gate : ∀ (g : Hall) (b : Bool), (g.setGate e.slot b).floors = g.floors := by
    intro g b
    unfold Hall.setGate
    repeat' split
    all_goals simp
  unfold Hall.setMutes
  split <;> simp [gate]

/-! ## What a completed swap keeps -/

/-- The state of every floor, which bank is current, and whether a swap is pending. -/
def Hall.swaps (h : Hall) : Tbl (FloorState × Option BankId × Bool) 6 :=
  h.floors.imap fun _ x => (x.state, x.sess.map (·.current), x.swapPending)

theorem Hall.swaps_floor {h g : Hall} (k : g.swaps = h.swaps) (f : FloorId) :
    (g.floor f).state = (h.floor f).state ∧
      (g.floor f).sess.map (·.current) = (h.floor f).sess.map (·.current) ∧
      (g.floor f).swapPending = (h.floor f).swapPending := by
  have e := congrArg (fun t => t.get f) k
  simp only [Hall.swaps, Tbl.get_imap, Prod.mk.injEq] at e
  exact e

namespace Swaps

theorem same {h g : Hall} (k : g.floors = h.floors) : g.swaps = h.swaps := by
  unfold Hall.swaps
  rw [k]

theorem upd {h g : Hall} {f : FloorId} {k : Floor → Floor} (e : g.floors = h.floors.upd f k)
    (keep : ∀ x : Floor, (k x).state = x.state ∧ (k x).sess.map (·.current) = x.sess.map (·.current) ∧
      (k x).swapPending = x.swapPending) : g.swaps = h.swaps := by
  refine Tbl.ext_get fun i => ?_
  simp only [Hall.swaps, Tbl.get_imap, e]
  by_cases c : f = i
  · subst c
    simp [(keep _).1, (keep _).2.1, (keep _).2.2]
  · simp [Tbl.upd, Tbl.get_set, c]

theorem closeTurn (now : Clock) (h : Hall) (f : FloorId) (n : SeatId) (c : TurnCause) (b : Bool) :
    (h.closeTurn now f n c b).swaps = h.swaps :=
  upd (Hall.closeTurn_floors now h f n c b) fun _ => ⟨rfl, rfl, rfl⟩

theorem closeTurns (now : Clock) (h : Hall) (f : FloorId) (ns : List SeatId) (c : TurnCause) :
    (h.closeTurns now f ns c).swaps = h.swaps :=
  foldl_keeps (fun g n => closeTurn now g f n c false) ns h

theorem removeEntries (h : Hall) (f : FloorId) (ns : List SeatId) (c : RemovalCause) :
    (h.removeEntries f ns c).swaps = h.swaps :=
  foldl_keeps (fun g n => upd (Hall.removeEntry_floors g f n c) fun _ => ⟨rfl, rfl, rfl⟩) ns h

theorem joinQueue (h : Hall) (f : FloorId) (k : Nat) (e : Waiting) : (h.joinQueue f k e).swaps = h.swaps :=
  upd (Hall.joinQueue_floors h f k e) fun _ => ⟨rfl, rfl, rfl⟩

theorem closeExcess (now : Clock) (h : Hall) (f : FloorId) (c : TurnCause) :
    (h.closeExcess now f c).swaps = h.swaps := by
  refine foldl_keeps (fun g e => ?_) _ h
  unfold Hall.closeExcessOne
  simp only []
  split
  · exact (joinQueue _ f 0 _).trans (closeTurn now g f _ c false)
  · exact closeTurn now g f _ c false

theorem requireBadges (now : Clock) (h : Hall) (f : FloorId) : (h.requireBadges now f).swaps = h.swaps := by
  unfold Hall.requireBadges
  split
  · exact (removeEntries _ f _ _).trans (closeTurns now h f _ _)
  · rfl

theorem remute (h : Hall) (f : FloorId) : (h.remute f).swaps = h.swaps := by
  refine foldl_keeps (fun g e => ?_) _ h
  by_cases c : e.priorityMute = (if (h.floor f).muteActive then (decide (e.kind = .delegate) || e.priorityMute)
      else false) ∧ e.linkMute = e.linkMute
  · exact same ((Hall.setMutes_floors g f e _ _).trans (if_pos c))
  · exact upd ((Hall.setMutes_floors g f e _ _).trans (if_neg c)) fun _ => ⟨rfl, rfl, rfl⟩

/-- What a change of a floor's record keeps when it keeps the state, the current bank and the pending swap. -/
def Kept (a b : Floor) : Prop :=
  b.state = a.state ∧ b.sess.map (·.current) = a.sess.map (·.current) ∧ b.swapPending = a.swapPending

theorem Kept.refl (a : Floor) : Kept a a := ⟨rfl, rfl, rfl⟩

theorem Kept.trans {a b c : Floor} (x : Kept a b) (y : Kept b c) : Kept a c :=
  ⟨y.1.trans x.1, y.2.1.trans x.2.1, y.2.2.trans x.2.2⟩

theorem setBank_current (s : Session) (i : BankId) (b : Bank) : (s.setBank i b).current = s.current := by
  cases i <;> rfl

theorem setListen_kept (f : Floor) (k : ListenSlot) (l : Option Lang) : Kept f (f.setListen k l) := by
  refine ⟨rfl, ?_, rfl⟩
  cases e : f.sess <;> simp [Floor.setListen, e, setBank_current]

theorem adopt_kept (src : FloorId) (f : Floor) (entry : Option Lang) : Kept f (f.adopt src entry) := by
  unfold Floor.adopt
  split
  · exact Kept.refl f
  · split
    · exact Kept.refl f
    · split
      next k _ => exact setListen_kept f k _
      · exact Kept.refl f

theorem adoptAll_kept (h : Hall) (f : FloorId) (ys : List FloorId) : Kept (h.floor f) (h.adoptAll f ys) :=
  foldl_rel Kept.refl (fun _ _ _ => Kept.trans)
    (fun a y => foldl_rel Kept.refl (fun _ _ _ => Kept.trans) (adopt_kept y) _ a) ys _

theorem put {h g : Hall} {f : FloorId} {x : Floor} (e : g.floors = h.floors.set f x) (k : Kept (h.floor f) x) :
    g.swaps = h.swaps := by
  refine Tbl.ext_get fun i => ?_
  simp only [Hall.swaps, Tbl.get_imap, e]
  by_cases c : f = i
  · subst c
    simpa [Kept, Hall.floor] using k
  · simp [Tbl.get_set, c]

theorem adoptionPass (h : Hall) (f : FloorId) : (h.adoptionPass f).swaps = h.swaps := by
  refine put (f := f) (x := h.adoptAll f (h.foldedInto f)) ?_ (adoptAll_kept h f _)
  unfold Hall.adoptionPass Hall.adoptionPassOver
  simp only []
  split <;> simp [Hall.listenReport, Tbl.upd]

theorem carryAll_kept (f : Floor) : Kept f f.carryAll := by
  unfold Floor.carryAll
  split
  next s e => exact ⟨rfl, by simp [e, setBank_current], rfl⟩
  · exact Kept.refl f

theorem swapListen (h : Hall) (f : FloorId) : (h.swapListen f).swaps = h.swaps := by
  have report : ∀ g : Hall, (g.listenReport f).swaps = g.swaps := fun g => same (Hall.retune_floors g _)
  have raised : ∀ (g : Hall) (b : Bool) (i : AttnItem), (g.raiseIf b i).swaps = g.swaps :=
    fun g b i => same (Hall.raiseIf_floors g b i)
  unfold Hall.swapListen
  split
  · split
    · exact report h
    · exact (report _).trans ((raised _ _ _).trans ((adoptionPass _ f).trans
        (upd (k := Floor.carryAll) rfl carryAll_kept)))
  · rfl

/-- A completed swap makes the other bank current with nothing pending, and keeps every floor's state (03 R56). -/
theorem completeSwap (now : Clock) (h : Hall) (f : FloorId) :
    (h.completeSwap now f).swaps = (h.updFloor f Floor.flip).swaps := by
  unfold Hall.completeSwap
  exact (swapListen _ f).trans ((remute _ f).trans ((removeEntries _ f _ _).trans ((requireBadges now _ f).trans
    (closeExcess now _ f _))))

theorem arbitrate (now : Clock) (h : Hall) : (h.arbitrate now).swaps = h.swaps := by
  refine Tbl.ext_get fun f => ?_
  obtain ⟨l, q, e, _⟩ := (Handed.arbitrate now h).rest f
  simp only [Hall.floor] at e
  simp [Hall.swaps, e]

end Swaps

end Sys2Proof
end

