-- ==== Sys2Proof/Laws/Links.lean ====
section
/-! SUPPORT. Chain records: what each update of a port, a ring or a frame sent reaches, and the operations of a port that is no
part of a ring. -/

namespace Sys2Proof

namespace World

theorem port_updPort (w : World) (p q : PortId) (f : PortRec → PortRec) :
    (w.updPort p f).port q = if p = q then f (w.port p) else w.port q := by
  by_cases e : p = q
  · subst e
    simp [World.port]
  · simp [World.port, Tbl.upd, Tbl.get_set, e]

@[simp] theorem port_updPort_self (w : World) (p : PortId) (f : PortRec → PortRec) :
    (w.updPort p f).port p = f (w.port p) := by
  simp [port_updPort]

theorem ring_updRing (w : World) (r q : RingId) (f : RingRec → RingRec) :
    (w.updRing r f).ring q = if r = q then f (w.ring r) else w.ring q := by
  by_cases e : r = q
  · subst e
    simp [World.ring]
  · simp [World.ring, Tbl.upd, Tbl.get_set, e]

@[simp] theorem ring_updRing_self (w : World) (r : RingId) (f : RingRec → RingRec) :
    (w.updRing r f).ring r = f (w.ring r) := by
  simp [ring_updRing]

@[simp] theorem ring_updPort (w : World) (p : PortId) (f : PortRec → PortRec) (r : RingId) :
    (w.updPort p f).ring r = w.ring r := rfl

@[simp] theorem port_updRing (w : World) (r : RingId) (f : RingRec → RingRec) (p : PortId) :
    (w.updRing r f).port p = w.port p := rfl

@[simp] theorem port_onHall (w : World) (f : Hall → Hall) (p : PortId) : (w.onHall f).port p = w.port p := rfl

@[simp] theorem ring_onHall (w : World) (f : Hall → Hall) (r : RingId) : (w.onHall f).ring r = w.ring r := rfl

@[simp] theorem port_send (w : World) (q : PortId) (b : List Byte) (p : PortId) : (w.send q b).port p = w.port p := rfl

@[simp] theorem ring_send (w : World) (q : PortId) (b : List Byte) (r : RingId) : (w.send q b).ring r = w.ring r := rfl

/-- A port whose two ports are not paired stands alone (09 section 9.1). -/
theorem ringAt_linear {w : World} {p : PortId} (h : (w.ring (ringOfPort p)).state = .linear) : w.ringAt p = none := by
  have : paired w.chain (ringOfPort p) = false := Machine.paired_linear h
  simp [World.ringAt, this]

theorem root_linear {w : World} {p : PortId} (h : (w.ring (ringOfPort p)).state = .linear) : w.root p = p := by
  simp [World.root, ringAt_linear h]

theorem setPortState_linear {w : World} {p : PortId} (h : (w.ring (ringOfPort p)).state = .linear) (st : PortState) :
    w.setPortState p st = w.updPort p fun x => { x with state := st } := by
  simp [World.setPortState, ringAt_linear h]

theorem ringOfPort_primary (r : RingId) : ringOfPort (primaryPort r) = r := by
  revert r
  decide

theorem ringAt_primary {w : World} {r : RingId} (h : (w.ring r).state ≠ .linear) :
    w.ringAt (primaryPort r) = some r := by
  have : paired w.chain r = true := by
    simpa [paired, World.ring] using h
  simp [World.ringAt, ringOfPort_primary, this]

theorem releaseWhenFree_linear {w : World} {p : PortId} (h : (w.ring (ringOfPort p)).state = .linear) :
    w.releaseWhenFree p = w.release p := by
  simp [World.releaseWhenFree, ringAt_linear h]

theorem sendRelease_linear {w : World} {p : PortId} (h : (w.ring (ringOfPort p)).state = .linear) :
    w.sendRelease p = w.send p releaseAllFrame := by
  simp [World.sendRelease, ringAt_linear h]

/-! ## Poll entries -/

/-- An entry rewritten at its own address is found again there. -/
theorem find_entry (es : List PollEntry) (a : Nat) (f : PollEntry → PollEntry) (keep : ∀ e, (f e).address = e.address) :
    (es.map fun e => if e.address = a then f e else e).find? (fun e => e.address = a) =
      (es.find? fun e => e.address = a).map f := by
  induction es with
  | nil => rfl
  | cons e es ih =>
    by_cases h : e.address = a
    · simp [h, keep]
    · simp [h, ih]

/-- The entry of a port at an address after an update of that entry. -/
theorem entry_updEntry (w : World) (p : PortId) (a : Nat) (f : PollEntry → PollEntry)
    (keep : ∀ e, (f e).address = e.address) : (w.updEntry p a f).entry? p a = (w.entry? p a).map f := by
  simp only [World.entry?, World.updEntry, port_updPort_self]
  exact find_entry _ a f keep

end World

end Sys2Proof
end

