-- ==== Sys2Proof/Laws/Chains.lean ====
section
/-! SUPPORT. What no operation of the Chain Controller and of the Seat Table reaches: the session clock, the layout, and the
settings of the hall. One lemma per operation. -/

namespace Sys2Proof

/-! ## Seat operations keep the settings of the hall -/

theorem settings_updSeat (h : Hall) (n : SeatId) (f : Seat → Seat) : (h.updSeat n f).settings = h.settings := by
  unfold Hall.updSeat
  split <;> rfl

theorem settings_mark (h : Hall) (n : SeatId) : (h.mark n).settings = h.settings := (Steady.mark h n).settings

theorem settings_setReach (h : Hall) (n : SeatId) (x : Reach) : (h.setReach n x).settings = h.settings := by
  unfold Hall.setReach
  split
  · split
    · rfl
    · exact (settings_mark _ n).trans (settings_updSeat h n _)
  · rfl

theorem settings_setLink (h : Hall) (n : SeatId) (l : Link) : (h.setLink n l).settings = h.settings :=
  (settings_mark _ n).trans (settings_updSeat h n _)

theorem settings_restoreLink (now : Clock) (h : Hall) (n : SeatId) (r : Seat) :
    (h.restoreLink now n r).settings = h.settings := by
  unfold Hall.restoreLink
  split
  · rfl
  · exact ((Steady.recompose _ n).settings.trans ((Steady.deskLinkRegained _ n).settings.trans
      (Steady.speechLink now _ n false).settings)).trans (settings_setLink h n _)
  · exact settings_setLink h n _

theorem settings_takeSlot (h : Hall) (n : SeatId) (slot : ListenSlot) : (h.takeSlot n slot).settings = h.settings := by
  unfold Hall.takeSlot
  split
  · split
    · rfl
    · exact (Steady.retuneSeat _ n).settings.trans ((settings_mark _ n).trans (settings_updSeat h n _))
  · rfl

theorem settings_setBadge (h : Hall) (n : SeatId) (b : Option Badge) : (h.setBadge n b).settings = h.settings :=
  (settings_mark _ n).trans (settings_updSeat h n _)

theorem settings_dropBadge (now : Clock) (h : Hall) (n : SeatId) : (h.dropBadge now n).settings = h.settings := by
  unfold Hall.dropBadge
  simp only []
  split
  · exact (Steady.badgeRemoved now _ n).settings.trans (settings_setBadge h n none)
  · exact settings_setBadge h n none

theorem settings_takeBadge (now : Clock) (h : Hall) (n : SeatId) (b : Option Badge) :
    (h.takeBadge now n b).settings = h.settings := by
  unfold Hall.takeBadge
  split
  · split
    · rfl
    · exact settings_setBadge h n _
    · exact settings_dropBadge now h n
    · split
      · rfl
      · exact (settings_setBadge _ n _).trans (settings_dropBadge now h n)
  · rfl

theorem settings_onFloor (h : Hall) (r : Seat) (k : FloorId → KeyTaken)
    (s : ∀ f, (k f).hall.settings = h.settings) : (h.onFloor r k).hall.settings = h.settings := by
  unfold Hall.onFloor
  repeat' split
  all_goals first | rfl | exact s _

theorem settings_onDesk (h : Hall) (r : Seat) (k : DeskFields → KeyTaken)
    (s : ∀ d, (k d).hall.settings = h.settings) : (h.onDesk r k).hall.settings = h.settings := by
  unfold Hall.onDesk
  repeat' split
  all_goals first | rfl | exact s _

theorem settings_micKey (now : Clock) (h : Hall) (n : SeatId) (r : Seat) (f : FloorId) :
    (h.micKey now n r f).hall.settings = h.settings := by
  unfold Hall.micKey
  repeat' split
  all_goals first | rfl | exact (Steady.mic now h f n _).settings

theorem settings_taken {h g : Hall} (k : Steady h g) : (taken g).hall.settings = h.settings := k.settings

theorem settings_handKey (now : Clock) (h : Hall) (n : SeatId) (r : Seat) (k : KeyEvent) :
    (h.handKey now n r k).hall.settings = h.settings := by
  unfold Hall.handKey
  split
  · rfl
  · split
    · exact settings_onFloor h r _ (settings_micKey now h n r)
    · exact (Steady.cancel now h n).settings
    · exact settings_onFloor h r (h.nextKey now) fun f => (Steady.nextKey now h f).settings
    · exact settings_onFloor h r (fun f => taken (h.priorityDown now f n)) fun f =>
        settings_taken (Steady.priorityDown now h f n)
    · exact settings_taken (Steady.leaveHolders h n)
    · exact settings_onDesk h r (h.deskOn n) fun d => (Steady.deskOn h n d).settings
    · exact settings_onDesk h r (fun _ => taken (h.deskLeaves n .deskOff)) fun _ =>
        settings_taken (Steady.deskLeaves h n .deskOff)
    · exact settings_onDesk h r (fun d => h.selectOut n d .a) fun d => (Steady.selectOut h n d .a).settings
    · exact settings_onDesk h r (fun d => h.selectOut n d .b) fun d => (Steady.selectOut h n d .b).settings
    · exact settings_onDesk h r (fun d => h.relayKey n d (relayArgOf _)) fun d => (Steady.relayKey h n d _).settings

theorem settings_refuseKey (h : Hall) (n : SeatId) (c : KeyRefusal) : (h.refuseKey n c).settings = h.settings :=
  (Steady.recompose _ n).settings.trans ((settings_mark _ n).trans (settings_updSeat h n _))

theorem settings_takeKey (now : Clock) (n : SeatId) (h : Hall) (k : KeyEvent) :
    (h.takeKey now n k).settings = h.settings := by
  unfold Hall.takeKey
  split
  · simp only []
    split
    · exact (Steady.arbitrate now _).settings.trans
        ((settings_refuseKey _ n _).trans (settings_handKey now h n _ k))
    · exact (Steady.arbitrate now _).settings.trans (settings_handKey now h n _ k)
  · rfl

theorem settings_seatAnswered (now : Clock) (h : Hall) (n : SeatId) (via : Reach) (slot : ListenSlot)
    (badge : Option Badge) (keys : List KeyEvent) :
    (h.seatAnswered now n via slot badge keys).settings = h.settings := by
  unfold Hall.seatAnswered
  split
  · exact (foldl_keeps (part := Hall.settings) (settings_takeKey now n) keys _).trans
      ((settings_takeBadge now _ n badge).trans ((settings_takeSlot _ n slot).trans
        ((settings_restoreLink now _ n _).trans (settings_setReach h n via))))
  · rfl

theorem settings_seatMissing (now : Clock) (h : Hall) (n : SeatId) :
    (h.seatMissing now n).settings = h.settings := by
  unfold Hall.seatMissing
  split
  · split
    · exact (Steady.deskLinkLost _ n).settings.trans ((Steady.speechLink now _ n true).settings.trans
        ((Steady.raise _ _).settings.trans (settings_setLink h n _)))
    · rfl
  · rfl

theorem settings_graceExpires (now : Clock) (h : Hall) (n : SeatId) :
    (h.graceExpires now n).settings = h.settings := by
  unfold Hall.graceExpires
  split
  · split
    · refine (Steady.recompose _ n).settings.trans ((Steady.deskLeaves _ n _).settings.trans ?_)
      split
      · exact (Steady.speechGone now _ n _ _).settings.trans
          ((settings_mark _ n).trans (settings_updSeat h n _))
      · exact (settings_mark _ n).trans (settings_updSeat h n _)
    · rfl
  · rfl

theorem settings_withSeats (h : Hall) (x : Tbl SeatPos 256) : { h with seats := x }.settings = h.settings := rfl

theorem settings_retire (now : Clock) (h : Hall) (n : SeatId) (c : RetireCause) :
    (h.retire now n c).settings = h.settings := by
  unfold Hall.retire
  simp only []
  rw [settings_mark, settings_withSeats, (Steady.deskRetired _ n _).settings, (Steady.speechGone now h n _ _).settings]

theorem settings_unreserve (h : Hall) (n : SeatId) : (h.unreserve n).settings = h.settings := by
  unfold Hall.unreserve
  split <;> rfl

theorem settings_makeSeat (h : Hall) (n : SeatId) (p : PortId) (a : Nat) (k : UnitKind) :
    (h.makeSeat n p a k).settings = h.settings := settings_mark _ n

/-! ## Chain operations keep clock, layout and settings -/

/-- What the Chain Controller keeps of the world. -/
structure Aside (w v : World) : Prop where
  clock : v.clock = w.clock
  layout : v.layout = w.layout
  settings : v.hall.settings = w.hall.settings

namespace Aside

theorem refl (w : World) : Aside w w := ⟨rfl, rfl, rfl⟩

theorem trans {a b c : World} (x : Aside a b) (y : Aside b c) : Aside a c :=
  ⟨y.clock.trans x.clock, y.layout.trans x.layout, y.settings.trans x.settings⟩

theorem updPort (w : World) (p : PortId) (f : PortRec → PortRec) : Aside w (w.updPort p f) := ⟨rfl, rfl, rfl⟩

theorem updRing (w : World) (r : RingId) (f : RingRec → RingRec) : Aside w (w.updRing r f) := ⟨rfl, rfl, rfl⟩

theorem send (w : World) (p : PortId) (b : List Byte) : Aside w (w.send p b) := ⟨rfl, rfl, rfl⟩

theorem onHall (w : World) (f : Hall → Hall) (k : (f w.hall).settings = w.hall.settings) : Aside w (w.onHall f) :=
  ⟨rfl, rfl, k⟩

theorem raise (w : World) (i : AttnItem) : Aside w (w.onHall fun h => h.raise i) :=
  onHall w _ (Steady.raise _ i).settings

theorem setPortState (w : World) (p : PortId) (st : PortState) : Aside w (w.setPortState p st) := by
  unfold World.setPortState
  split
  · exact (updPort w _ _).trans (updPort _ _ _)
  · exact updPort w _ _

theorem updEntry (w : World) (p : PortId) (a : Nat) (f : PollEntry → PollEntry) : Aside w (w.updEntry p a f) :=
  updPort w p _

theorem allPrimary (w : World) (p : PortId) : Aside w (w.onHall fun h => h.allPrimary p) :=
  ⟨rfl, rfl, foldl_keeps (part := Hall.settings) (fun g n => settings_setReach g n .primary) _ w.hall⟩

theorem setRing (w : World) (r : RingId) (st : RingState) : Aside w (w.setRing r st) := by
  unfold World.setRing
  split
  · exact refl w
  · extract_lets g
    have k : Aside w g := ((updRing w r _).trans (updPort _ _ _)).trans (raise _ _)
    clear_value g
    split
    · exact k.trans (allPrimary g _)
    · exact k

theorem startLoop (w : World) (r : RingId) : Aside w (w.startLoop r) := by
  unfold World.startLoop
  split
  · exact refl w
  · exact (updRing w r _).trans (send _ _ _)

theorem setPeriodic (w : World) (r : RingId) : Aside w (w.setPeriodic r) := updRing w r _

theorem reportMissing (w : World) (p : PortId) (a : Nat) : Aside w (w.reportMissing p a) := by
  unfold World.reportMissing
  split
  · split
    · exact refl w
    · exact (updEntry w p a _).trans (onHall _ _ (settings_seatMissing _ _ _))
  · exact refl w

theorem reportCounted (w : World) (p : PortId) : Aside w (w.reportCounted p) :=
  foldl_rel refl (fun _ _ _ => trans) (fun g a => reportMissing g p a) _ w

theorem counted (w : World) (p : PortId) (ex : Exchange) (due : Bool) :
    Aside w (if due = true then (w.updEntry p ex.address fun e => e.missed ex.via).reportMissing p ex.address
      else w.updEntry p ex.address fun e => e.missed ex.via) := by
  split
  · exact (updEntry w p _ _).trans (reportMissing _ p _)
  · exact updEntry w p _ _

theorem testOnMiss (w : World) (p : PortId) (via : Reach) : Aside w (w.testOnMiss p via) := by
  unfold World.testOnMiss
  split
  · exact startLoop w _
  · exact refl w

theorem countMiss (w : World) (p : PortId) (ex : Exchange) : Aside w (w.countMiss p ex) := by
  unfold World.countMiss
  extract_lets g due v
  have k : Aside w v := counted w p ex due
  clear_value v
  split
  · exact k.trans (updPort v p _)
  · exact k.trans (testOnMiss v p _)

theorem noteTest (w : World) (p : PortId) (ex : Exchange) (b : Bool) : Aside w (w.noteTest p ex b) := by
  unfold World.noteTest
  split
  · exact updRing w _ _
  · exact refl w

theorem testMiss (w : World) (p : PortId) (ex : Exchange) : Aside w (w.testMiss p ex) :=
  (noteTest w p ex false).trans (testOnMiss _ p ex.via)

theorem abandonTest (w : World) (p : PortId) : Aside w (w.abandonTest p) := updRing w _ _

theorem settleTest (w : World) (p : PortId) : Aside w (w.settleTest p) := by
  unfold World.settleTest
  repeat' split
  all_goals first | exact refl w | exact (updRing w _ _).trans (raise _ _)

theorem setStage (w : World) (p : PortId) (st : EnrolStage) : Aside w (w.setStage p st) := updPort w p _

theorem settleRing (w : World) (r : RingId) (res : EnrolResult) (st : PortState) : Aside w (w.settleRing r res st) := by
  unfold World.settleRing
  split
  all_goals first | exact setRing w r _ | exact startLoop w r

theorem endEnrol (w : World) (p : PortId) (res : EnrolResult) : Aside w (w.endEnrol p res) := by
  unfold World.endEnrol
  split
  · exact refl w
  · simp only []
    split
    · exact ((updPort w p _).trans (setPortState _ p _)).trans
        (((setPeriodic _ _).trans (settleRing _ _ _ _)).trans (raise _ _))
    · exact ((updPort w p _).trans (setPortState _ p _)).trans (raise _ _)

theorem unreserve (w : World) (n : SeatId) : Aside w (w.unreserve n) := onHall w _ (settings_unreserve _ n)

theorem extendReady (w : World) (p : PortId) : Aside w (w.extendReady p) := by
  unfold World.extendReady
  repeat' split
  all_goals first | exact refl w | exact endEnrol w p _ | exact setStage w p _

theorem afterRetiring (w : World) (p : PortId) (e : Enrolment) : Aside w (w.afterRetiring p e) := by
  unfold World.afterRetiring
  split
  · exact endEnrol w p _
  · exact setStage w p _

theorem finishReset (w : World) (p : PortId) : Aside w (w.finishReset p) := by
  unfold World.finishReset
  simp only []
  split
  · exact ((updPort w p _).trans (setPortState _ p _)).trans (setRing _ _ _)
  · exact (updPort w p _).trans (setPortState _ p _)

theorem settle (w : World) (p : PortId) : Aside w (w.settle p) := by
  unfold World.settle
  repeat' split
  all_goals first
    | exact refl w
    | exact finishReset w p
    | exact afterRetiring w p _
    | exact setStage w p _
    | exact settleTest w p

theorem sendRelease (w : World) (p : PortId) : Aside w (w.sendRelease p) := by
  unfold World.sendRelease
  split
  · exact (send w _ _).trans (send _ _ _)
  · exact send w _ _

theorem release (w : World) (p : PortId) : Aside w (w.release p) :=
  ((sendRelease w p).trans (updPort _ p _)).trans (settle _ p)

theorem releaseWhenFree (w : World) (p : PortId) : Aside w (w.releaseWhenFree p) := by
  unfold World.releaseWhenFree
  split
  · exact updPort w p _
  · exact release w p

theorem seatMade (w : World) (p : PortId) (n : SeatId) (k : UnitKind) : Aside w (w.seatMade p n k) := by
  unfold World.seatMade
  split
  · exact (updPort w p _).trans (onHall _ _ (settings_makeSeat _ _ _ _ _))
  · exact refl w

theorem afterSeat (w : World) (p : PortId) : Aside w (w.afterSeat p) := by
  unfold World.afterSeat
  repeat' split
  all_goals first | exact refl w | exact endEnrol w p _ | exact updPort w p _

theorem endUnmade (w : World) (p : PortId) (n : SeatId) (res : EnrolResult) : Aside w (w.endUnmade p n res) :=
  (unreserve w n).trans (endEnrol _ p _)

theorem assignSilent (w : World) (p : PortId) (n : SeatId) : Aside w (w.assignSilent p n) := endUnmade w p n _

theorem loopResult (w : World) (r : RingId) (b : Bool) : Aside w (w.loopResult r b) := by
  unfold World.loopResult
  split
  all_goals first | exact refl w | exact reportCounted w _ | exact setRing w r _

theorem afterLoop (w : World) (p : PortId) (b : Bool) : Aside w (w.afterLoop p b) := by
  unfold World.afterLoop
  repeat' split
  all_goals first
    | exact release w p
    | exact extendReady w p
    | exact endEnrol w p _
    | exact settle w p

theorem loopEnded (w : World) (r : RingId) (b : Bool) : Aside w (w.loopEnded r b) := by
  unfold World.loopEnded
  split
  · exact (((updRing w r _).trans (loopResult _ r b)).trans (setPeriodic _ r)).trans (afterLoop _ _ b)
  · exact refl w

theorem beginPoll (w : World) (p : PortId) (ex : Exchange) : Aside w (w.beginPoll p ex) := by
  unfold World.beginPoll
  repeat' split
  all_goals first | exact refl w | exact (send w _ _).trans (updPort _ p _)

theorem takeReply (w : World) (p : PortId) (ex : Exchange) (r : Reply) : Aside w (w.takeReply p ex r) := by
  unfold World.takeReply
  split
  · exact (updEntry w p _ _).trans (onHall _ _ (settings_seatAnswered _ _ _ _ _ _ _))
  · exact refl w

theorem afterPoll (w : World) (p : PortId) (ex : Exchange) : Aside w (w.afterPoll p ex) := updPort w p _

theorem exchangeEnded (w : World) (p : PortId) (ex : Exchange) (a : Option Reply) : Aside w (w.exchangeEnded p ex a) := by
  unfold World.exchangeEnded
  simp only []
  split
  · exact (updPort w p _).trans (((seatMade _ p _ _).trans (takeReply _ p ex _)).trans (afterSeat _ p))
  · exact (updPort w p _).trans (assignSilent _ p _)
  · exact (updPort w p _).trans
      ((((takeReply _ p ex _).trans (noteTest _ p ex true)).trans (afterPoll _ p ex)).trans (settle _ p))
  · split
    · exact (updPort w p _).trans (((testMiss _ p ex).trans (afterPoll _ p ex)).trans (settle _ p))
    · exact (updPort w p _).trans (((countMiss _ p ex).trans (afterPoll _ p ex)).trans (settle _ p))

theorem replyArrives (w : World) (p : PortId) (r : Reply) : Aside w (w.replyArrives p r) := by
  unfold World.replyArrives
  split
  · exact exchangeEnded w _ _ _
  · exact refl w

theorem windowCloses (w : World) (p : PortId) : Aside w (w.windowCloses p) := by
  unfold World.windowCloses
  split
  · exact exchangeEnded w _ _ _
  · exact refl w

theorem probe (w : World) (p : PortId) (n : SeatId) (a : Nat) : Aside w (w.probe p n a) :=
  ((send w p _).trans (setStage _ p _)).trans (updPort _ p _)

theorem ackArrives (w : World) (p : PortId) (a : Nat) (k : UnitKind) : Aside w (w.ackArrives p a k) := by
  unfold World.ackArrives
  repeat' split
  all_goals first | exact refl w | exact (seatMade w p _ k).trans (afterSeat _ p) | exact probe w p _ _

theorem badAnswer (w : World) (p : PortId) (b : List Byte) : Aside w (w.badAnswer p b) := by
  unfold World.badAnswer
  split
  all_goals first | exact refl w | exact probe w p _ _ | exact ackArrives w p _ _

theorem assign (w : World) (p : PortId) : Aside w (w.assign p) := by
  unfold World.assign
  repeat' split
  all_goals first
    | exact refl w
    | exact endEnrol w p _
    | exact ((onHall w _ rfl).trans (setStage _ p _)).trans (send _ p _)

theorem enrolling (w : World) (p : PortId) (e : Enrolment) : Aside w (w.enrolling p e) := by
  unfold World.enrolling
  simp only []
  split
  · exact (((abandonTest w p).trans (updPort _ p _)).trans (setPortState _ p _)).trans (setPeriodic _ _)
  · exact ((abandonTest w p).trans (updPort _ p _)).trans (setPortState _ p _)

theorem beginFull (w : World) (p : PortId) : Aside w (w.beginFull p) := by
  unfold World.beginFull
  simp only []
  split
  · exact ((enrolling w p _).trans (setRing _ _ _)).trans (releaseWhenFree _ p)
  · exact (enrolling w p _).trans (releaseWhenFree _ p)

theorem beginExtend (w : World) (p : PortId) : Aside w (w.beginExtend p) := by
  unfold World.beginExtend
  simp only []
  split
  · exact (enrolling w p _).trans (startLoop _ _)
  · exact (enrolling w p _).trans (extendReady _ p)

theorem abortEnrol (w : World) (p : PortId) (e : Enrolment) : Aside w (w.abortEnrol p e) := by
  unfold World.abortEnrol
  split
  all_goals first | exact updPort w p _ | exact (updPort w p _).trans (endEnrol _ p _)

theorem dropEnrol (w : World) (p : PortId) : Aside w (w.dropEnrol p) := by
  unfold World.dropEnrol
  split
  next e _ =>
    simp only []
    refine Aside.trans (b := e.stage.reserved.elim w w.unreserve) ?_ ((updPort _ p _).trans (raise _ _))
    cases e.stage.reserved with
    | none => exact refl w
    | some n => exact unreserve w n
  · exact refl w

theorem beginReset (w : World) (p : PortId) : Aside w (w.beginReset p) := by
  unfold World.beginReset
  simp only []
  split
  · exact ((((abandonTest w p).trans (updPort _ p _)).trans (setPortState _ p _)).trans (setPeriodic _ _)).trans
      ((dropEnrol _ p).trans (releaseWhenFree _ p))
  · exact (((abandonTest w p).trans (updPort _ p _)).trans (setPortState _ p _)).trans
      ((dropEnrol _ p).trans (releaseWhenFree _ p))

theorem retireSeat (w : World) (p : PortId) (n : SeatId) (c : RetireCause) : Aside w (w.retireSeat p n c) :=
  ((onHall w (fun h => h.retire w.clock n c) (settings_retire w.clock w.hall n c)).trans
    (updPort _ p fun x => x.stopPolling n)).trans (settle _ p)

theorem retireNext (w : World) (p : PortId) : Aside w (w.retireNext p) := by
  unfold World.retireNext
  split
  · split
    · exact retireSeat w p _ _
    · exact settle w p
  · exact refl w

end Aside

end Sys2Proof

namespace Sys2Proof.Machine

theorem withTarget_aside {w : World} {b : Byte} {k : PortId → Handled} (s : ∀ p, Aside w (k p).world) :
    Aside w (withTarget w b k).world := by
  unfold withTarget
  repeat' split
  all_goals first | exact Aside.refl w | exact s _

theorem request_aside {n : Nat} {code : Byte} {f : World → Handled} {s t : State} (k : ∀ w, Aside w (f w).world)
    (e : request n code f s = .next t) : Aside s.world t.world := by
  by_cases h : s.takes
  · rw [request_taken h] at e
    cases e
    exact k s.world
  · rw [request_untaken h] at e
    cases e
    exact Aside.refl _

theorem event_aside {f : World → World} {s t : State} (k : ∀ w, Aside w (f w)) (e : event f s = .next t) :
    Aside s.world t.world := by
  rw [event_next] at e
  cases e
  exact k s.world

/-! ## One theorem for each command of the Chain Controller, and for the expiry of a grace timer -/

theorem execPoll_aside {p : PortId} {s t : State} (e : execPoll p s = .next t) :
    Aside s.world t.world := by
  refine event_aside (fun w => ?_) e
  split
  · exact Aside.beginPoll w _ _
  · exact Aside.refl w

theorem execReply_aside {p : PortId} {r : Reply} {s t : State} (e : execReply p r s = .next t) :
    Aside s.world t.world := by
  exact event_aside (fun w => Aside.replyArrives w p r) e

theorem execPollMiss_aside {p : PortId} {b : List Byte} {s t : State} (e : execPollMiss p b s = .next t) :
    Aside s.world t.world := by
  refine event_aside (fun w => ?_) e
  split
  · exact Aside.replyArrives w p _
  · exact Aside.windowCloses w p

theorem execGraceExpiry_aside {n : SeatId} {s t : State} (e : execGraceExpiry n s = .next t) :
    Aside s.world t.world := by
  exact event_aside (f := fun w => inHall w (w.hall.graceExpires w.clock n))
    (fun w => ⟨rfl, rfl, settings_graceExpires w.clock w.hall n⟩) e

theorem execChainConfig_aside {r v : Byte} {s t : State} (e : execChainConfig r v s = .next t) :
    Aside s.world t.world := by
  refine request_aside (fun w => ?_) e
  split
  · split
    · exact Aside.refl w
    · unfold pairPorts unpairPorts
      repeat' split
      all_goals exact ⟨rfl, rfl, rfl⟩
  · exact Aside.refl w

theorem execEnrollFull_aside {b : Byte} {s t : State} (e : execEnrollFull b s = .next t) :
    Aside s.world t.world := by
  refine request_aside (fun w => withTarget_aside fun p => ?_) e
  split
  · exact Aside.refl w
  · dsimp only
    exact Aside.beginFull w p

theorem execEnrollExtend_aside {b : Byte} {s t : State} (e : execEnrollExtend b s = .next t) :
    Aside s.world t.world := by
  refine request_aside (fun w => withTarget_aside fun p => ?_) e
  split
  · exact Aside.refl w
  · split
    · exact Aside.refl w
    · dsimp only
      exact Aside.beginExtend w p

theorem execEnrollAbort_aside {b : Byte} {s t : State} (e : execEnrollAbort b s = .next t) :
    Aside s.world t.world := by
  refine request_aside (fun w => withTarget_aside fun p => ?_) e
  split
  · dsimp only [Machine.done]
    exact Aside.abortEnrol w p _
  · exact Aside.refl w

theorem execChainSeatRetire_aside {p : PortId} {s t : State} (e : execChainSeatRetire p s = .next t) :
    Aside s.world t.world := by
  refine event_aside (fun w => ?_) e
  split
  · exact Aside.retireNext w p
  · exact Aside.refl w

theorem execAssignStep_aside {p : PortId} {s t : State} (e : execAssignStep p s = .next t) :
    Aside s.world t.world := by
  exact event_aside (fun w => Aside.assign w p) e

theorem execAssignAck_aside {p : PortId} {a : Byte} {k : UnitKind} {s t : State} (e : execAssignAck p a k s = .next t) :
    Aside s.world t.world := by
  exact event_aside (fun w => Aside.ackArrives w p a.toNat k) e

theorem execAssignReturned_aside {r : RingId} {s t : State} (e : execAssignReturned r s = .next t) :
    Aside s.world t.world := by
  refine event_aside (fun w => ?_) e
  split
  · exact Aside.endUnmade w _ _ _
  · exact Aside.refl w

theorem execAssignBadAnswer_aside {p : PortId} {b : List Byte} {s t : State} (e : execAssignBadAnswer p b s = .next t) :
    Aside s.world t.world := by
  exact event_aside (fun w => Aside.badAnswer w p b) e

theorem execAssignTimeout_aside {p : PortId} {s t : State} (e : execAssignTimeout p s = .next t) :
    Aside s.world t.world := by
  refine event_aside (fun w => ?_) e
  split
  · exact Aside.assignSilent w p _
  · exact Aside.refl w

theorem execChainReset_aside {b : Byte} {s t : State} (e : execChainReset b s = .next t) :
    Aside s.world t.world := by
  refine request_aside (fun w => withTarget_aside fun p => ?_) e
  split
  · exact Aside.refl w
  · dsimp only
    exact Aside.beginReset w p

theorem execChainRead_aside {b a : Byte} {s t : State} (e : execChainRead b a s = .next t) :
    Aside s.world t.world := by
  refine request_aside (fun w => withTarget_aside fun p => ?_) e
  split
  · exact Aside.refl w
  · exact Aside.refl w

theorem execRingTest_aside {b : Byte} {s t : State} (e : execRingTest b s = .next t) :
    Aside s.world t.world := by
  refine request_aside (fun w => withTarget_aside fun p => ?_) e
  split
  · exact Aside.refl w
  · split
    · exact Aside.refl w
    · split
      · exact Aside.refl w
      · dsimp only
        exact (Aside.updRing w _ _).trans (Aside.startLoop _ _)

theorem execPeriodicLoopTest_aside {r : RingId} {s t : State} (e : execPeriodicLoopTest r s = .next t) :
    Aside s.world t.world := by
  refine event_aside (fun w => ?_) e
  split
  · dsimp only
    split
    · exact (Aside.updRing w _ _).trans (Aside.startLoop _ _)
    · exact Aside.updRing w _ _
  · exact Aside.refl w

theorem execLoopArrival_aside {r : RingId} {n : Byte} {s t : State} (e : execLoopArrival r n s = .next t) :
    Aside s.world t.world := by
  refine event_aside (fun w => ?_) e
  split
  · exact Aside.loopEnded w r true
  · exact Aside.refl w

theorem execLoopTimeout_aside {r : RingId} {s t : State} (e : execLoopTimeout r s = .next t) :
    Aside s.world t.world := by
  exact event_aside (fun w => Aside.loopEnded w r false) e

theorem execSeatRetire_aside {b : Half} {s t : State} (e : execSeatRetire b s = .next t) :
    Aside s.world t.world := by
  refine request_aside (fun w => ?_) e
  unfold withSeat
  split
  · exact Aside.refl w
  · split
    · dsimp only
      split
      · dsimp only [Machine.done]
        exact Aside.retireSeat w _ _ _
      · exact Aside.refl w
    · exact Aside.refl w

end Sys2Proof.Machine
end

