-- ==== Sys2Proof/Laws/PerInstr.lean ====
section
/-! SUPPORT. The family F: every well-formed command that is a request fits a frame the part takes, at most 48 argument bytes
(10 R174, 11 R185). One lemma for each constructor of Instr. -/

namespace Sys2Proof.Laws.F

/-- A well-formed request has at most 48 argument bytes. -/
def Statement (i : Instr) : Prop :=
  i.wellFormed = true → ∀ code args, requestArgs i = some (code, args) → args.length ≤ 48

/-- The bytes of BANK_WRITE items are three each. -/
theorem items_length (items : List BankItem) :
    (items.flatMap fun it => it.field :: halfBytes it.value).length = 3 * items.length := by
  induction items with
  | nil => rfl
  | cons it rest ih =>
    simp only [halfBytes] at ih ⊢
    simp only [List.flatMap_cons, List.length_append, ih, List.length_cons, List.length_nil]
    omega

/-- A request whose argument bytes are counted by computation. -/
theorem of_bytes {i : Instr} {c : Byte} {as : List Byte} (h : requestArgs i = some (c, as)) (k : as.length ≤ 48) :
    Statement i := by
  intro _ code args e
  rw [h] at e
  cases e
  exact k

/-- A command that is no request. -/
theorem of_none {i : Instr} (h : requestArgs i = none) : Statement i := by
  intro _ code args e
  rw [h] at e
  cases e

theorem layoutOpen (key : Half) : Statement (.layoutOpen key) := of_bytes rfl (by simp [halfBytes])

theorem layoutConfirm (key : Half) : Statement (.layoutConfirm key) := of_bytes rfl (by simp [halfBytes])

theorem layoutClose : Statement .layoutClose := of_bytes rfl (by simp)

theorem armWindowExpiry : Statement .armWindowExpiry := of_none rfl

theorem idleTimerExpiry : Statement .idleTimerExpiry := of_none rfl

theorem sectionSet (sec : Byte) (active : Byte) : Statement (.sectionSet sec active) :=
  of_bytes rfl (by simp)

theorem wallDefine (wall : Byte) (secA : Byte) (secB : Byte) (source : Byte) (line : Byte) (polarity : Byte)
    (settle : Byte) (policy : Byte) :
    Statement (.wallDefine wall secA secB source line polarity settle policy) :=
  of_bytes rfl (by simp)

theorem wallRemove (wall : Byte) : Statement (.wallRemove wall) := of_bytes rfl (by simp)

theorem wallSet (wall : Byte) (pos : Byte) : Statement (.wallSet wall pos) := of_bytes rfl (by simp)

theorem wallRead (wall : Byte) : Statement (.wallRead wall) := of_bytes rfl (by simp)

theorem mergeConfirm (wall : Byte) : Statement (.mergeConfirm wall) := of_bytes rfl (by simp)

theorem mergeRefuse (wall : Byte) : Statement (.mergeRefuse wall) := of_bytes rfl (by simp)

theorem wallLineChange (line : LineId) (high : Bool) : Statement (.wallLineChange line high) := of_none rfl

theorem settleTimerExpiry (wall : WallId) : Statement (.settleTimerExpiry wall) := of_none rfl

theorem seatPlace (seat : Half) (sec : Byte) : Statement (.seatPlace seat sec) :=
  of_bytes rfl (by simp [halfBytes])

theorem seatRole (seat : Half) (role : Byte) : Statement (.seatRole seat role) :=
  of_bytes rfl (by simp [halfBytes])

theorem seatRead (seat : Half) : Statement (.seatRead seat) := of_bytes rfl (by simp [halfBytes])

theorem seatFind (key : FindKey) : Statement (.seatFind key) := by
  cases key with
  | place p a => exact of_bytes rfl (by simp)
  | card code => exact of_bytes rfl (by simp [wordBytes])

theorem seatRetire (seat : Half) : Statement (.seatRetire seat) := of_bytes rfl (by simp [halfBytes])

theorem maskSet (role : Byte) (keys : Byte) : Statement (.maskSet role keys) := of_bytes rfl (by simp)

theorem rosterChanges : Statement .rosterChanges := of_bytes rfl (by simp)

theorem floorOpen (floor : Byte) (anchor : Byte) (precedence : Byte) : Statement (.floorOpen floor anchor precedence) :=
  of_bytes rfl (by simp)

theorem floorClose (floor : Byte) : Statement (.floorClose floor) := of_bytes rfl (by simp)

theorem floorSet (floor : Byte) (precedence : Byte) : Statement (.floorSet floor precedence) :=
  of_bytes rfl (by simp)

theorem floorRead (floor : Byte) : Statement (.floorRead floor) := of_bytes rfl (by simp)

theorem bankWrite (floor : Byte) (items : List BankItem) : Statement (.bankWrite floor items) := by
  intro w code args e
  cases e
  simp only [Instr.wellFormed, bankItemsFit, Bool.and_eq_true, decide_eq_true_eq] at w
  simp only [List.length_cons, items_length]
  omega

theorem bankRead (floor : Byte) (bank : Byte) : Statement (.bankRead floor bank) :=
  of_bytes rfl (by simp)

theorem bankSwapNormal (floor : Byte) : Statement (.bankSwapNormal floor) := of_bytes rfl (by simp)

theorem bankSwapForce (floor : Byte) : Statement (.bankSwapForce floor) := of_bytes rfl (by simp)

theorem bankCancel (floor : Byte) : Statement (.bankCancel floor) := of_bytes rfl (by simp)

theorem grant (floor : Byte) (seat : Half) (displace : Byte) : Statement (.grant floor seat displace) :=
  of_bytes rfl (by simp [halfBytes])

theorem closeMic (seat : Half) : Statement (.closeMic seat) := of_bytes rfl (by simp [halfBytes])

theorem queueInsert (floor : Byte) (seat : Half) (position : Byte) : Statement (.queueInsert floor seat position) :=
  of_bytes rfl (by simp [halfBytes])

theorem queueRemove (seat : Half) : Statement (.queueRemove seat) := of_bytes rfl (by simp [halfBytes])

theorem queueClear (floor : Byte) : Statement (.queueClear floor) := of_bytes rfl (by simp)

theorem floorPriorityOn (floor : Byte) : Statement (.floorPriorityOn floor) := of_bytes rfl (by simp)

theorem floorPriorityOff (floor : Byte) : Statement (.floorPriorityOff floor) :=
  of_bytes rfl (by simp)

theorem speakersRead (floor : Byte) : Statement (.speakersRead floor) := of_bytes rfl (by simp)

theorem queueRead (floor : Byte) (first : Byte) : Statement (.queueRead floor first) :=
  of_bytes rfl (by simp)

theorem boothAssign (booth : Byte) (floor : Byte) : Statement (.boothAssign booth floor) :=
  of_bytes rfl (by simp)

theorem boothOutput (booth : Byte) (output : Byte) (language : Byte) (channel : Byte) :
    Statement (.boothOutput booth output language channel) :=
  of_bytes rfl (by simp)

theorem boothOutputClear (booth : Byte) (output : Byte) : Statement (.boothOutputClear booth output) :=
  of_bytes rfl (by simp)

theorem boothAddDesk (booth : Byte) (seat : Half) : Statement (.boothAddDesk booth seat) :=
  of_bytes rfl (by simp [halfBytes])

theorem boothRemoveDesk (booth : Byte) (seat : Half) : Statement (.boothRemoveDesk booth seat) :=
  of_bytes rfl (by simp [halfBytes])

theorem boothSet (booth : Byte) (policy : Byte) (delay : Byte) : Statement (.boothSet booth policy delay) :=
  of_bytes rfl (by simp)

theorem boothRelease (booth : Byte) : Statement (.boothRelease booth) := of_bytes rfl (by simp)

theorem boothRead (booth : Byte) : Statement (.boothRead booth) := of_bytes rfl (by simp)

theorem channelRead (channel : Byte) : Statement (.channelRead channel) := of_bytes rfl (by simp)

theorem routeFrameDone : Statement .routeFrameDone := of_none rfl

theorem holdActive : Statement .holdActive := of_none rfl

theorem holdInactive : Statement .holdInactive := of_none rfl

theorem sessionTick : Statement .sessionTick := of_none rfl

theorem turnTimerZeroCut (seat : SeatId) : Statement (.turnTimerZeroCut seat) := of_none rfl

theorem turnTimerZeroWarn (seat : SeatId) : Statement (.turnTimerZeroWarn seat) := of_none rfl

theorem flashEnd (seat : SeatId) : Statement (.flashEnd seat) := of_none rfl

theorem clockRead : Statement .clockRead := of_bytes rfl (by simp)

theorem poll (port : PortId) : Statement (.poll port) := of_none rfl

theorem reply (port : PortId) (r : Reply) : Statement (.reply port r) := of_none rfl

theorem pollMiss (port : PortId) (frame : List Byte) : Statement (.pollMiss port frame) := of_none rfl

theorem graceExpiry (seat : SeatId) : Statement (.graceExpiry seat) := of_none rfl

theorem fallbackDelayExpiry (booth : BoothId) (output : Out) : Statement (.fallbackDelayExpiry booth output) :=
  of_none rfl

theorem chainConfig (ring : Byte) (value : Byte) : Statement (.chainConfig ring value) :=
  of_bytes rfl (by simp)

theorem enrollFull (target : Byte) : Statement (.enrollFull target) := of_bytes rfl (by simp)

theorem enrollExtend (target : Byte) : Statement (.enrollExtend target) := of_bytes rfl (by simp)

theorem enrollAbort (target : Byte) : Statement (.enrollAbort target) := of_bytes rfl (by simp)

theorem chainSeatRetire (port : PortId) : Statement (.chainSeatRetire port) := of_none rfl

theorem assignStep (port : PortId) : Statement (.assignStep port) := of_none rfl

theorem assignAck (port : PortId) (address : Byte) (kind : UnitKind) : Statement (.assignAck port address kind) :=
  of_none rfl

theorem assignReturned (ring : RingId) : Statement (.assignReturned ring) := of_none rfl

theorem assignBadAnswer (port : PortId) (frame : List Byte) : Statement (.assignBadAnswer port frame) :=
  of_none rfl

theorem assignTimeout (port : PortId) : Statement (.assignTimeout port) := of_none rfl

theorem chainReset (target : Byte) : Statement (.chainReset target) := of_bytes rfl (by simp)

theorem chainRead (target : Byte) (first : Byte) : Statement (.chainRead target first) :=
  of_bytes rfl (by simp)

theorem ringTest (target : Byte) : Statement (.ringTest target) := of_bytes rfl (by simp)

theorem periodicLoopTest (ring : RingId) : Statement (.periodicLoopTest ring) := of_none rfl

theorem loopArrival (ring : RingId) (number : Byte) : Statement (.loopArrival ring number) := of_none rfl

theorem loopTimeout (ring : RingId) : Statement (.loopTimeout ring) := of_none rfl

theorem answerRead (bytes : Nat) : Statement (.answerRead bytes) := of_none rfl

theorem requestFrameRefused (bytes : List Byte) : Statement (.requestFrameRefused bytes) := of_none rfl

theorem writeDiscarded : Statement .writeDiscarded := of_none rfl

theorem readAttention : Statement .readAttention := of_bytes rfl (by simp)

theorem attentionMask (kinds : Half) : Statement (.attentionMask kinds) := of_bytes rfl (by simp [halfBytes])

theorem hallReset (confirmation : Half) : Statement (.hallReset confirmation) :=
  of_bytes rfl (by simp [halfBytes])

theorem hallResetFloorClose : Statement .hallResetFloorClose := of_none rfl

theorem hallResetSeatRefresh : Statement .hallResetSeatRefresh := of_none rfl

theorem hallResetRouteRefill : Statement .hallResetRouteRefill := of_none rfl

theorem hallResetAttentionClear : Statement .hallResetAttentionClear := of_none rfl

theorem identify : Statement .identify := of_bytes rfl (by simp)

theorem deviceReset : Statement .deviceReset := of_none rfl

theorem chipSelectAsserted : Statement .chipSelectAsserted := of_none rfl

end Sys2Proof.Laws.F
end

