-- ==== Sys2Proof/Tests/Slice0.lean ====
section
/-! SUPPORT. Tests: the checks of WellFormed, frames written out from the spec, one step of the commands on small states, and
for every statement with hypotheses a state and operands that meet them together (`test_meets_<name>`). -/

namespace Sys2Proof.Tests

open Sys2Proof Sys2Proof.Machine

set_option maxRecDepth 100000

/-! ## Small states -/

def withLayout (l : Layout) : State :=
  { State.reset with world := { World.reset with layout := l } }

def withHall (h : Hall) : State :=
  { State.reset with world := { World.reset with layout := { Layout.reset with active := 0xFFF#12 }, hall := h } }

def withPort (p : HostPort) : State :=
  { State.reset with port := p }

/-- Every section active, the lock LOCKED. -/
def plan : Layout :=
  { Layout.reset with active := 0xFFF#12 }

def openPlan : Layout :=
  { plan with lock := .opened 7#16 299 }

def armedPlan : Layout :=
  { plan with lock := .armed 7#16 49 }

/-- A REQUEST wall between sections 11 and 12, closed. -/
def door : Wall where
  secA := 10
  secB := 11
  source := .request
  settle := 4
  policy := .auto
  sensed := .closed
  applied := .closed
  merge := .idle
  settleLeft := none

/-- A LINE wall on line 15 between the same sections, whose line reports OPEN. -/
def curtain : Wall :=
  { door with source := .line 15 .openWhenHigh, settle := 20, settleLeft := some 7 }

def doorAt (i : WallId) (x : Wall) (l : Layout) : Layout :=
  { l with walls := l.walls.set i (some x) }

def delegate : Seat :=
  { Seat.made 0 1 .delegateUnit with place := some 0 }

def chair : Seat :=
  { Seat.made 0 2 .chairUnit with place := some 0 }

def desk : Seat :=
  Seat.made 0 3 .deskUnit

def seated (n : SeatId) (r : Seat) (h : Hall) : Hall :=
  { h with seats := h.seats.set n (.held r) }

def session : Session :=
  ⟨0, 3, 0, { Bank.initial with autoAdvance := false }, Bank.initial, .a⟩

def liveFloor : Floor :=
  { Floor.reset with state := .live, sess := some session, members := 1#12 }

/-- Floor 6 LIVE with the given record, its original channel 0, a delegate at seat 256 and a chair at seat 1. -/
def hallOf (f : Floor) : Hall :=
  { Hall.reset with
    seats := ((Tbl.fill 256 .free).set 255 (.held delegate)).set 0 (.held chair)
    floors := (Tbl.fill 6 Floor.reset).set 5 f
    channels := (Tbl.fill 32 Channel.reset).set 0 ⟨some ⟨.owned, 5, some 0, .original⟩, .floorMix 5⟩ }

def turn : Speaker :=
  ⟨255, .delegate, 0, 0#32, false, false, none⟩

def speaking : Floor :=
  { liveFloor with speakers := [turn] }

def timer : Timer :=
  ⟨60, 1, 9, .cut, 0, .normal, 0, true⟩

def entry : PollEntry :=
  ⟨1, 255, 2, 0, false, true⟩

/-- Port 3 with the given record. -/
def chainOf (p : PortRec) : Chain :=
  { Chain.reset with ports := Chain.reset.ports.set 3 p }

def withChain (c : Chain) : State :=
  { State.reset with
    world := { World.reset with
      hall := seated 255 { delegate with port := 3 } Hall.reset, chain := c } }

def polled : PortRec :=
  { PortRec.reset with state := .running, entries := [entry], wait := some ⟨1, .primary, false⟩, cursor := 1 }

def enrolment (stage : EnrolStage) : Enrolment :=
  ⟨.full, 1, 0, none, none, stage, false⟩

def enrolling (stage : EnrolStage) : PortRec :=
  { PortRec.reset with state := .enrolling, enrol := some (enrolment stage) }

/-- Ring B paired with its primary port RUNNING. -/
def ringOf (r : RingRec) : Chain :=
  { Chain.reset with
    ports := Chain.reset.ports.set 2 { PortRec.reset with state := .running }
    rings := Chain.reset.rings.set 1 r }

def busyPort : HostPort :=
  { HostPort.reset with phase := .executing, hall := .closing }

/-- What a command leaves; every command answers a next state. -/
def ran (c : Instr) (s : State) : Option State :=
  match exec c s with
  | .next t => some t
  | _ => none

theorem no_wall (i : WallId) : plan.wall i = none := by
  simp [plan, Layout.wall, Layout.reset]

theorem no_seat (n : SeatId) : Hall.reset.seat? n = none := by
  simp [Hall.seat?, Hall.reset]

/-! ## Checks of the invariants on a written-out hall -/

/-- Decides SpeechInv. -/
def speechHolds (h : Hall) : Bool :=
  decide h.listed.Nodup &&
  ((List.finRange 6).all fun f =>
    (decide ((h.floor f).state = .live) || ((h.floor f).speakers.isEmpty && (h.floor f).queue.isEmpty)) &&
    decide ((h.floor f).delegates ≤ (h.floor f).bank.limit) &&
    decide ((h.floor f).queue.length ≤ (h.floor f).bank.cap) &&
    (h.floor f).speakers.all fun e => decide (h.slots.get e.slot = some ⟨e.seat, f, !e.muted⟩)) &&
  decide ((h.floors.rows.map fun f => f.queue.length).sum ≤ 96) &&
  (List.finRange 16).all fun k =>
    (h.slots.get k).elim true fun v => (h.floor v.floor).speakers.any fun e => decide (e.slot = k ∧ e.seat = v.seat)

theorem speechInv_of_holds {h : Hall} (c : speechHolds h = true) : SpeechInv h := by
  simp only [speechHolds, Bool.and_eq_true, Bool.or_eq_true, List.all_eq_true, List.mem_finRange, forall_const,
    decide_eq_true_eq, List.isEmpty_iff] at c
  obtain ⟨⟨⟨nodup, floors⟩, pool⟩, slots⟩ := c
  refine ⟨nodup, fun f hf => (floors f).1.1.1.resolve_left hf, fun f => ⟨(floors f).1.1.2, (floors f).1.2⟩, pool,
    fun f e he => (floors f).2 e he, fun k v hv => ?_⟩
  have hk := slots k
  rw [hv] at hk
  simpa [List.any_eq_true] using hk

/-- Decides the part of ChannelInv about one channel in use. -/
def channelFits (h : Hall) (c : ChannelId) (u : ChanUse) : Bool :=
  (match u.hold with
  | .owned => decide ((h.floor u.owner).state = .live)
  | .lent x => decide ((h.floor u.owner).state = .folded x)
  | .reserved => (h.floor u.owner).carrier?.isSome && decide (u.origin ≠ .original)) &&
  match u.origin with
  | .original => decide ((h.floor u.owner).original? = some c ∧ u.lang = if u.hold = .owned then some 0 else none)
  | .output b o => (h.output b o).use.elim false fun v =>
      decide (v.chan = c ∧ u.lang = some v.lang ∧ v.lang ≠ 0 ∧ (h.booths.get b).floor = some u.owner ∧
        (u.hold = .reserved ↔ v.state = .held))

theorem channelFits_sound {h : Hall} {c : ChannelId} {u : ChanUse} (k : channelFits h c u = true) :
    h.holdFits u ∧ h.originFits c u := by
  unfold channelFits at k
  rw [Bool.and_eq_true] at k
  obtain ⟨hold, origin⟩ := k
  constructor
  · unfold Hall.holdFits
    cases e : u.hold <;> rw [e] at hold
    · simpa using hold
    · simpa using hold
    · simp only [Bool.and_eq_true, decide_eq_true_eq] at hold
      refine ⟨?_, hold.2⟩
      have some? := hold.1
      unfold Floor.carrier? at some?
      cases st : (h.floor u.owner).state with
      | folded x => exact ⟨x, rfl⟩
      | live => simp [st] at some?
      | closed => simp [st] at some?
  · unfold Hall.originFits
    cases e : u.origin <;> rw [e] at origin
    · simpa using origin
    · rename_i b o
      cases out : (h.output b o).use with
      | none => simp [out] at origin
      | some v => exact ⟨v, out, by simpa [out] using origin⟩

/-- Whether two channels with the same language are one, for channels picked by a test. -/
def oneEach (h : Hall) (p : ChannelId → Bool) : Bool :=
  (List.finRange 32).all fun c => !p c || (h.channels.get c).use.elim true fun u => u.lang.isNone ||
    (List.finRange 32).all fun d => !p d || (h.channels.get d).use.elim true fun v =>
      decide (v.lang = u.lang → c = d)

theorem oneEach_sound {h : Hall} {p : ChannelId → Bool} (k : oneEach h p = true) {c d : ChannelId} {u v : ChanUse}
    {l : Lang} (hc : p c = true) (hd : p d = true) (hu : (h.channels.get c).use = some u)
    (hv : (h.channels.get d).use = some v) (lu : u.lang = some l) (lv : v.lang = some l) : c = d := by
  simp only [oneEach, List.all_eq_true, List.mem_finRange, forall_const, Bool.or_eq_true, Bool.not_eq_true'] at k
  have kc := (k c).resolve_left (by simp [hc])
  rw [hu] at kc
  simp only [Option.elim_some, Bool.or_eq_true, List.all_eq_true, List.mem_finRange, forall_const] at kc
  have kd := (kc.resolve_left (by simp [lu]) d).resolve_left (by simp [hd])
  rw [hv] at kd
  exact of_decide_eq_true kd (by rw [lu, lv])

/-- Decides ChannelInv. -/
def channelsHold (h : Hall) : Bool :=
  ((List.finRange 32).all fun c =>
    (h.channels.get c).use.elim (decide ((h.channels.get c).content = .silence)) (channelFits h c)) &&
  ((List.finRange 6).all fun f =>
    decide ((h.floor f).state = .closed ↔ (h.floor f).sess = none) &&
    ((h.floor f).original?.elim true fun c =>
      (h.channels.get c).use.elim false fun u => decide (u.owner = f ∧ u.origin = .original)) &&
    ((h.floor f).carrier?.elim true fun x => decide ((h.floor x).state = .live)) &&
    oneEach h (fun c => h.inMap f (h.channels.get c)) &&
    oneEach h fun c => (h.channels.get c).use.elim false fun u => decide (u.owner = f)) &&
  ((List.finRange 12).all fun b =>
    ([Out.a, .b].all fun o => (h.output b o).use.elim true fun v =>
      (h.channels.get v.chan).use.elim false fun u => decide (u.origin = .output b o)) &&
    (h.booths.get b).floor.elim (decide ((h.output b .a).use = none ∧ (h.output b .b).use = none)) fun f =>
      decide ((h.floor f).state ≠ .closed)) &&
  (List.finRange 256).all fun n => (h.desk? n).elim true fun d => !d.live

theorem channelInv_of_holds {h : Hall} (c : channelsHold h = true) : ChannelInv h := by
  simp only [channelsHold, Bool.and_eq_true, List.all_eq_true, List.mem_finRange, forall_const,
    decide_eq_true_eq] at c
  obtain ⟨⟨⟨chans, floors⟩, booths⟩, desks⟩ := c
  refine ⟨fun d hd => ?_, fun d u hu => ?_, fun f => (floors f).1.1.1.1, fun f d hd => ?_, fun f x hx => ?_,
    fun b o v hv => ?_, fun b hb => ?_, fun b f hb => ?_, fun n d hd live => ?_, fun f l d e u v hd he hu hv lu lv => ?_,
    fun l d e u v hu hv own lu lv => ?_⟩
  · have k := chans d
    rw [hd] at k
    simpa using k
  · have k := chans d
    rw [hu] at k
    exact channelFits_sound k
  · have k := (floors f).1.1.1.2
    rw [hd] at k
    cases use : (h.channels.get d).use with
    | none => simp [use] at k
    | some u => exact ⟨u, rfl, by simpa [use] using k⟩
  · have k := (floors f).1.1.2
    simpa [Floor.carrier?, hx] using k
  · have k := (booths b).1 o (by cases o <;> simp)
    rw [hv] at k
    cases use : (h.channels.get v.chan).use with
    | none => simp [use] at k
    | some u => exact ⟨u, rfl, by simpa [use] using k⟩
  · have k := (booths b).2
    rw [hb] at k
    simpa using k
  · have k := (booths b).2
    rw [hb] at k
    simpa using k
  · have k := desks n
    rw [hd] at k
    simp [live] at k
  · exact oneEach_sound (floors f).1.2 hd he hu hv lu lv
  · exact oneEach_sound (floors u.owner).2 (c := d) (d := e) (by simp [hu]) (by simp [hv, own]) hu hv lu lv

/-! ## WellFormed -/

theorem test_bankWrite_without_item_is_ill_formed : (Instr.bankWrite 1#8 []).wellFormed = false := by decide

theorem test_bankWrite_of_sixteen_items_is_ill_formed :
    (Instr.bankWrite 1#8 (List.replicate 16 ⟨1#8, 1#16⟩)).wellFormed = false := by decide

theorem test_reply_of_five_events_is_ill_formed :
    (Instr.reply 0 ⟨1#8, true, .delegateUnit, 0, List.replicate 5 .mic, none⟩).wellFormed = false := by decide

theorem test_boothOutput_with_none_is_ill_formed :
    (Instr.boothOutput 1#8 0#8 0xFF#8 0xFF#8).wellFormed = false := by decide

theorem test_longest_commands_are_well_formed :
    (Instr.bankWrite 1#8 (List.replicate 15 ⟨1#8, 1#16⟩)).wellFormed = true ∧
    (Instr.reply 0 ⟨1#8, true, .delegateUnit, 0, List.replicate 4 .mic, none⟩).wellFormed = true ∧
    (Instr.boothOutput 1#8 0#8 250#8 0xFF#8).wellFormed = true := by decide

/-! ## Frames, with check bytes worked out apart from Lean (11 R184 to R186) -/

theorem test_frames_of_requests :
    judgeFrame [0x74#8, 0#8, 0xF5#8] = .request .identify ∧
    judgeFrame [0x72#8, 2#8, 0x4F#8, 0x12#8, 0x12#8] = .request (.hallReset 0x4F12#16) ∧
    judgeFrame [0x42#8, 4#8, 6#8, 1#8, 0#8, 2#8, 0x37#8] = .request (.queueInsert 6#8 256#16 2#8) ∧
    judgeFrame [0x22#8, 4#8, 1#8, 2#8, 3#8, 4#8, 0x9C#8] = .request (.seatFind (.card 0x01020304#32)) ∧
    judgeFrame [0x22#8, 2#8, 3#8, 0x40#8, 0x0C#8] = .request (.seatFind (.place 3#8 64#8)) ∧
    judgeFrame [0x36#8, 2#8, 1#8, 1#8, 0x0B#8] = .request (.bankSwapForce 1#8) ∧
    judgeFrame [0x51#8, 4#8, 12#8, 1#8, 0xFF#8, 0#8, 0xB5#8] = .request (.boothOutputClear 12#8 1#8) ∧
    judgeFrame [0x45#8, 2#8, 6#8, 1#8, 0x51#8] = .request (.floorPriorityOn 6#8) ∧
    judgeFrame [0x61#8, 2#8, 0x0B#8, 0#8, 0xEC#8] = .request (.enrollFull 0x0B#8) := by decide

theorem test_frames_refused :
    judgeFrame [0x74#8, 0#8, 0xF4#8] = .badFrame ∧ judgeFrame [0x74#8, 0#8] = .badFrame ∧
    judgeFrame (requestFrame 0x7F#8 []) = .unknownRequest ∧ judgeFrame (requestFrame 0x10#8 [7#8]) = .badLength := by
  decide

theorem test_frames_up_a_chain :
    decodeUp [0x81#8, 5#8, 3#8, 0#8, 15#8, 1#8, 1#8, 0#8, 0x0A#8, 0x0B#8, 0x0C#8, 0x0D#8, 0x8D#8] =
      some (.reply ⟨5#8, true, .delegateUnit, 15, [.mic], some 0x0A0B0C0D#32⟩) ∧
    decodeUp [0x81#8, 64#8, 0#8, 2#8, 0#8, 1#8, 10#8, 0x21#8, 0x52#8] =
      some (.reply ⟨64#8, false, .deskUnit, 0, [.relay 0x21#8], none⟩) ∧
    decodeUp [0x82#8, 64#8, 2#8, 0x7D#8] = some (.assignAck 64#8 .deskUnit) ∧
    decodeUp [0x04#8, 9#8, 0x3B#8] = some (.loop 9#8) := by decide

theorem test_frames_sent :
    pollFrame 1 false 9#8 0xFF#8 none = [1#8, 1#8, 0#8, 9#8, 0xFF#8, 0xC9#8] ∧
    assignFrame 1 = [2#8, 1#8, 0x56#8] ∧ releaseAllFrame = [3#8, 0xAA#8] ∧
    routeFrame (.slot 0 (some ⟨255, 5, true⟩)) = [0xC1#8, 1#8, 1#8, 1#8, 0#8, 6#8, 0#8, 0xB2#8] ∧
    routeFrame (.channel 31 (.desk 255)) = [0xC2#8, 31#8, 2#8, 1#8, 0#8, 0x69#8] ∧
    answerFrame ⟨.ok, 0x73#8, .clock 256#32⟩ = [0#8, 0x73#8, 4#8, 0#8, 0#8, 1#8, 0#8, 0x1A#8] := by decide

theorem test_payloads_laid_out :
    payloadBytes .floorClosed = [0#8] ∧ payloadBytes (.seatAt 255) = [1#8, 0#8] ∧
    payloadBytes (.attention [.queueChanged 5, .layoutExpired]) = [2#8, 1#8, 6#8, 7#8, 0#8] := by decide

/-- MORE of ROSTER_CHANGES and QUEUE_READ, the badge of a roster entry, the lent-to floor and origin of a channel, the adopted
slot of FLOOR_READ, and a desk's relay source. -/
theorem test_coded_payload_fields :
    statedFields (.roster [] true) = [[0#8]] ∧ statedFields (.roster [] false) = [[1#8]] ∧
    statedFields (.queue none [] true none 0 5 96 none) = [[0#8], [0#8], [5#8], [96#8]] ∧
    (rosterFields ⟨255, some ⟨3, 1, .primary, .delegateUnit, .delegate, none, .reachable, true, none⟩⟩).drop 7 =
      [[0#8], [0xFF#8]] ∧
    useFields ⟨.lent 4, 5, some 250, .output 11 .b⟩ = [[6#8], [250#8], [1#8], [12#8], [1#8], [5#8]] ∧
    useFields ⟨.owned, 5, some 0, .original⟩ = [[6#8], [0#8], [0#8]] ∧ adoptedFields ⟨9, 0, .slot 15⟩ = [[9#8], [1#8], [15#8]] ∧
    adoptedFields ⟨9, 0, .short⟩ = [[9#8], [1#8]] ∧ deskFields ⟨true, .b, .output 11 .b⟩ = [[1#8], [1#8], [0xC1#8]] := by
  decide

/-! ## The hypotheses of the statements can be met: the step and the Host Port -/

theorem test_meets_StepRunsFrontCommand : State.reset.pending = [] := rfl

theorem test_meets_RequestIsAnswered :
    requestArgs .clockRead = some (0x73#8, []) ∧ (∀ c, Instr.clockRead ≠ .hallReset c) ∧ State.reset.takes :=
  ⟨rfl, fun _ => nofun, rfl⟩

theorem test_meets_RefusedRequestChangesNothing :
    ∃ t, requestArgs (.layoutOpen 0#16) = some (0x10#8, [0#8, 0#8]) ∧ State.reset.takes ∧
      exec (.layoutOpen 0#16) State.reset = .next t ∧
      t.port.buffer = .unread ⟨.badArgument, 0x10#8, .empty⟩ :=
  ⟨_, rfl, rfl, rfl, rfl⟩

theorem test_meets_UntakenWriteIsDiscarded :
    (requestArgs .clockRead).isSome = true ∧ 0x10#8 ≠ 0xFF#8 ∧ ¬ (withPort busyPort).takes := by
  unfold State.takes
  decide

theorem test_meets_RequestFrameIsReadBack :
    (Instr.bankWrite 6#8 [⟨16#8, 0xFF#16⟩]).wellFormed = true ∧
    requestArgs (.bankWrite 6#8 [⟨16#8, 0xFF#16⟩]) = some (0x34#8, [6#8, 16#8, 0#8, 0xFF#8]) := by decide

theorem test_meets_FramesRunOrAreRefused :
    State.reset.takes ∧ 0x10#8 ≠ 0xFF#8 ∧ [0x10#8].length < 3 ∧
    [0x10#8, 0#8, 0#8].getLast? ≠ some (checkByte [0x10#8, 0#8, 0#8].dropLast) ∧
    (List.replicate 48 0#8).length ≤ 48 ∧ 0x7F#8 ≠ 0xFF#8 ∧ requestTable.lookup 0x7F#8 = none ∧
    parseRequest 0x10#8 (List.replicate 48 0#8) = .badLength := by
  unfold State.takes
  decide

def answerPort : HostPort :=
  { HostPort.reset with buffer := .unread ⟨.ok, 0x73#8, .clock 0#32⟩, ready := true }

theorem test_meets_HostPortInvariantIsKept :
    PortInv (withPort answerPort).port (withPort answerPort).world.hall ∧
    step (withPort answerPort) = .next (withPort answerPort) :=
  ⟨⟨⟨fun _ => ⟨_, rfl⟩, fun _ => rfl⟩, by decide, by decide, by decide, by decide⟩, rfl⟩

theorem test_meets_LayoutInvariantIsKept :
    LayoutInv (withLayout (doorAt 15 curtain openPlan)).world.layout ∧
    step (withLayout (doorAt 15 curtain openPlan)) = .next (withLayout (doorAt 15 curtain openPlan)) := by
  have walls : ∀ i : WallId, i ≠ 15 → (doorAt 15 curtain openPlan).wall i = none := by decide
  have pendings : ∀ i : WallId, (doorAt 15 curtain openPlan).pendingWalls.get i = none := by decide
  refine ⟨⟨fun i x h => ?_, fun i pos h => ?_, fun h => ?_⟩, rfl⟩
  · by_cases e : i = 15
    · subst e
      cases h
      refine ⟨by decide, by decide, by decide, ⟨fun _ => ⟨.opened, by decide, by decide⟩, fun _ => rfl⟩, by decide⟩
    · have h' : (doorAt 15 curtain openPlan).wall i = some x := h
      rw [walls i e] at h'
      cases h'
  · have h' : (doorAt 15 curtain openPlan).pendingWalls.get i = some pos := h
    rw [pendings i] at h'
    cases h'
  · exact pendings

/-- A floor that speaks on slot 0, with its original channel. -/
def talking (f : Floor) : Hall :=
  { hallOf { f with speakers := [turn] } with slots := (Tbl.fill 16 none).set 0 (some ⟨255, 5, true⟩) }

theorem test_meets_SpeechInvariantIsKept :
    SpeechInv (withHall (talking liveFloor)).world.hall ∧
    step (withHall (talking liveFloor)) = .next (withHall (talking liveFloor)) :=
  ⟨speechInv_of_holds (by decide), rfl⟩

theorem test_meets_ChannelInvariantIsKept :
    ChannelInv (withHall (talking liveFloor)).world.hall ∧
    step (withHall (talking liveFloor)) = .next (withHall (talking liveFloor)) :=
  ⟨channelInv_of_holds (by decide), rfl⟩

theorem test_meets_ReadTransactions :
    (withPort answerPort).port.buffer = .unread ⟨.ok, 0x73#8, .clock 0#32⟩ ∧
    (answerFrame ⟨.ok, 0x73#8, .clock 0#32⟩).length ≤ 8 ∧ 0 < 7 ∧
    7 < (answerFrame ⟨.ok, 0x73#8, .clock 0#32⟩).length ∧
    (withPort { answerPort with buffer := .read ⟨.ok, 0x73#8, .clock 0#32⟩ }).port.buffer =
      .read ⟨.ok, 0x73#8, .clock 0#32⟩ ∧ State.reset.port.buffer = .empty ∧
    State.reset.port.phase = .idle ∧ State.reset.port.cs = .released ∧
    (withPort busyPort).port.phase = .executing ∧ (withPort busyPort).port.cs = .released := by decide

theorem test_meets_ReadAttentionEmptiesTheSet : State.reset.takes := rfl

theorem test_meets_AttentionMaskIsReplaced :
    State.reset.takes ∧ (0xFFF#16).toNat < 4096 ∧ 4096 ≤ (0x1000#16).toNat := ⟨rfl, by decide, by decide⟩

theorem test_meets_ClockRead : State.reset.takes := rfl

theorem test_meets_IdentifyAndHallReset : State.reset.takes ∧ 0x4F13#16 ≠ 0x4F12#16 := ⟨rfl, by decide⟩

def closingHall (f : Floor) : State :=
  { withHall (hallOf f) with port := busyPort }

theorem test_meets_HallResetSteps :
    (closingHall liveFloor).port.hall = .closing ∧
    ((closingHall liveFloor).world.hall.floor 5).state = .live ∧
    (∀ g : FloorId, g < 5 → ((closingHall liveFloor).world.hall.floor g).state ≠ .live) ∧
    (∀ g, ((closingHall Floor.reset).world.hall.floor g).state ≠ .live) ∧
    (withPort { busyPort with hall := .refreshed }).port.hall = .refreshed ∧
    (withHall { Hall.reset with inFlight := none }).world.hall.inFlight = none ∧
    (withHall { Hall.reset with inFlight := none }).world.hall.hold = false ∧
    (withPort { busyPort with hall := .refilled }).port.hall = .refilled := by decide

/-- ClockAndSettingsAreKept, the frame of ReadsChangeNothing, LayoutAndChainAreKept and SpeechAndBoothFrames. -/
theorem test_meets_frames_of_commands :
    State.reset.takes ∧ (∃ t, exec .clockRead State.reset = .next t) ∧ isRead .clockRead = true ∧ changesLayout .clockRead = false ∧
    changesChain .clockRead = false ∧ Instr.clockRead ≠ .sessionTick ∧ Instr.clockRead ≠ .deviceReset ∧
    (∀ b, Instr.clockRead ≠ .requestFrameRefused b) ∧ (∀ r k, Instr.clockRead ≠ .maskSet r k) ∧
    Instr.clockRead ≠ .rosterChanges ∧ Instr.clockRead ≠ .holdActive ∧ Instr.clockRead ≠ .holdInactive ∧
    (∃ t, exec (.closeMic 1#16) State.reset = .next t) ∧ isSpeech (.closeMic 1#16) = true ∧
    (∃ t, exec (.boothSet 1#8 0#8 3#8) State.reset = .next t) ∧ isBooth (.boothSet 1#8 0#8 3#8) = true :=
  ⟨rfl, ⟨_, rfl⟩, rfl, rfl, rfl, nofun, nofun, fun _ => nofun, fun _ _ => nofun, nofun, nofun, nofun, ⟨_, rfl⟩, rfl, ⟨_, rfl⟩,
    rfl⟩

/-! ## Layout Unit -/

theorem test_meets_LayoutOpen :
    State.reset.takes ∧ 1#16 ≠ 0#16 ∧ State.reset.world.layout.lock = .locked ∧ (withLayout openPlan).takes ∧
    (withLayout openPlan).world.layout.lock ≠ .locked ∧ isHallOrChainReset (.chainReset 0#8) = true ∧
    ∃ t, exec (.chainReset 0#8) State.reset = .next t :=
  ⟨rfl, by decide, rfl, rfl, by decide, rfl, ⟨_, rfl⟩⟩

theorem test_meets_LayoutLock :
    (withLayout armedPlan).takes ∧ (withLayout armedPlan).world.layout.lock = .armed 7#16 49 ∧
    (∀ i, (withLayout armedPlan).world.layout.pendingWalls.get i = none) ∧ (withLayout openPlan).takes ∧
    (withLayout openPlan).world.layout.lock = .opened 7#16 299 ∧
    (∀ i, (withLayout openPlan).world.layout.pendingWalls.get i = none) := by
  unfold State.takes
  decide

/-- Two LIVE floors: 6 over section 11, 1 over section 12. -/
def apart : Hall :=
  { hallOf { liveFloor with members := 0x400#12 } with
    floors := ((Tbl.fill 6 Floor.reset).set 5 { liveFloor with members := 0x400#12 }).set 0
      { liveFloor with members := 0x800#12, sess := some { session with original := 1 } } }

/-- The door between sections 11 and 12 with the hall of two floors and a lock. -/
def gap (h : Hall) (x : Wall) (lock : Lock) (p : Option WallPos) : State :=
  { State.reset with
    world := { World.reset with
      layout := { doorAt 15 x plan with lock := lock, pendingWalls := (Tbl.fill 16 none).set 15 p }, hall := h } }

theorem test_meets_RelockEmptiesPendingSet :
    let w := fun (x : Wall) (p : WallPos) => (gap apart x (.opened 7#16 299) (some p)).world
    let shut : Wall := { door with applied := .opened }
    let auto : Wall := { door with sensed := .opened }
    let held : Wall := { door with sensed := .opened, policy := .held }
    (withLayout openPlan).takes ∧ (withLayout openPlan).world.layout.lock ≠ .locked ∧
    (withLayout armedPlan).world.layout.lock = .armed 7#16 49 ∧ 8#16 ≠ 7#16 ∧
    (withLayout openPlan).world.layout.lock = .opened 7#16 299 ∧
    (w door .opened).layout.pendingWalls.get 0 = none ∧
    (w shut .closed).layout.pendingWalls.get 15 = some .closed ∧ (w shut .closed).layout.wall 15 = some shut ∧
    shut.sensed = .closed ∧ shut.applied = .opened ∧
    (w held .opened).layout.pendingWalls.get 15 = some .opened ∧ (w held .opened).layout.wall 15 = some held ∧
    held.sensed = .opened ∧ held.applied = .closed ∧ held.policy = .held ∧
    (w held .opened).hall.betweenFloors held = true ∧ (w auto .opened).layout.wall 15 = some auto ∧
    auto.sensed = .opened ∧ auto.applied = .closed ∧ auto.policy = .auto ∧
    (withHall Hall.reset).world.hall.betweenFloors held = false := by
  unfold State.takes
  decide

theorem test_meets_SectionSet :
    (withLayout openPlan).takes ∧ (12#8).toNat = (11 : SectionId).val + 1 ∧
    (withLayout openPlan).world.layout.lock = .opened 7#16 299 ∧ (withLayout openPlan).world.hall.inUse 11 = false ∧
    (∀ i x, (withLayout openPlan).world.layout.wall i = some x → x.secA ≠ 11 ∧ x.secB ≠ 11) ∧
    (∀ n r, (withLayout openPlan).world.hall.seat? n = some r → r.place ≠ some 11) ∧
    State.reset.takes ∧ State.reset.world.layout.isOpen = false ∧ (1#8).toNat < 2 ∧
    (16#8).toNat = (15 : WallId).val + 1 ∧ 1 ≤ (256#16).toNat ∧ (256#16).toNat ≤ 256 ∧ (12#8).toNat ≤ 12 := by
  refine ⟨rfl, rfl, rfl, by decide, fun i x h => ?_, fun n r h => ?_, rfl, rfl, by decide, rfl, by decide⟩
  · have h' : plan.wall i = some x := h
    simp [no_wall] at h'
  · have h' : Hall.reset.seat? n = some r := h
    simp [no_seat] at h'

theorem test_meets_WallDefineAndRemove :
    (withLayout openPlan).takes ∧ (16#8).toNat = (15 : WallId).val + 1 ∧ (11#8).toNat = (10 : SectionId).val + 1 ∧
    (12#8).toNat = (11 : SectionId).val + 1 ∧ (15#8).toNat = (15 : LineId).val ∧ (1#8).toNat < 2 ∧
    1 ≤ (1#8).toNat ∧ (20#8).toNat ≤ 20 ∧ (withLayout openPlan).world.layout.lock = .opened 7#16 299 ∧
    (10 : SectionId) ≠ 11 ∧ (withLayout openPlan).world.layout.active.getLsbD 10 = true ∧
    (withLayout openPlan).world.layout.active.getLsbD 11 = true ∧ (withLayout openPlan).world.hall.inUse 10 = false ∧
    (withLayout openPlan).world.hall.inUse 11 = false ∧
    (∀ z, (withLayout openPlan).world.layout.wall 15 = some z →
      (withLayout openPlan).world.hall.inUse z.secA = false ∧ (withLayout openPlan).world.hall.inUse z.secB = false) ∧
    (∀ j z, j ≠ (15 : WallId) → (withLayout openPlan).world.layout.wall j = some z →
      z.between 10 11 = false ∧ z.onLine 15 = false) ∧
    (withLayout (doorAt 15 door openPlan)).world.layout.wall 15 = some door ∧
    (withLayout (doorAt 15 door openPlan)).world.layout.lock = .opened 7#16 299 ∧
    (withLayout (doorAt 15 door openPlan)).world.hall.inUse door.secA = false ∧
    (withLayout (doorAt 15 door openPlan)).world.hall.inUse door.secB = false := by
  refine ⟨rfl, rfl, rfl, rfl, rfl, by decide, by decide, by decide, rfl, by decide, rfl, rfl, by decide, by decide,
    fun z h => ?_, fun j z _ h => ?_, rfl, rfl, by decide, by decide⟩
  · have h' : plan.wall 15 = some z := h
    simp [no_wall] at h'
  · have h' : plan.wall j = some z := h
    simp [no_wall] at h'

theorem test_meets_WallSetAndMergeConfirm :
    (withLayout (doorAt 15 door openPlan)).takes ∧ (16#8).toNat = (15 : WallId).val + 1 ∧
    (withLayout (doorAt 15 door openPlan)).world.layout.wall 15 = some door ∧ door.source = .request ∧
    (withLayout (doorAt 15 door openPlan)).world.layout.lock ≠ .locked ∧ door.sensed = .closed ∧
    (withLayout (doorAt 0 { door with sensed := .opened } armedPlan)).world.layout.wall 0 =
      some { door with sensed := .opened } ∧
    (withLayout (doorAt 0 { door with sensed := .opened } armedPlan)).world.layout.lock ≠ .locked ∧
    (1#8).toNat = (0 : WallId).val + 1 ∧
    (withLayout (doorAt 0 { door with sensed := .opened, merge := .pending } plan)).world.layout.wall 0 =
      some { door with sensed := .opened, merge := .pending } ∧
    (withLayout (doorAt 0 { door with sensed := .opened, merge := .pending } plan)).world.layout.lock = .locked := by
  unfold State.takes
  decide

theorem test_meets_WallSetAndMergeConfirm_under_locked :
    let at_ := fun x => gap apart x .locked none
    let held : Wall := { door with policy := .held }
    let opened : Wall := { door with sensed := .opened, applied := .opened }
    let waits : Wall := { door with sensed := .opened }
    (at_ door).takes ∧ (at_ door).world.layout.wall 15 = some door ∧ (at_ door).world.layout.lock = .locked ∧
    door.sensed = .closed ∧ door.applied = .closed ∧ door.policy = .auto ∧ held.policy = .held ∧
    (at_ held).world.layout.wall 15 = some held ∧ (at_ held).world.hall.betweenFloors held = true ∧
    (gap Hall.reset held .locked none).world.hall.betweenFloors held = false ∧
    (at_ { door with applied := .opened }).world.layout.wall 15 = some { door with applied := .opened } ∧
    (at_ opened).world.layout.wall 15 = some opened ∧ opened.sensed = .opened ∧ opened.applied = .opened ∧
    (at_ waits).world.layout.wall 15 = some waits ∧ waits.sensed = .opened ∧ waits.applied = .closed ∧
    (0#8 = 0#8 ∧ waits.sensed = .opened) ∧ (1#8 = 1#8 ∧ door.sensed = .closed) := by
  unfold State.takes
  decide

theorem test_meets_MergeRefuse :
    State.reset.takes ∧ (0#8).toNat = 0 ∧ 16 < (17#8).toNat ∧ (16#8).toNat = (15 : WallId).val + 1 ∧
    State.reset.world.layout.wall 15 = none ∧ (withLayout (doorAt 15 door plan)).world.layout.wall 15 = some door ∧
    door.merge ≠ .pending ∧
    (withLayout (doorAt 15 { door with merge := .pending } plan)).world.layout.wall 15 =
      some { door with merge := .pending } := by
  unfold State.takes
  decide

theorem test_meets_LineDebounce :
    (withLayout (doorAt 15 curtain plan)).world.layout.lines.get 15 ≠ false ∧
    (withLayout (doorAt 15 curtain openPlan)).world.layout.wall 15 = some curtain ∧
    curtain.source = .line 15 .openWhenHigh ∧ curtain.settleLeft = some 7 ∧
    (withLayout (doorAt 15 curtain openPlan)).world.layout.lock ≠ .locked ∧
    reportedBy .openWhenHigh ((withLayout (doorAt 15 curtain openPlan)).world.layout.lines.get 15) = .opened ∧
    reportedBy .openWhenLow ((withLayout (doorAt 15 curtain openPlan)).world.layout.lines.get 15) = .closed ∧
    reportedBy .openWhenHigh false = curtain.sensed ∧
    (withLayout (doorAt 0 { door with source := .line 15 .openWhenLow } plan)).world.layout.wall 0 =
      some { door with source := .line 15 .openWhenLow } ∧
    reportedBy .openWhenLow false ≠ { door with source := .line 15 .openWhenLow }.sensed ∧
    { door with source := .line 15 .openWhenLow }.settleLeft = none ∧ door.onLine 15 = false := by decide

theorem test_meets_LineDebounce_under_locked :
    let at_ := fun x => gap apart x .locked none
    let held : Wall := { curtain with policy := .held }
    let low : Wall := { curtain with source := .line 15 .openWhenLow, sensed := .opened }
    (at_ curtain).world.layout.wall 15 = some curtain ∧ (at_ curtain).world.layout.lock = .locked ∧
    reportedBy .openWhenHigh ((at_ curtain).world.layout.lines.get 15) = .opened ∧ curtain.applied = .closed ∧
    curtain.policy = .auto ∧ (at_ held).world.layout.wall 15 = some held ∧ held.policy = .held ∧
    (at_ held).world.hall.betweenFloors held = true ∧ (at_ low).world.layout.wall 15 = some low ∧
    low.settleLeft = some 7 ∧ reportedBy .openWhenLow ((at_ low).world.layout.lines.get 15) = .closed ∧
    low.applied = .closed ∧
    (at_ { low with applied := .opened }).world.layout.wall 15 = some { low with applied := .opened } := by decide

/-! ## Seat Table -/

theorem test_meets_SeatPlaceAndRole :
    let s : State := { withHall (hallOf Floor.reset) with
      world := { (withHall (hallOf Floor.reset)).world with layout := openPlan } }
    s.takes ∧ (256#16).toNat = (255 : SeatId).val + 1 ∧ (12#8).toNat = (11 : SectionId).val + 1 ∧
    s.world.layout.lock = .opened 7#16 299 ∧ s.world.hall.seat? 255 = some delegate ∧
    (∀ p, delegate.place = some p → s.world.hall.inUse p = false) ∧ s.world.hall.inUse 11 = false ∧
    s.world.layout.active.getLsbD 11 = true ∧ delegate.role ≠ .desk ∧
    (1#16).toNat = (0 : SeatId).val + 1 ∧ s.world.hall.seat? 0 = some chair ∧ chair.kind = .chairUnit ∧
    s.world.hall.speaks 0 = false ∧ s.world.hall.queued 0 = false ∧ s.world.hall.holds 0 = false ∧
    chair.role = .chair := by
  unfold State.takes
  decide

theorem test_meets_MaskSet :
    State.reset.takes ∧ (3#8).toNat < 4 ∧ (15#8).toNat < 16 ∧ (31#8).toNat < 32 ∧ 4 ≤ (4#8).toNat ∧
    16 ≤ (16#8).toNat ∧ 32 ≤ (32#8).toNat ∧ 3 ≤ (3#8).toNat := by
  unfold State.takes
  decide

def oneSeat : Hall :=
  seated 255 delegate Hall.reset

theorem one_seat (m : SeatId) (v : Seat) (h : oneSeat.seat? m = some v) : m = 255 := by
  by_contra e
  have h' : (match ((Tbl.fill 256 SeatPos.free).set 255 (.held delegate)).get m with
    | .held r => some r
    | _ => none) = some v := h
  rw [Tbl.get_set_ne _ _ (Ne.symm e), Tbl.get_fill] at h'
  cases h'

theorem test_meets_ReadsChangeNothing :
    let lost : Seat := { delegate with link := .lostGrace 30 }
    (withHall oneSeat).takes ∧ (256#16).toNat = (255 : SeatId).val + 1 ∧
    (withHall oneSeat).world.hall.seat? 255 = some delegate ∧ (∀ left, delegate.link ≠ .lostGrace left) ∧
    (withHall (seated 255 lost Hall.reset)).world.hall.seat? 255 = some lost ∧ lost.link = .lostGrace 30 ∧
    (1#16).toNat = (0 : SeatId).val + 1 ∧ (withHall oneSeat).world.hall.seat? 0 = none ∧
    (0#8).toNat = (0 : PortId).val ∧ ((withHall oneSeat).world.ring (ringOfPort 0)).state = .linear ∧
    (2 : PortId) = primaryPort (ringOfPort 2) ∧ delegate.port = 0 ∧ delegate.address = (1#8).toNat ∧
    (∀ m v, (withHall oneSeat).world.hall.seat? m = some v → v.port = 0 → v.address = (1#8).toNat → m = 255) ∧
    (∀ m v, (withHall Hall.reset).world.hall.seat? m = some v → v.port = 0 → v.address ≠ (64#8).toNat) ∧
    (16#8).toNat = (15 : WallId).val + 1 ∧ State.reset.world.layout.wall 15 = none ∧
    (withLayout (doorAt 15 curtain plan)).world.layout.wall 15 = some curtain ∧
    curtain.source = .line 15 .openWhenHigh ∧ (withLayout (doorAt 15 door plan)).world.layout.wall 15 = some door ∧
    door.source = .request ∧ door.settleLeft = none := by
  refine ⟨rfl, rfl, by decide, fun _ => nofun, by decide, rfl, rfl, by decide, rfl, rfl, by decide, rfl, rfl,
    fun m v h _ _ => one_seat m v h, fun m v h _ => ?_, rfl, rfl, rfl, rfl, rfl, rfl, rfl⟩
  have h' : Hall.reset.seat? m = some v := h
  simp [no_seat] at h'

theorem test_meets_RetireAndGrace :
    let gone : Seat := { delegate with link := .gone }
    let lost : Seat := { delegate with link := .lostGrace 1 }
    (withHall (seated 255 gone Hall.reset)).takes ∧ (256#16).toNat = (255 : SeatId).val + 1 ∧
    (withHall (seated 255 gone Hall.reset)).world.hall.seat? 255 = some gone ∧ gone.link = .gone ∧
    (withHall oneSeat).world.hall.seat? 255 = some delegate ∧ delegate.link ≠ .gone ∧
    (withHall (seated 255 lost Hall.reset)).world.hall.seat? 255 = some lost ∧ lost.link = .lostGrace 1 := by
  unfold State.takes
  decide

/-! ## Floor Table -/

theorem test_meets_FloorOpen :
    (withHall (hallOf liveFloor)).takes ∧ (5#8).toNat = (4 : FloorId).val + 1 ∧
    (12#8).toNat = (11 : SectionId).val + 1 ∧ (7#8).toNat ≤ 7 ∧
    ((withHall (hallOf liveFloor)).world.hall.floor 4).state = .closed ∧
    (withHall (hallOf liveFloor)).world.layout.active.getLsbD 11 = true ∧
    (withHall (hallOf liveFloor)).world.hall.dark 11 = true ∧
    ((withHall (hallOf liveFloor)).world.hall.channels.get 1).use = none ∧
    (∀ d : ChannelId, d < 1 → ((withHall (hallOf liveFloor)).world.hall.channels.get d).use ≠ none) := by
  unfold State.takes
  decide

/-- FloorClose, FloorSet, FloorAndSpeechReads, BankWriteAndRead, BankSwap and BankCancel. -/
theorem test_meets_floor_requests :
    let s := withHall (hallOf liveFloor)
    let pending := withHall (hallOf { liveFloor with swapPending := true })
    let busy := withHall (hallOf speaking)
    let folded := withHall (hallOf { liveFloor with state := .folded 0 })
    s.takes ∧ (6#8).toNat = (5 : FloorId).val + 1 ∧ (1#8).toNat = (0 : FloorId).val + 1 ∧
    (s.world.hall.floor 5).state ≠ .closed ∧ (s.world.hall.floor 5).state = .live ∧
    (s.world.hall.floor 0).state = .closed ∧ (0#8).toNat = 0 ∧ 6 < (7#8).toNat ∧ 7 < (8#8).toNat ∧
    (7#8).toNat ≤ 7 ∧ (s.world.hall.floor 5).sess = some session ∧ (folded.world.hall.floor 5).state = .folded 0 ∧
    (s.world.hall.floor 5).queue.length ≤ 16 ∧ (s.world.hall.floor 5).swapPending = false ∧ 1 ≤ (8#16).toNat ∧
    (8#16).toNat ≤ 8 ∧ (session.bank session.current.other).valid = true ∧
    (s.world.hall.floor 5).adopted = none ∧ 0 < (busy.world.hall.floor 5).delegates ∧
    (busy.world.hall.floor 5).state = .live ∧ (busy.world.hall.floor 5).sess = some session ∧
    (busy.world.hall.floor 5).swapPending = false ∧ (s.world.hall.floor 5).delegates = 0 ∧
    (pending.world.hall.floor 5).swapPending = true ∧ (pending.world.hall.floor 5).state ≠ .closed ∧
    (pending.world.hall.floor 5).sess = some session := by
  unfold State.takes
  decide

theorem test_meets_BankWriteAndRead :
    ∃ t, exec (.bankWrite 6#8 [⟨1#8, 8#16⟩]) (withHall (hallOf liveFloor)) = .next t := ⟨_, rfl⟩

/-- Floor 6 LIVE over section 1, with the bank and list given. -/
def host (b : Bank) : Floor :=
  { speaking with sess := some { session with bankA := b } }

/-- Floor 1 LIVE over section 12 and section 2, with a speaker, an entry that waits, and a swap pending. -/
def guest : Floor :=
  { liveFloor with
    sess := some { session with anchor := 11, original := 1 }, members := 0x802#12, adopted := some []
    speakers := [⟨254, .delegate, 15, 0#32, false, false, none⟩], queue := [⟨253, 0#32, .press, none, false⟩]
    swapPending := true }

/-- A floor FOLDED into floor 1, anchored in section 2. -/
def carried (precedence : Nat) (c : ChannelId) : Floor :=
  { Floor.reset with
    state := .folded 0, home := 0x002#12
    sess := some { session with anchor := 1, precedence := precedence, original := c } }

def boothOn (f : FloorId) (l : Lang) (c : ChannelId) (st : OutState) : Booth :=
  { Booth.reset with floor := some f, outA := { Output.reset with use := some ⟨l, c, st⟩ } }

/-- Floors 6 and 1 LIVE, floors 2 and 3 FOLDED into floor 1, and booths of floors 1, 2 and 6: of floor 1 with languages 9 and
7, of floor 2 HELD with 250, of floor 6 with 7. -/
def twoRooms (b : Bank) : Hall :=
  { Hall.reset with
    seats := (((Tbl.fill 256 .free).set 255 (.held delegate)).set 254 (.held { delegate with place := some 1 })).set 253
      (.held { delegate with place := some 11 })
    slots := ((Tbl.fill 16 none).set 0 (some ⟨255, 5, true⟩)).set 15 (some ⟨254, 0, true⟩)
    floors := ((((Tbl.fill 6 Floor.reset).set 5 (host b)).set 0 guest).set 1 (carried 3 2)).set 2 (carried 2 7)
    channels := ((((((((Tbl.fill 32 Channel.reset).set 0 ⟨some ⟨.owned, 5, some 0, .original⟩, .floorMix 5⟩).set 1
      ⟨some ⟨.owned, 0, some 0, .original⟩, .floorMix 0⟩).set 2
      ⟨some ⟨.lent 0, 1, none, .original⟩, .floorMix 0⟩).set 7
      ⟨some ⟨.lent 0, 2, none, .original⟩, .floorMix 0⟩).set 3
      ⟨some ⟨.owned, 0, some 9, .output 11 .a⟩, .silence⟩).set 4
      ⟨some ⟨.reserved, 1, some 250, .output 9 .a⟩, .silence⟩).set 5
      ⟨some ⟨.owned, 5, some 7, .output 8 .a⟩, .silence⟩).set 6
      ⟨some ⟨.owned, 0, some 7, .output 10 .a⟩, .silence⟩
    booths := ((((Tbl.fill 12 Booth.reset).set 11 (boothOn 0 9 3 (.silent 5))).set 10 (boothOn 0 7 6 (.silent 5))).set 9
      (boothOn 1 250 4 .held)).set 8 (boothOn 5 7 5 (.silent 5)) }

/-- The bank of the host floor: auto advance OFF. -/
def still : Bank :=
  { Bank.initial with autoAdvance := false }

theorem rooms_hold :
    SpeechInv (twoRooms still) ∧ SpeechInv (twoRooms { still with limit := 1 }) ∧
    SpeechInv (twoRooms { still with cap := 0 }) ∧ SpeechInv (twoRooms { still with badgeRequired := true }) :=
  ⟨speechInv_of_holds (by decide), speechInv_of_holds (by decide), speechInv_of_holds (by decide),
    speechInv_of_holds (by decide)⟩

theorem rooms_channels_hold : ChannelInv (twoRooms still) :=
  channelInv_of_holds (by decide)

theorem test_meets_FoldAndUnfold_events :
    (Hall.reset.floorAt 0 = none ∧ Hall.reset.floorAt 11 = none) ∧ (twoRooms still).floorAt 0 = some 5 ∧
    (twoRooms still).floorAt 11 = some 0 ∧ (twoRooms still).floorAt 1 = some 0 ∧ (5 : FloorId) ≠ 0 ∧
    (twoRooms still).floorAt 10 = none ∧ (∀ x, Hall.reset.floorAt 0 = some x → Hall.reset.floorAt 1 ≠ some x) ∧
    (twoRooms still).seat? 255 = some delegate := by
  refine ⟨by decide, by decide, by decide, by decide, by decide, by decide, fun x h => ?_, by decide⟩
  have e : Hall.reset.floorAt 0 = none := by decide
  rw [e] at h
  cases h

theorem test_meets_FoldAndUnfold_folds :
    let h := twoRooms still
    let t := twoRooms { still with limit := 1 }
    let z := twoRooms { still with cap := 0 }
    let es := (t.floor 5).speakers ++ (t.floor 0).speakers
    (5 : FloorId) ≠ 0 ∧ (h.floor 5).state = .live ∧ (h.floor 0).state = .live ∧ (h.floor 0).swapPending = true ∧
    (h.floor 1).state = .folded 0 ∧ (h.floor 4).state ≠ .folded 0 ∧
    (((h.floor 5).speakers ++ (h.floor 0).speakers).filter fun e => e.kind = .delegate).length ≤
      (h.floor 5).bank.limit ∧ (h.floor 5).bank.badgeRequired = false ∧ (h.floor 5).bank.autoAdvance = false ∧
    (z.floor 5).bank.cap = 0 ∧ ((z.floor 5).queue ++ (z.floor 0).queue).head?.isSome = true ∧
    ((es.filter fun e => e.kind = .delegate).drop (t.floor 5).bank.limit).length = 1 ∧
    t.seat? 254 = some { delegate with place := some 1 } ∧
    ((twoRooms { still with badgeRequired := true }).floor 5).bank.badgeRequired = true ∧ h.badged 254 = false ∧
    (h.floor 1).original? = some 2 ∧ (h.booths.get 9).floor = some 1 ∧
    (h.output 9 .a).use = some ⟨250, 4, .held⟩ ∧ (h.output 10 .a).use = some ⟨7, 6, .silent 5⟩ ∧
    h.languageTaken 5 7 = true ∧ (h.output 11 .a).use = some ⟨9, 3, .silent 5⟩ ∧
    (h.floor 5).adopted = none ∧ (h.floor 5).sess ≠ none ∧ (h.floor 1).bank.listen.get 0 = some 0 := by
  decide

/-- Language 9 stands on channel 3 alone. -/
theorem test_meets_FoldAndUnfold_lone_language :
    ∀ c : ChannelId, c ≠ 3 → ∀ v, ((twoRooms still).channels.get c).use = some v → v.lang ≠ some 9 := by
  have all : ∀ c : ChannelId, c ≠ 3 → ((twoRooms still).channels.get c).use.elim true (fun v => v.lang != some 9) = true := by
    decide
  intro c hc v hv
  have k := all c hc
  rw [hv] at k
  simpa using k

theorem test_meets_FoldAndUnfold_parts :
    let h := twoRooms still
    (h.floor 5).sess = some { session with bankA := still } ∧
    ((h.floor 5).members &&& ~~~(component (Tbl.fill 16 none) 0)) = 0#12 ∧
    ((h.floor 0).members &&& ~~~(component (Tbl.fill 16 none) 11)) ≠ 0#12 ∧
    h.anchoredIn 5 1#12 = [] ∧ h.sits 1#12 255 = true ∧ turn ∈ (h.floor 5).speakers ∧
    (h.floor 0).state = .live ∧ h.anchoredIn 0 2#12 = [1, 2] ∧ h.ranked (h.anchoredIn 0 2#12) = some 1 ∧
    (h.speakersIn 0 2#12).countP (fun e => e.kind = .delegate) ≤ (h.floor 1).bank.limit ∧
    (h.speakersIn 0 2#12).map (·.seat) = [254] ∧ (h.floor 1).bank.badgeRequired = false ∧
    (h.floor 1).original? = some 2 ∧ (h.floor 2).original? = some 7 ∧ (h.booths.get 9).floor = some 1 ∧
    (h.output 9 .a).use = some ⟨250, 4, .held⟩ ∧ (h.floor 2).state = .folded 0 := by decide

theorem test_meets_FoldAndUnfold_no_anchor :
    ∀ z s, ((twoRooms still).floor z).state = .folded 5 → ((twoRooms still).floor z).sess = some s →
      (1#12).getLsbD s.anchor.val = false := by
  have none_ : ∀ z, ((twoRooms still).floor z).state ≠ .folded 5 := by decide
  exact fun z _ h _ => absurd h (none_ z)

/-! ## Speech Arbiter and Turn Timer Bank -/

theorem test_meets_Grant :
    let s := withHall (hallOf liveFloor)
    s.takes ∧ (6#8).toNat = (5 : FloorId).val + 1 ∧ (256#16).toNat = (255 : SeatId).val + 1 ∧
    (s.world.hall.floor 5).state = .live ∧ s.world.hall.seat? 255 = some delegate ∧ delegate.role = .delegate ∧
    s.world.hall.floorOf delegate = some 5 ∧ delegate.link = .reachable ∧ s.world.hall.speaks 255 = false ∧
    (delegate.badge.isSome = true ∨ (s.world.hall.floor 5).bank.badgeRequired = false) ∧
    (s.world.hall.floor 5).delegates < (s.world.hall.floor 5).bank.limit ∧ s.world.hall.slots.get 0 = none ∧
    (∀ k : SlotId, k < 0 → s.world.hall.slots.get k ≠ none) := by
  unfold State.takes
  decide

/-- One delegate and fifteen chairs hold the sixteen slots of floor 6, and seat 201 waits with auto advance ON. -/
def fullHouse : Hall :=
  { Hall.reset with
    seats := (Tbl.fill 256 .free).set 255 (.held delegate)
    floors := (Tbl.fill 6 Floor.reset).set 5
      { liveFloor with
        sess := some { session with bankA := Bank.initial }
        speakers := turn :: (List.finRange 15).map fun k =>
          ⟨k.castLE (by decide), .chair, k.succ, 0#32, false, false, none⟩
        queue := [⟨200, 0#32, .press, none, false⟩] }
    slots := ((Tbl.fill 16 ()).imap fun k _ => some ⟨(k - 1).castLE (by decide), 5, true⟩).set 0 (some ⟨255, 5, true⟩) }

theorem test_meets_TurnEndsAndTimers :
    let s := withHall (talking liveFloor)
    let p := withHall (hallOf { speaking with swapPending := true })
    s.takes ∧ SpeechInv s.world.hall ∧ (256#16).toNat = (255 : SeatId).val + 1 ∧
    s.world.hall.seat? 255 = some delegate ∧ turn ∈ (s.world.hall.floor 5).speakers ∧ turn.seat = 255 ∧
    (∀ g, (s.world.hall.floor g).queue = []) ∧ (s.world.hall.floor 5).swapPending = false ∧
    p.takes ∧ p.world.hall.seat? 255 = some delegate ∧
    p.world.hall.speakerFloor 255 = some 5 ∧ (p.world.hall.floor 5).state = .live ∧
    (p.world.hall.floor 5).speakers = [turn] ∧ turn.kind = .delegate ∧
    (p.world.hall.floor 5).swapPending = true ∧ (p.world.hall.floor 5).sess = some session :=
  ⟨rfl, speechInv_of_holds (by decide), rfl, by decide, by decide, rfl, by decide, by decide, rfl, by decide, by decide,
    by decide, by decide, rfl, by decide, by decide⟩

theorem test_meets_TurnEndsAndTimers_passed_on :
    let s := withHall fullHouse
    let w : Waiting := ⟨200, 0#32, .press, none, false⟩
    SpeechInv s.world.hall ∧ s.world.hall.seat? 255 = some delegate ∧ turn ∈ (s.world.hall.floor 5).speakers ∧
    turn.kind = .delegate ∧ (s.world.hall.floor 5).swapPending = false ∧
    (s.world.hall.floor 5).bank.autoAdvance = true ∧ (s.world.hall.floor 5).bank.mode = .request ∧
    (s.world.hall.floor 5).muteActive = false ∧ (s.world.hall.floor 5).firstReachable = some w ∧
    (∀ g, g ≠ 5 → (s.world.hall.floor g).queue = []) ∧ ∀ k, s.world.hall.slots.get k ≠ none :=
  ⟨speechInv_of_holds (by decide), by decide, by decide, rfl, by decide, by decide, by decide, by decide, by decide,
    by decide, by decide⟩

def waiting : Waiting :=
  ⟨255, 0#32, .press, none, false⟩

theorem test_meets_QueueRequests :
    let s := withHall (hallOf liveFloor)
    let q := withHall (hallOf { liveFloor with queue := [waiting] })
    s.takes ∧ (6#8).toNat = (5 : FloorId).val + 1 ∧ (256#16).toNat = (255 : SeatId).val + 1 ∧
    (s.world.hall.floor 5).state = .live ∧ (s.world.hall.floor 5).bank.autoAdvance = false ∧
    s.world.hall.seat? 255 = some delegate ∧ delegate.role = .delegate ∧ s.world.hall.floorOf delegate = some 5 ∧
    delegate.link = .reachable ∧ (s.world.hall.floor 5).bank.badgeRequired = false ∧
    s.world.hall.speaks 255 = false ∧ s.world.hall.queued 255 = false ∧ 1 ≤ (1#8).toNat ∧
    (1#8).toNat ≤ (s.world.hall.floor 5).queue.length + 1 ∧
    (s.world.hall.floor 5).queue.length < (s.world.hall.floor 5).bank.cap ∧ 0 < s.world.hall.poolFree ∧
    q.takes ∧ q.world.hall.seat? 255 = some delegate ∧ q.world.hall.queueFloor 255 = some 5 ∧
    (q.world.hall.floor 5).bank.autoAdvance = false ∧ (q.world.hall.floor 5).state = .live ∧
    (q.world.hall.floor 5).queue ≠ [] := by
  unfold State.takes
  decide

theorem test_meets_FloorPriority :
    let closes := fun a => withHall (talking { liveFloor with
      sess := some { session with bankA := { still with action := a } } })
    let holds := withHall (talking { liveFloor with requestHolds := true })
    (withHall (hallOf speaking)).takes ∧ (6#8).toNat = (5 : FloorId).val + 1 ∧
    ((withHall (hallOf speaking)).world.hall.floor 5).state = .live ∧
    ((withHall (hallOf speaking)).world.hall.floor 5).bank.action = .muteWhileHeld ∧
    SpeechInv (closes .closeAll).world.hall ∧ SpeechInv (closes .closeAndClear).world.hall ∧
    ((closes .closeAll).world.hall.floor 5).state = .live ∧
    ((closes .closeAll).world.hall.floor 5).bank.action = .closeAll ∧
    ((closes .closeAndClear).world.hall.floor 5).bank.action = .closeAndClear ∧
    ((closes .closeAll).world.hall.floor 5).swapPending = false ∧
    ((closes .closeAll).world.hall.floor 5).bank.autoAdvance = false ∧ SpeechInv holds.world.hall ∧
    (holds.world.hall.floor 5).requestHolds = true ∧ (holds.world.hall.floor 5).holders = [] :=
  ⟨rfl, rfl, by decide, by decide, speechInv_of_holds (by decide), speechInv_of_holds (by decide), by decide, by decide,
    by decide, by decide, by decide, speechInv_of_holds (by decide), by decide, by decide⟩

theorem test_meets_SessionTick :
    (∀ f e, e ∈ (State.reset.world.hall.floor f).speakers → e.tick.timeIsUp = false) ∧
    { timer with running := false }.running = false ∧ timer.running = true ∧ { timer with ticks := 8 }.ticks < 9 ∧
    timer.ticks = 9 ∧ timer.phase ≠ .overrun ∧ 1 < { timer with remaining := 2 }.remaining ∧ timer.remaining = 1 ∧
    { timer with mode := .warn }.mode = .warn ∧ { timer with phase := .overrun }.phase = .overrun := by
  refine ⟨fun f e h => ?_, by decide⟩
  have h' : e ∈ ((Tbl.fill 6 Floor.reset).get f).speakers := h
  rw [Tbl.get_fill] at h'
  cases h'

theorem test_meets_TurnEndsAndTimers_at_zero :
    let cut : Speaker := { turn with timer := some timer }
    let warn : Speaker := { turn with timer := some { timer with mode := .warn } }
    let flashing : Seat := { delegate with flash := some 1 }
    let s := withHall { talking liveFloor with
      floors := (Tbl.fill 6 Floor.reset).set 5 { liveFloor with speakers := [cut] } }
    let u := withHall (hallOf { liveFloor with speakers := [warn] })
    SpeechInv s.world.hall ∧ s.world.hall.seat? 255 = some delegate ∧ cut ∈ (s.world.hall.floor 5).speakers ∧
    cut.seat = 255 ∧ cut.timer = some timer ∧ timer.running = true ∧ timer.mode = .cut ∧ timer.phase ≠ .overrun ∧
    (s.world.hall.floor 5).swapPending = false ∧ u.world.hall.speakerFloor 255 = some 5 ∧
    (u.world.hall.floor 5).speakers.find? (fun x => x.seat = 255) = some warn ∧
    warn.timer = some { timer with mode := .warn } ∧
    (withHall (seated 255 flashing Hall.reset)).world.hall.seat? 255 = some flashing ∧ flashing.flash = some 1 :=
  ⟨speechInv_of_holds (by decide), by decide, by decide, rfl, rfl, rfl, rfl, by decide, by decide, by decide, by decide, rfl,
    by decide, rfl⟩

/-! ## Interpretation Unit, Channel Allocator and Route Output -/

def boothHall (b : Booth) : Hall :=
  { seated 255 desk (hallOf liveFloor) with booths := (Tbl.fill 12 Booth.reset).set 11 b }

def assigned : Booth :=
  { Booth.reset with floor := some 5 }

def used : OutUse :=
  ⟨1, 0, .silent 1⟩

theorem test_meets_BoothRequests :
    let s := withHall (boothHall Booth.reset)
    let a := withHall (boothHall { assigned with desks := [255] })
    s.takes ∧ (12#8).toNat = (11 : BoothId).val + 1 ∧ (6#8).toNat = (5 : FloorId).val + 1 ∧
    (s.world.hall.booths.get 11).floor = none ∧ (s.world.hall.floor 5).state = .live ∧ (10#8).toNat ≤ 10 ∧
    a.takes ∧ (a.world.hall.booths.get 11).floor = some 5 ∧ (256#16).toNat = (255 : SeatId).val + 1 ∧
    s.world.hall.seat? 255 = some desk ∧ desk.role = .desk ∧ s.world.hall.boothOf 255 = none ∧
    (s.world.hall.booths.get 11).desks.contains 255 = false ∧ (s.world.hall.booths.get 11).desks.length < 4 ∧
    a.world.hall.seat? 255 = some desk ∧ (a.world.hall.booths.get 11).desks.contains 255 = true := by
  unfold State.takes
  decide

/-- No channel of the hall carries language 250. -/
theorem no_language (d : ChannelId) (u : ChanUse) (h : ((hallOf liveFloor).channels.get d).use = some u) :
    u.lang ≠ some 250 := by
  by_cases e : d = 0
  · subst e
    cases h
    decide
  · have h' : (((Tbl.fill 32 Channel.reset).set 0 ⟨some ⟨.owned, 5, some 0, .original⟩, .floorMix 5⟩).get d).use = some u :=
      h
    rw [Tbl.get_set_ne _ _ (Ne.symm e), Tbl.get_fill] at h'
    cases h'

theorem test_meets_BoothOutputs :
    let s := withHall (boothHall assigned)
    let folded := withHall { boothHall assigned with floors := (Tbl.fill 6 Floor.reset).set 5 { liveFloor with state := .folded 0 } }
    let quick := withHall (boothHall { assigned with delay := 0 })
    let o := withHall (boothHall { assigned with outA := { Output.reset with use := some used } })
    let p := withHall (boothHall { assigned with outB := { Output.reset with use := some { used with state := .live 254 true } } })
    s.takes ∧ (12#8).toNat = (11 : BoothId).val + 1 ∧ 0#8 = (if Out.a = .a then 0#8 else 1#8) ∧
    1#8 = (if Out.b = .a then 0#8 else 1#8) ∧ (250#8).toNat = (250 : Lang).val ∧ (250 : Lang).val ≠ 0 ∧
    (s.world.hall.booths.get 11).floor = some 5 ∧ (s.world.hall.floor 5).state = .live ∧
    (folded.world.hall.booths.get 11).floor = some 5 ∧ (folded.world.hall.floor 5).state = .folded 0 ∧
    (s.world.hall.output 11 .a).use = none ∧ (s.world.hall.output 11 .b).use = none ∧
    0 < (s.world.hall.booths.get 11).delay ∧ (quick.world.hall.booths.get 11).delay = 0 ∧
    (∀ d u, (s.world.hall.channels.get d).use = some u → u.lang ≠ some 250) ∧
    (s.world.hall.channels.get 1).use = none ∧ (s.world.hall.channels.get 31).use = none ∧
    (∀ d : ChannelId, d < 1 → (s.world.hall.channels.get d).use ≠ none) ∧ (31#8).toNat = (31 : ChannelId).val ∧
    o.takes ∧ (o.world.hall.booths.get 11).floor = some 5 ∧ (o.world.hall.output 11 .a).use = some used ∧
    (p.world.hall.output 11 .b).use = some { used with state := .live 254 true } ∧
    (o.world.hall.channels.get used.chan).use = some ⟨.owned, 5, some 0, .original⟩ ∧
    used.state = .silent 1 ∧ o.world.hall.serving 11 = some 5 :=
  ⟨rfl, rfl, rfl, rfl, rfl, by decide, by decide, by decide, by decide, by decide, by decide, by decide, by decide, by decide,
    no_language, by decide, by decide, by decide, rfl, rfl, by decide, by decide, by decide, by decide, rfl, by decide⟩

/-- The cases of the desk keys, for the desk at seat 256 of booth 12 with output A as given. -/
theorem test_meets_ReplyIsTaken_desk_keys :
    let d : DeskFields := ⟨false, .a, .floor⟩
    let at_ := fun (p : BoothPolicy) (st : OutState) => boothHall { assigned with
      policy := p, desks := [255], outA := { Output.reset with use := some ⟨9, 1, st⟩ } }
    let bare := boothHall { assigned with desks := [255] }
    bare.seat? 255 = some desk ∧ desk.desk = some d ∧ desk.role = .desk ∧ bare.maskDesk = BitVec.allOnes 5 ∧
    d.live = false ∧ { d with live := true }.live = true ∧ (boothHall assigned).assignedBooth 255 = none ∧
    bare.assignedBooth 255 = some 11 ∧ (bare.output 11 d.selected).use = none ∧
    ((at_ .lockout .held).output 11 .a).use = some ⟨9, 1, .held⟩ ∧
    ((at_ .lockout (.live 254 true)).output 11 .a).use = some ⟨9, 1, .live 254 true⟩ ∧
    ((at_ .lockout (.live 254 true)).booths.get 11).policy = .lockout ∧
    ((at_ .handover (.live 254 true)).booths.get 11).policy = .handover ∧
    ((at_ .lockout .fallback).output 11 .a).use = some ⟨9, 1, .fallback⟩ ∧ d.selected ≠ .b ∧
    bare.liveRefusal 11 .b 255 = some .outputUnused ∧ (at_ .lockout .fallback).liveRefusal 11 .a 255 = none ∧
    relayArgOf 0xC2#8 = none ∧ bare.validSource 11 11 .a = false ∧ (at_ .lockout .fallback).validSource 11 11 .a = true ∧
    (at_ .lockout .fallback).leadsBack 11 25 [(11, .a)] 11 .a = true ∧
    ({ at_ .lockout .fallback with
      booths := (at_ .lockout .fallback).booths.set 0 { boothOn 5 7 2 .fallback with desks := [] } }).validSource 11 0 .a =
        true ∧
    ({ at_ .lockout .fallback with
      booths := (at_ .lockout .fallback).booths.set 0 { boothOn 5 7 2 .fallback with desks := [] } }).leadsBack 11 25
        [(0, .a)] 0 .a = false := by decide

theorem test_meets_BoothChannelAndChainReads :
    State.reset.takes ∧ (12#8).toNat = (11 : BoothId).val + 1 ∧ (31#8).toNat = (31 : ChannelId).val ∧
    (3#8).toNat = (3 : PortId).val ∧ (State.reset.world.ring (ringOfPort 3)).state = .linear ∧
    1 ≤ (1#8).toNat ∧ (64#8).toNat ≤ 64 ∧ 0x0B#8 = (if (1 : RingId) = 0 then 0x0A#8 else 0x0B#8) ∧
    (withChain (ringOf { RingRec.reset with state := .untested })).takes ∧
    ((withChain (ringOf { RingRec.reset with state := .untested })).world.ring 1).state ≠ .linear := by
  unfold State.takes
  decide

theorem test_meets_RouteSending :
    State.reset.world.hall.inFlight = some (.slot 0 none) ∧ State.reset.world.hall.hold = false ∧
    State.reset.world.hall.routeQueue = .slot 1 none :: State.reset.world.hall.routeQueue.tail ∧
    (withHall { Hall.reset with routeQueue := [] }).world.hall.inFlight = some (.slot 0 none) ∧
    (withHall { Hall.reset with routeQueue := [] }).world.hall.routeQueue = [] ∧
    (withHall { Hall.reset with inFlight := none, hold := true }).world.hall.inFlight = none ∧
    (withHall { Hall.reset with inFlight := none, hold := true }).world.hall.routeQueue =
      .slot 1 none :: State.reset.world.hall.routeQueue.tail := by decide

/-! ## Chain Controller -/

theorem test_meets_PollIsBuilt :
    let s := withChain (chainOf { polled with wait := none, cursor := 0 })
    (s.world.ring (ringOfPort 3)).state = .linear ∧ (s.world.ring (ringOfPort 3)).run = none ∧
    (s.world.port 3).state = .running ∧ (s.world.port 3).wait = none ∧ (s.world.port 3).retry = none ∧
    (s.world.port 3).entries.find? (fun x => (s.world.port 3).cursor < x.address) = some entry ∧
    (s.world.port 3).entries.find? (fun x => x.address = entry.address) = some entry ∧
    s.world.hall.seat? entry.seat = some { delegate with port := 3 } ∧ delegate.desk = none := by decide

/-- Ring B paired with the port record given to its primary port. -/
def ringWith (p : PortRec) (r : RingRec) : State :=
  withChain { Chain.reset with
    ports := Chain.reset.ports.set 2 p, rings := Chain.reset.rings.set 1 r }

/-- The wrap from the highest address to the lowest, and the polls between assignment steps. -/
theorem test_meets_PollIsBuilt_at_the_ends :
    let s := withChain (chainOf { polled with wait := none })
    let r := ringWith { polled with wait := none } { RingRec.reset with state := .closed }
    let en := { enrolling (.polling 0) with entries := [entry] }
    let a := withChain (chainOf en)
    let b := withChain (chainOf { enrolling (.polling 1) with entries := [entry] })
    let c := ringWith en { RingRec.reset with state := .untested }
    let w := withChain (chainOf { en with wait := some ⟨1, .primary, false⟩ })
    (∀ x, x ∈ (s.world.port 3).entries → x.address ≤ (s.world.port 3).cursor) ∧
    (s.world.port 3).entries.head? = some entry ∧
    (∀ x, x ∈ (r.world.port (primaryPort 1)).entries → x.address ≤ (r.world.port (primaryPort 1)).cursor) ∧
    (r.world.port (primaryPort 1)).entries.head? = some entry ∧
    (a.world.ring (ringOfPort 3)).state = .linear ∧ (a.world.port 3).state = .enrolling ∧
    (a.world.port 3).enrol = some (enrolment (.polling 0)) ∧ (enrolment (.polling 0)).stage = .polling 0 ∧
    (a.world.port 3).wait = none ∧ (a.world.port 3).entries.find? (fun x => 0 < x.address) = some entry ∧
    (a.world.port 3).entries.find? (fun x => x.address = entry.address) = some entry ∧
    a.world.hall.seat? entry.seat = some { delegate with port := 3 } ∧
    (∀ x, x ∈ (b.world.port 3).entries → x.address ≤ 1) ∧ 2 = primaryPort (ringOfPort 2) ∧
    (c.world.ring (ringOfPort 2)).inFlight = false ∧ (c.world.port 2).state = .enrolling ∧
    (w.world.port 3).wait = some ⟨1, .primary, false⟩ := by decide

/-- A ring test of the one seat, whose row is given. -/
def testing (via : Option Bool) : RingRun :=
  ⟨some true, [⟨1, 255, via, none⟩]⟩

theorem test_meets_PollIsBuilt_on_a_ring :
    let quiet : PortRec := { polled with wait := none, cursor := 0 }
    let s := ringWith quiet { RingRec.reset with state := .opened }
    let u := ringWith { quiet with retry := some 1 } { RingRec.reset with state := .opened }
    let v := ringWith quiet { RingRec.reset with state := .closed, run := some (testing none) }
    let f := ringWith quiet { RingRec.reset with state := .closed, inFlight := true }
    (s.world.ring 1).state ≠ .linear ∧ (s.world.ring 1).state = .opened ∧ (s.world.ring 1).inFlight = false ∧
    (s.world.ring 1).run = none ∧ (s.world.port (primaryPort 1)).state = .running ∧
    (s.world.port (primaryPort 1)).wait = none ∧ (s.world.port (primaryPort 1)).retry = none ∧
    (s.world.port (primaryPort 1)).entries.find?
      (fun x => (s.world.port (primaryPort 1)).cursor < x.address) = some entry ∧
    (s.world.port (primaryPort 1)).entries.find? (fun x => x.address = entry.address) = some entry ∧
    s.world.hall.seat? entry.seat = some { delegate with port := 3 } ∧
    (u.world.port (primaryPort 1)).retry = some entry.address ∧ (v.world.ring 1).run = some (testing none) ∧
    (testing none).rows = [] ++ ⟨1, 255, none, none⟩ :: [] ∧ (v.world.ring 1).inFlight = false ∧
    (f.world.ring 1).state ≠ .linear ∧ (f.world.ring 1).inFlight = true := by decide

theorem test_meets_ReplyIsTaken_and_MissIsCounted :
    let s := withChain (chainOf polled)
    let r : Reply := ⟨1#8, false, .delegateUnit, 0, List.replicate 4 .mic, none⟩
    (s.world.ring (ringOfPort 3)).state = .linear ∧ (s.world.ring (ringOfPort 3)).run = none ∧
    (s.world.port 3).state = .running ∧ (s.world.port 3).enrol = none ∧
    (s.world.port 3).wait = some ⟨entry.address, .primary, false⟩ ∧
    (s.world.port 3).entries.find? (fun x => x.address = entry.address) = some entry ∧
    s.world.hall.seat? entry.seat = some { delegate with port := 3 } ∧ delegate.kind = r.kind ∧
    r.events.length ≤ 4 ∧ r.address.toNat = entry.address ∧ entry.missPrimary = 2 ∧ entry.reported = false ∧
    delegate.link = .reachable ∧ { entry with missPrimary := 1 }.missPrimary < 2 := by decide

theorem test_meets_ReplyIsTaken_and_MissIsCounted_on_a_ring :
    let full : PollEntry := { entry with missPrimary := 3 }
    let both : PollEntry := { entry with missSecondary := 3 }
    let c := ringWith polled { RingRec.reset with state := .closed }
    let l := ringWith { polled with entries := [full] } { RingRec.reset with state := .closed, inFlight := true }
    let o := ringWith { polled with wait := some ⟨1, .secondary, false⟩ } { RingRec.reset with state := .opened }
    let m := ringWith { polled with entries := [both] } { RingRec.reset with state := .opened }
    let t := ringWith { polled with wait := some ⟨1, .primary, true⟩ }
      { RingRec.reset with state := .closed, run := some (testing none) }
    (c.world.ring 1).state = .closed ∧ (c.world.ring 1).run = none ∧
    (c.world.port (primaryPort 1)).state = .running ∧ (c.world.port (primaryPort 1)).enrol = none ∧
    (c.world.port (primaryPort 1)).wait = some ⟨entry.address, .primary, false⟩ ∧
    (c.world.port (primaryPort 1)).entries.find? (fun x => x.address = entry.address) = some entry ∧
    c.world.hall.seat? entry.seat = some { delegate with port := 3 } ∧ (c.world.ring 1).inFlight = false ∧
    (l.world.ring 1).inFlight = true ∧ (l.world.port (primaryPort 1)).releasePending = false ∧
    (l.world.port (primaryPort 1)).entries.find? (fun x => x.address = full.address) = some full ∧
    full.missPrimary = 3 ∧ full.reported = false ∧ (o.world.ring 1).state = .opened ∧
    (o.world.port (primaryPort 1)).wait = some ⟨entry.address, .secondary, false⟩ ∧
    (m.world.port (primaryPort 1)).wait = some ⟨both.address, .primary, false⟩ ∧
    (m.world.port (primaryPort 1)).entries.find? (fun x => x.address = both.address) = some both ∧
    min (both.missPrimary + 1) 3 = 3 ∧ both.missSecondary = 3 ∧
    (t.world.ring 1).run = some (testing none) ∧ (testing none).rows = [] ++ ⟨1, 255, none, none⟩ :: [] ∧
    (t.world.port (primaryPort 1)).wait = some ⟨entry.address, .primary, true⟩ := by decide

/-- What an answered seat takes, and a key not accepted, from an unplaced seat and from a dark section. -/
theorem test_meets_ReplyIsTaken_seat :
    let lost : Seat := { delegate with link := .lostGrace 30 }
    let gone : Seat := { delegate with link := .gone }
    let card : Seat := { delegate with badge := some 1#32 }
    oneSeat.seat? 255 = some delegate ∧ delegate.reach ≠ .secondary ∧ delegate.slot ≠ 15 ∧ delegate.badge = none ∧
    lost.link = .lostGrace 30 ∧ gone.link = .gone ∧ card.badge = some 1#32 ∧
    oneSeat.accepts .delegate .mic = true ∧ oneSeat.accepts .delegate .deskOn = false ∧
    { delegate with place := none }.place = none ∧ delegate.place ≠ none ∧ oneSeat.floorOf delegate = none := by decide

/-- The cases of MIC, for a delegate and a chair, with free slots, without, and with the pool empty. -/
theorem test_meets_ReplyIsTaken_mic :
    let at_ := fun (b : Bank) (es : List Speaker) (on : Bool) => hallOf { liveFloor with
      sess := some { session with bankA := b }, speakers := es, requestHolds := on }
    let taken := fun (b : Bank) => { at_ b [] false with slots := Tbl.fill 16 (some ⟨255, 5, true⟩) }
    let dry := { at_ still [] false with
      floors := (at_ still [] false).floors.set 0 { liveFloor with queue := List.replicate 96 ⟨255, 0#32, .press, none, false⟩ } }
    let h := at_ still [] false
    h.seat? 255 = some delegate ∧ h.accepts .delegate .mic = true ∧ h.floorOf delegate = some 5 ∧
    delegate.role = .delegate ∧ delegate.badge = none ∧
    ((at_ { still with badgeRequired := true } [] false).floor 5).bank.badgeRequired = true ∧
    (h.floor 5).bank.badgeRequired = false ∧ (at_ still [turn] false).speakerFloor 255 = some 5 ∧
    h.speakerFloor 255 = none ∧ (hallOf { liveFloor with queue := [⟨255, 0#32, .press, none, false⟩] }).queueFloor 255 =
      some 5 ∧ h.queueFloor 255 = none ∧ h.freeSlot = some 0 ∧ (taken still).freeSlot = none ∧
    h.seat? 0 = some chair ∧ chair.role = .chair ∧ h.floorOf chair = some 5 ∧ h.accepts .chair .mic = true ∧
    (h.floor 5).bank.mode = .request ∧ (h.floor 5).queue.length < (h.floor 5).bank.cap ∧ 0 < h.poolFree ∧
    dry.poolFree = 0 ∧ ((at_ { still with cap := 0 } [] false).floor 5).bank.cap ≤ 0 ∧
    ((at_ { still with mode := .chairOnly } [] false).floor 5).bank.mode = .chairOnly ∧
    ((at_ { still with mode := .opened } [] true).floor 5).muteActive = true ∧
    ((at_ { still with mode := .opened } [] false).floor 5).muteActive = false ∧
    ((at_ { still with mode := .override } [] false).floor 5).delegates < 4 ∧
    ((at_ { still with mode := .override, limit := 1 } [{ turn with seat := 3 }] false).floor 5).bank.limit ≤
      ((at_ { still with mode := .override, limit := 1 } [{ turn with seat := 3 }] false).floor 5).delegates := by
  decide

/-- The cases of CANCEL, NEXT and priority. -/
theorem test_meets_ReplyIsTaken_chair_keys :
    let w : Waiting := ⟨255, 0#32, .press, none, false⟩
    let at_ := fun (b : Bank) (es : List Speaker) (qs : List Waiting) => hallOf { liveFloor with
      sess := some { session with bankA := b }, speakers := es, queue := qs }
    let h := at_ still [] [w]
    let f := at_ { still with limit := 1 } [turn] [w]
    h.seat? 0 = some chair ∧ h.accepts chair.role .cancel = true ∧ h.accepts chair.role .next = true ∧
    h.accepts chair.role .priorityDown = true ∧ h.floorOf chair = some 5 ∧
    (f.floor 5).bank.limit ≤ (f.floor 5).delegates ∧ (f.floor 5).firstReachable = some w ∧
    ((at_ { still with limit := 1 } [turn] []).floor 5).firstReachable = none ∧
    (h.floor 5).delegates < (h.floor 5).bank.limit ∧ h.freeSlot = some 0 ∧
    { h with slots := Tbl.fill 16 (some ⟨255, 5, true⟩) }.freeSlot = none := by decide

theorem test_meets_ChainConfig :
    let paired_ := fun k : RingId =>
      withChain { Chain.reset with rings := Chain.reset.rings.set k { RingRec.reset with state := .untested } }
    let running := fun p : PortId =>
      withChain { Chain.reset with ports := Chain.reset.ports.set p { PortRec.reset with state := .running } }
    State.reset.takes ∧ 0x0A#8 = (if (0 : RingId) = 0 then 0x0A#8 else 0x0B#8) ∧
    0x0B#8 = (if (1 : RingId) = 0 then 0x0A#8 else 0x0B#8) ∧
    (∀ k : RingId, (State.reset.world.port (primaryPort k)).state = .idle ∧
      (State.reset.world.port (secondaryPort k)).state = .idle ∧ (State.reset.world.ring k).state = .linear ∧
      (paired_ k).takes ∧ ((paired_ k).world.port (primaryPort k)).state = .idle ∧
      ((paired_ k).world.port (secondaryPort k)).state = .idle ∧ ((paired_ k).world.ring k).state ≠ .linear ∧
      (running (primaryPort k)).takes ∧ ((running (primaryPort k)).world.port (primaryPort k)).state ≠ .idle ∧
      ((running (secondaryPort k)).world.port (secondaryPort k)).state ≠ .idle) ∧
    (1#8).toNat < 2 ∧ 2 ≤ (2#8).toNat ∧ 9#8 ≠ 0x0A#8 ∧ 9#8 ≠ 0x0B#8 := by
  unfold State.takes
  decide

theorem test_meets_EnrolmentStartsAndAborts :
    let r := withChain (chainOf { PortRec.reset with state := .running })
    let e := withChain (chainOf (enrolling .assigning))
    State.reset.takes ∧ (3#8).toNat = (3 : PortId).val ∧ (State.reset.world.ring (ringOfPort 3)).state = .linear ∧
    (State.reset.world.port 3).state = .idle ∧ State.reset.world.hall.seatsOf 3 = [] ∧ r.takes ∧
    (r.world.ring (ringOfPort 3)).state = .linear ∧ (r.world.port 3).state = .running ∧
    r.world.hall.highest 3 < 64 ∧ e.takes ∧ (e.world.ring (ringOfPort 3)).state = .linear ∧
    (e.world.port 3).state = .enrolling ∧ (e.world.port 3).enrol = some (enrolment .assigning) ∧
    (enrolment .assigning).stage = .assigning := by
  unfold State.takes
  decide

theorem test_meets_AssignmentStep :
    let a := withChain (chainOf (enrolling .assigning))
    let w := withChain (chainOf (enrolling (.window 0)))
    let held : State := { w with
      world := { w.world with hall := { w.world.hall with seats := w.world.hall.seats.set 0 .reserved } } }
    let ring := withChain { ringOf { RingRec.reset with state := .untested } with
      ports := Chain.reset.ports.set 2 (enrolling (.window 0)) }
    (a.world.ring (ringOfPort 3)).state = .linear ∧ (a.world.port 3).enrol = some (enrolment .assigning) ∧
    a.world.hall.seats.get 0 = .free ∧ (∀ m : SeatId, m < 0 → a.world.hall.seats.get m ≠ .free) ∧
    (w.world.port 3).enrol = some (enrolment (.window 0)) ∧ (enrolment (.window 0)).aborting = false ∧
    (1#8).toNat = (enrolment (.window 0)).nextAddr ∧ (enrolment (.window 0)).nextAddr < 64 ∧
    [0#8] ≠ [] ∧ decodeUp [0#8] = none ∧ (held.world.ring (ringOfPort 3)).state = .linear ∧
    (held.world.port 3).enrol = some (enrolment (.window 0)) ∧ held.world.hall.seats.get 0 = .reserved ∧
    (ring.world.ring 1).state ≠ .linear ∧
    (ring.world.port (primaryPort 1)).enrol = some (enrolment (.window 0)) := by decide

theorem test_meets_ChainReset :
    let s := withChain (chainOf { polled with state := .resetting })
    State.reset.takes ∧ (3#8).toNat = (3 : PortId).val ∧ (State.reset.world.ring (ringOfPort 3)).state = .linear ∧
    (State.reset.world.port 3).state ≠ .resetting ∧ (State.reset.world.port 3).enrol = none ∧
    (s.world.ring (ringOfPort 3)).state = .linear ∧ (s.world.port 3).state = .resetting ∧
    (s.world.port 3).releasePending = false ∧ s.world.hall.seatsOf 3 = [255] := by
  unfold State.takes
  decide

theorem test_meets_LoopTestStarts_and_LoopResult :
    let s := withChain (ringOf { RingRec.reset with state := .untested })
    let c := withChain (ringOf { RingRec.reset with state := .closed, periodic := some 1 })
    let f := withChain (ringOf { RingRec.reset with state := .closed, periodic := some 1, inFlight := true })
    s.takes ∧ 0x0B#8 = (if (1 : RingId) = 0 then 0x0A#8 else 0x0B#8) ∧ (s.world.ring 1).state ≠ .linear ∧
    (s.world.port (primaryPort 1)).state = .running ∧ (s.world.ring 1).run = none ∧
    (s.world.ring 1).inFlight = false ∧ (c.world.ring 1).periodic = some 1 ∧ (c.world.ring 1).state = .closed ∧
    (c.world.ring 1).inFlight = false ∧ (f.world.ring 1).periodic = some 1 ∧ (f.world.ring 1).inFlight = true ∧
    (f.world.ring 1).state ≠ .linear ∧ (f.world.ring 1).run = none ∧
    (f.world.port (primaryPort 1)).state = .running ∧ (f.world.port (primaryPort 1)).enrol = none ∧
    (f.world.port (primaryPort 1)).releasePending = false := by
  unfold State.takes
  decide

/-! ## One step of the commands -/

/-- Floor 6 LIVE with the record, and the delegate's unit on port 0 with an open exchange. -/
def onAir (f : Floor) : State :=
  { withHall (hallOf f) with
    world := { (withHall (hallOf f)).world with
      chain := { Chain.reset with
        ports := Chain.reset.ports.set 0 { polled with entries := [{ entry with missPrimary := 0 }] } } } }

def keys (ks : List KeyEvent) : Reply :=
  ⟨1#8, false, .delegateUnit, 0, ks, none⟩

theorem test_layoutOpen_arms :
    (ran (.layoutOpen 7#16) State.reset).map (fun t => (t.world.layout.lock, t.port.buffer, t.port.ready)) =
      some (.armed 7#16 50, .unread ⟨.ok, 0x10#8, .empty⟩, true) := by decide

theorem test_layoutConfirm_opens_or_relocks :
    (ran (.layoutConfirm 7#16) (withLayout armedPlan)).map (fun t => t.world.layout.lock) = some (.opened 7#16 300) ∧
    (ran (.layoutConfirm 8#16) (withLayout armedPlan)).map (fun t => (t.world.layout.lock, t.port.buffer)) =
      some (.locked, .unread ⟨.badKey, 0x11#8, .empty⟩) := by decide

theorem test_sectionSet_deactivates :
    (ran (.sectionSet 12#8 1#8) (withLayout openPlan)).map (fun t => (t.world.layout.active, t.world.layout.lock)) =
      some (0x7FF#12, .opened 7#16 300) := by decide

theorem test_sectionSet_of_a_walled_section_is_refused :
    (ran (.sectionSet 12#8 1#8) (withLayout (doorAt 0 door openPlan))).map (fun t => t.port.buffer) =
      some (.unread ⟨.wrongState, 0x13#8, .empty⟩) := by decide

theorem test_wallDefine_takes_the_line :
    (ran (.wallDefine 16#8 11#8 12#8 0#8 15#8 0#8 0#8 1#8) (withLayout openPlan)).map (fun t => t.world.layout.wall 15) =
      some (some
        { secA := 10, secB := 11, source := .line 15 .openWhenHigh, settle := 4, policy := .held, sensed := .opened
          applied := .opened, merge := .idle, settleLeft := none }) := by decide

theorem test_wallSet_waits_for_the_lock :
    (ran (.wallSet 16#8 0#8) (withLayout (doorAt 15 door openPlan))).map
      (fun t => (t.world.layout.pendingWalls.get 15, (t.world.layout.wall 15).map (·.applied))) =
        some (some .opened, some .closed) := by decide

theorem test_wallSet_under_locked_is_applied :
    (ran (.wallSet 16#8 0#8) (withLayout (doorAt 15 door plan))).map
      (fun t => (t.world.layout.pendingWalls.get 15, (t.world.layout.wall 15).map (·.applied))) =
        some (none, some .opened) := by decide

theorem test_layoutClose_applies_the_pending_set :
    (ran .layoutClose (withLayout { doorAt 15 { door with sensed := .opened } openPlan with
      pendingWalls := (Tbl.fill 16 none).set 15 (some .opened) })).map
      (fun t => (t.world.layout.lock, t.world.layout.pendingWalls.get 15, (t.world.layout.wall 15).map (·.applied))) =
        some (.locked, none, some .opened) := by decide

theorem test_wallLineChange_cancels_the_settle_timer :
    (ran (.wallLineChange 15 false) (withLayout (doorAt 15 curtain plan))).map
      (fun t => (t.world.layout.wall 15).map (·.settleLeft)) = some (some none) := by decide

theorem test_an_opened_wall_annexes_a_dark_section :
    (ran (.wallSet 1#8 0#8) { withHall (hallOf liveFloor) with
      world := { (withHall (hallOf liveFloor)).world with
        layout := doorAt 0 { door with secA := 0, secB := 11 } plan } }).map
      (fun t => (t.world.hall.floor 5).members) = some 0x801#12 := by decide

theorem test_maskSet_and_rosterChanges :
    (ran (.maskSet 2#8 0x11#8) State.reset).map (fun t => t.world.hall.maskDesk) = some 0x11#5 ∧
    (ran .rosterChanges (withHall { Hall.reset with marks := Hall.reset.marks.set 255 true })).map
      (fun t => (t.port.buffer, t.world.hall.marks.get 255, t.world.hall.cursor)) =
        some (.unread ⟨.ok, 0x26#8, .roster [⟨255, none⟩] false⟩, false, 256) := by decide

theorem test_seatRetire_needs_a_gone_seat :
    (ran (.seatRetire 256#16) (withHall oneSeat)).map (fun t => t.port.buffer) =
      some (.unread ⟨.wrongState, 0x24#8, .empty⟩) := by decide

theorem test_graceExpiry_makes_the_seat_gone :
    (ran (.graceExpiry 255) (withHall (seated 255 { delegate with link := .lostGrace 1 } Hall.reset))).map
      (fun t => (t.world.hall.seat? 255).map (·.link)) = some (some .gone) := by decide

theorem test_floorOpen_takes_the_lowest_channel :
    (ran (.floorOpen 5#8 12#8 7#8) (withHall (hallOf liveFloor))).map
      (fun t => (t.port.buffer, (t.world.hall.floor 4).members, t.world.hall.channels.get 1)) =
        some (.unread ⟨.ok, 0x30#8, .floorOpened 1 0x800#12⟩, 0x800#12,
          ⟨some ⟨.owned, 4, some 0, .original⟩, .floorMix 4⟩) := by decide

theorem test_floorClose_ends_turns_and_frees :
    (ran (.floorClose 6#8) (withHall { hallOf speaking with
      slots := (Tbl.fill 16 none).set 0 (some ⟨255, 5, true⟩) })).map
      (fun t => (t.world.hall.slots.get 0, (t.world.hall.channels.get 0).use.isSome,
        (t.world.hall.seat? 255).bind (·.lastTurn))) =
        some (none, false, some ⟨.floorClosed, 5, 0, 0⟩) := by decide

theorem test_bankWrite_and_swap :
    (ran (.bankWrite 6#8 [⟨1#8, 8#16⟩, ⟨31#8, 250#16⟩]) (withHall (hallOf liveFloor))).map
      (fun t => (t.world.hall.floor 5).sess.map fun x => (x.bankB.limit, x.bankB.listen.get 15, x.bankA.limit)) =
        some (some (8, some 250, 4)) ∧
    (ran (.bankSwapNormal 6#8) (withHall (hallOf speaking))).map (fun t => t.port.buffer) =
      some (.unread ⟨.accepted, 0x36#8, .empty⟩) ∧
    (ran (.bankSwapForce 6#8) (withHall (hallOf speaking))).map
      (fun t => (t.world.hall.floor 5).sess.map (·.current)) = some (some .b) := by decide

theorem test_mic_joins_the_queue :
    (ran (.reply 0 (keys [.mic])) (onAir liveFloor)).map (fun t => (t.world.hall.floor 5).queue) =
      some [⟨255, 0#32, .press, none, false⟩] := by decide

theorem test_a_repeated_batch_is_not_taken :
    (ran (.reply 0 { keys [.mic] with seqBit := true }) (onAir liveFloor)).map
      (fun t => (t.world.hall.floor 5).queue) = some [] := by decide

theorem test_mic_in_open_mode_speaks :
    (ran (.reply 0 (keys [.mic])) (onAir { liveFloor with
      sess := some { session with bankA := { session.bankA with mode := .opened } } })).map
      (fun t => ((t.world.hall.floor 5).speakers.map (·.seat), t.world.hall.slots.get 0)) =
        some ([255], some ⟨255, 5, true⟩) := by decide

theorem test_a_chair_only_floor_refuses_mic :
    (ran (.reply 0 (keys [.mic])) (onAir { liveFloor with
      sess := some { session with bankA := { session.bankA with mode := .chairOnly } } })).map
      (fun t => (t.world.hall.seat? 255).map fun r => (r.lastRefusal, r.indicator)) =
        some (some (some .chairOnly, .refused)) := by decide

theorem test_grant_and_closeMic :
    (ran (.grant 6#8 0#16 1#8) (withHall (hallOf { liveFloor with queue := [waiting] }))).map
      (fun t => ((t.world.hall.floor 5).queue, (t.world.hall.floor 5).speakers.map (·.slot), t.port.buffer)) =
        some ([], [0], .unread ⟨.ok, 0x40#8, .granted 0⟩) ∧
    (ran (.closeMic 256#16) (withHall (hallOf speaking))).map
      (fun t => (t.world.hall.seat? 255).bind (·.lastTurn)) = some (some ⟨.revoked, 5, 0, 0⟩) := by decide

theorem test_queue_requests :
    (ran (.queueInsert 6#8 256#16 1#8) (withHall (hallOf liveFloor))).map (fun t => (t.world.hall.floor 5).queue) =
      some [⟨255, 0#32, .hostInsert, none, false⟩] ∧
    (ran (.queueRemove 256#16) (withHall (hallOf { liveFloor with queue := [waiting] }))).map
      (fun t => ((t.world.hall.floor 5).queue, (t.world.hall.floor 5).lastRemoval)) =
        some ([], some (255, .removed)) ∧
    (ran (.queueClear 6#8) (withHall (hallOf { liveFloor with queue := [waiting] }))).map
      (fun t => (t.world.hall.floor 5).lastRemoval) = some (some (255, .cleared)) := by decide

theorem test_floorPriority_mutes_and_lets_go :
    (ran (.floorPriorityOn 6#8) (withHall (hallOf speaking))).map
      (fun t => (t.world.hall.floor 5).speakers.map (·.priorityMute)) = some [true] ∧
    (ran (.floorPriorityOff 6#8) (withHall (hallOf
      { speaking with requestHolds := true, speakers := [{ turn with priorityMute := true }] }))).map
      (fun t => (t.world.hall.floor 5).speakers.map (·.priorityMute)) = some [false] := by decide

theorem test_sessionTick_ends_a_cut_turn :
    (ran .sessionTick (withHall (hallOf { liveFloor with speakers := [{ turn with timer := some timer }] }))).map
      (fun t => (t.world.clock, (t.world.hall.seat? 255).bind (·.lastTurn))) =
        some (1#32, some ⟨.timeUp, 5, 0, 0⟩) := by decide

theorem test_turnTimerZero :
    (ran (.turnTimerZeroCut 255) (withHall (hallOf
      { liveFloor with speakers := [{ turn with timer := some timer }] }))).map
      (fun t => ((t.world.hall.floor 5).speakers, (t.world.hall.seat? 255).bind (·.lastTurn))) =
        some ([], some ⟨.timeUp, 5, 0, 0⟩) ∧
    (ran (.turnTimerZeroWarn 255) (withHall (hallOf
      { liveFloor with speakers := [{ turn with timer := some { timer with mode := .warn } }] }))).map
      (fun t => (t.world.hall.floor 5).speakers.map fun e => e.timer.map (·.phase)) = some [some .overrun] := by decide

theorem test_a_warn_zero_starts_its_overrun_second_afresh :
    (ran (.turnTimerZeroWarn 255) (withHall (hallOf
      { liveFloor with speakers := [{ turn with timer := some { timer with mode := .warn } }] }))).map
      (fun t => (t.world.hall.floor 5).speakers.map fun e => e.timer.map fun x => (x.remaining, x.ticks)) =
        some [some (0, 0)] := by decide

theorem test_flashEnd :
    (ran (.flashEnd 255) (withHall (seated 255 { delegate with flash := some 1, indicator := .refused } Hall.reset))).map
      (fun t => (t.world.hall.seat? 255).map fun r => (r.flash, r.indicator)) = some (some (none, .off)) := by decide

theorem test_boothOutput_and_clear :
    (ran (.boothOutput 12#8 0#8 250#8 0xFF#8) (withHall (boothHall assigned))).map
      (fun t => (t.port.buffer, (t.world.hall.booths.get 11).outA.use, t.world.hall.channels.get 1)) =
        some (.unread ⟨.ok, 0x51#8, .outputChannel 1⟩, some ⟨250, 1, .silent 30⟩,
          ⟨some ⟨.owned, 5, some 250, .output 11 .a⟩, .silence⟩) ∧
    (ran (.boothOutputClear 12#8 0#8) (withHall { boothHall { assigned with
        outA := { Output.reset with use := some ⟨250, 1, .silent 5⟩ } } with
      channels := (hallOf liveFloor).channels.set 1 ⟨some ⟨.owned, 5, some 250, .output 11 .a⟩, .silence⟩ })).map
      (fun t => ((t.world.hall.booths.get 11).outA.use, (t.world.hall.channels.get 1).use)) = some (none, none) := by
  decide

theorem test_boothOutput_b_on_a_named_channel :
    (ran (.boothOutput 12#8 1#8 250#8 31#8) (withHall (boothHall { assigned with delay := 0 }))).map
      (fun t => (t.port.buffer, (t.world.hall.output 11 .b).use, t.world.hall.channels.get 31)) =
        some (.unread ⟨.ok, 0x51#8, .outputChannel 31⟩, some ⟨250, 31, .fallback⟩,
          ⟨some ⟨.owned, 5, some 250, .output 11 .b⟩, .floorMix 5⟩) ∧
    (ran (.boothOutput 12#8 1#8 250#8 31#8) (withHall { boothHall assigned with
        floors := (Tbl.fill 6 Floor.reset).set 5 { liveFloor with state := .folded 0 } })).map
      (fun t => t.world.hall.channels.get 31) = some ⟨some ⟨.lent 0, 5, some 250, .output 11 .b⟩, .silence⟩ ∧
    (ran (.boothOutputClear 12#8 1#8) (withHall (boothHall { assigned with
        outB := { Output.reset with use := some { used with state := .live 254 true } } }))).map
      (fun t => ((t.world.hall.output 11 .b).lastRelease, (t.world.hall.channels.get 0).use)) =
        some (some (254, .outputCleared), none) := by decide

theorem test_fallbackDelayExpiry_sends_the_floor :
    (ran (.fallbackDelayExpiry 11 .a) (withHall { boothHall { assigned with
        outA := { Output.reset with use := some ⟨250, 1, .silent 1⟩ } } with
      channels := (hallOf liveFloor).channels.set 1 ⟨some ⟨.owned, 5, some 250, .output 11 .a⟩, .silence⟩ })).map
      (fun t => ((t.world.hall.booths.get 11).outA.use, (t.world.hall.channels.get 1).content)) =
        some (some ⟨250, 1, .fallback⟩, .floorMix 5) := by decide

theorem test_booth_requests :
    (ran (.boothAssign 12#8 6#8) (withHall (boothHall Booth.reset))).map
      (fun t => (t.world.hall.booths.get 11).floor) = some (some 5) ∧
    (ran (.boothAddDesk 12#8 256#16) (withHall (boothHall assigned))).map
      (fun t => (t.world.hall.booths.get 11).desks) = some [255] ∧
    (ran (.boothRemoveDesk 12#8 256#16) (withHall (boothHall { assigned with desks := [255] }))).map
      (fun t => (t.world.hall.booths.get 11).desks) = some [] ∧
    (ran (.boothSet 12#8 1#8 10#8) State.reset).map
      (fun t => ((t.world.hall.booths.get 11).policy, (t.world.hall.booths.get 11).delay)) = some (.handover, 10) ∧
    (ran (.boothRelease 12#8) (withHall (boothHall assigned))).map (fun t => (t.world.hall.booths.get 11).floor) =
      some none := by decide

theorem test_route_frames :
    (ran .routeFrameDone State.reset).map (fun t => (t.world.hall.inFlight, t.world.hall.routeQueue.length)) =
      some (some (.slot 1 none), 46) ∧
    ((ran .holdActive State.reset).bind (ran .routeFrameDone)).map (fun t => t.world.hall.inFlight) = some none ∧
    (ran .holdInactive (withHall { Hall.reset with hold := true, inFlight := none })).map
      (fun t => t.world.hall.inFlight) = some (some (.slot 1 none)) := by decide

theorem test_poll_sends_the_seat :
    (ran (.poll 3) (withChain (chainOf { polled with wait := none, cursor := 0 }))).map
      (fun t => t.world.chain.sent.get 3) = some (pollFrame 1 true 9#8 0xFF#8 none) := by decide

theorem test_third_miss_loses_the_unit :
    (ran (.pollMiss 3 []) (withChain (chainOf polled))).map
      (fun t => ((t.world.hall.seat? 255).map (·.link), t.world.hall.stands (.unitLost 3))) =
        some (some (.lostGrace 30), true) := by decide

theorem test_enrolment :
    (ran (.enrollFull 3#8) State.reset).map (fun t => ((t.world.port 3).state, t.port.buffer, t.world.chain.sent.get 3)) =
      some (.enrolling, .unread ⟨.accepted, 0x61#8, .empty⟩, releaseAllFrame) ∧
    (ran (.assignStep 3) (withChain (chainOf (enrolling .assigning)))).map
      (fun t => (t.world.hall.seats.get 0, t.world.chain.sent.get 3)) = some (.reserved, assignFrame 1) ∧
    (ran (.assignAck 3 1#8 .chairUnit) (withChain (chainOf (enrolling (.window 0))))).map
      (fun t => (t.world.hall.seats.get 0, (t.world.port 3).enrol.map (·.nextAddr))) =
        some (.held (Seat.made 3 1 .chairUnit), some 2) ∧
    (ran (.assignTimeout 3) (withChain (chainOf (enrolling (.window 0))))).map
      (fun t => ((t.world.port 3).lastEnrol.map (·.result), t.world.hall.stands (.enrollDone 3))) =
        some (some .done, true) ∧
    (ran (.enrollAbort 3#8) (withChain (chainOf (enrolling .assigning)))).map
      (fun t => (t.world.port 3).lastEnrol.map (·.result)) = some (some .aborted) := by decide

theorem test_chainReset_retires_the_seats :
    (ran (.chainReset 3#8) (withChain (chainOf polled))).map (fun t => ((t.world.port 3).state, t.port.buffer)) =
      some (.resetting, .unread ⟨.accepted, 0x63#8, .empty⟩) ∧
    (ran (.chainSeatRetire 3) (withChain (chainOf { polled with state := .resetting }))).map
      (fun t => (t.world.hall.seats.get 255, (t.world.port 3).state)) = some (.free, .idle) := by decide

theorem test_rings :
    (ran (.chainConfig 0x0B#8 1#8) State.reset).map (fun t => (t.world.ring 1).state) = some .untested ∧
    (ran (.ringTest 0x0B#8) (withChain (ringOf { RingRec.reset with state := .untested }))).map
      (fun t => (t.world.chain.sent.get 2, (t.world.ring 1).inFlight)) = some (loopFrame 1#8, true) ∧
    (ran (.loopArrival 1 9#8) (withChain (ringOf
      { RingRec.reset with state := .untested, inFlight := true, testNo := 9#8 }))).map
      (fun t => ((t.world.ring 1).state, (t.world.ring 1).periodic)) = some (.closed, some 10) ∧
    (ran (.loopTimeout 1) (withChain (ringOf
      { RingRec.reset with state := .closed, inFlight := true, testNo := 9#8 }))).map
      (fun t => ((t.world.ring 1).state, t.world.hall.stands (.ringChanged 1))) = some (.opened, true) := by decide

theorem test_a_ring_that_opens_clears_the_secondary_counts :
    (ran (.loopTimeout 1) (ringWith { polled with wait := none, entries := [{ entry with missSecondary := 1 }] }
      { RingRec.reset with state := .closed, inFlight := true })).map
      (fun t => ((t.world.port 2).entries.map (·.missSecondary), (t.world.ring 1).state)) = some ([0], .opened) := by decide

theorem test_polls_between_assignment_steps :
    let en := { enrolling (.polling 0) with entries := [entry, { entry with address := 2, seat := 254 }] }
    (ran (.poll 3) (withChain (chainOf en))).map (fun t => (t.world.port 3).wait) = some (some ⟨1, .primary, false⟩) ∧
    (ran (.pollMiss 3 []) (withChain (chainOf { en with wait := some ⟨1, .primary, false⟩ }))).map
      (fun t => (t.world.port 3).enrol.map (·.stage)) = some (some (.polling 1)) ∧
    (ran (.pollMiss 3 []) (withChain (chainOf { en with wait := some ⟨2, .primary, false⟩ }))).map
      (fun t => (t.world.port 3).enrol.map (·.stage)) = some (some .assigning) ∧
    (ran (.poll 3) (withChain (chainOf { polled with wait := none }))).map (fun t => (t.world.port 3).wait) =
      some (some ⟨1, .primary, false⟩) := by decide

theorem test_a_miss_of_a_ring_test_starts_a_loop_test :
    (ran (.pollMiss 2 []) (ringWith { polled with wait := some ⟨1, .primary, true⟩ }
      { RingRec.reset with state := .closed, run := some (testing none) })).map
      (fun t => ((t.world.port 2).entries, (t.world.ring 1).inFlight)) = some ([entry], true) := by decide

theorem test_wallRead_carries_the_number :
    (ran (.wallRead 16#8) State.reset).map (fun t => t.port.buffer) =
      some (.unread ⟨.ok, 0x17#8, .wall 15 none none none none .locked 0#12⟩) := by decide

theorem test_answerRead :
    (ran (.answerRead 9) (withPort answerPort)).map (fun t => (t.port.readOut, t.port.ready)) =
      some ([0#8, 0x73#8, 4#8, 0#8, 0#8, 0#8, 0#8, checkByte [0#8, 0x73#8, 4#8, 0#8, 0#8, 0#8, 0#8], 0xFF#8], false) := by
  decide

theorem test_a_write_shifts_out_the_frame_held :
    (ran .clockRead (withPort answerPort)).map (fun t => (t.port.readOut, t.port.ready)) =
      some ([0#8, 0x73#8, 4#8], true) ∧
    (ran (.requestFrameRefused (List.replicate 9 0x10#8)) (withPort busyPort)).map (fun t => t.port.readOut) =
      some (List.replicate 9 0xFF#8) := by decide

theorem test_a_discarded_write_shifts_out_filler :
    (ran .writeDiscarded (withPort busyPort)).map (fun t => (t.port.readOut, t.port.discards)) =
      some (List.replicate (Config.discardedBytes 0 + 1) 0xFF#8, 1) := rfl

theorem test_attention :
    (ran .readAttention (withHall (Hall.reset.raise .layoutExpired))).map (fun t => (t.port.buffer, t.port.attn)) =
      some (.unread ⟨.ok, 0x70#8, .attention [.layoutExpired]⟩, false) ∧
    (ran (.attentionMask 0x40#16) (withHall (Hall.reset.raise .layoutExpired))).map (fun t => t.port.attn) = some true ∧
    (ran (.attentionMask 0x80#16) (withHall (Hall.reset.raise .layoutExpired))).map (fun t => t.port.attn) =
      some false := by decide

theorem test_hallReset :
    (ran (.hallReset 0x4F12#16) State.reset).map (fun t => (t.port.phase, t.port.ready)) = some (.executing, false) ∧
    (ran .hallResetFloorClose (closingHall speaking)).map (fun t => (t.world.hall.floor 5).state) = some .closed ∧
    (ran .hallResetAttentionClear (withPort { busyPort with hall := .refilled })).map (fun t => t.port.buffer) =
      some (.unread ⟨.ok, 0x72#8, .empty⟩) := by decide

theorem test_seatRead_carries_the_refusal_code :
    (ran (.seatRead 256#16) (withHall (seated 255 { delegate with lastRefusal := some .outputHeld } Hall.reset))).map
      (fun t => t.port.buffer) =
        some (.unread ⟨.ok, 0x21#8, .seat 255 { delegate with lastRefusal := some .outputHeld } none (some 40#8)⟩) ∧
    keyRefusalByte .noVoiceSlot = 15#8 ∧ keyRefusalByte .deskBusy = 24#8 ∧ keyRefusalByte .unplaced = 32#8 := by decide

end Sys2Proof.Tests
end

/-! PROOFS. The family of chapter 1: sections, walls and the layout lock. First the rules of the layout's records, then
the invariant of the layout through every command, then what each request of the Layout Unit answers. -/

namespace Sys2Proof

/-! ## The records of the layout -/

@[simp] theorem Layout.restartIdle_walls (l : Layout) : l.restartIdle.walls = l.walls := by
  unfold Layout.restartIdle
  split <;> rfl

@[simp] theorem Layout.restartIdle_pendingWalls (l : Layout) : l.restartIdle.pendingWalls = l.pendingWalls := by
  unfold Layout.restartIdle
  split <;> rfl

@[simp] theorem Layout.restartIdle_active (l : Layout) : l.restartIdle.active = l.active := by
  unfold Layout.restartIdle
  split <;> rfl

@[simp] theorem Layout.restartIdle_lines (l : Layout) : l.restartIdle.lines = l.lines := by
  unfold Layout.restartIdle
  split <;> rfl

theorem Layout.restartIdle_locked (l : Layout) : l.restartIdle.lock = .locked ↔ l.lock = .locked := by
  unfold Layout.restartIdle
  split <;> simp [*]

theorem Layout.unlocked_of_isOpen {l : Layout} (h : l.isOpen = true) : l.lock ≠ .locked := by
  intro e
  simp [Layout.isOpen, e] at h

theorem Layout.isOpen_of_opened {l : Layout} {key : Half} {left : Nat} (h : l.lock = .opened key left) :
    l.isOpen = true := by
  simp [Layout.isOpen, h]

theorem Layout.restartIdle_opened {l : Layout} {key : Half} {left : Nat} (h : l.lock = .opened key left) :
    l.restartIdle = { l with lock := .opened key 300 } := by
  simp [Layout.restartIdle, h, idleTicks]

/-- A wall write with its pending entry left absent. -/
theorem Layout.setPending_absent {l : Layout} {i : WallId} (h : l.pendingWalls.get i = none) :
    l.setPending i none = l := by
  unfold Layout.setPending
  rw [Tbl.set_get _ _ _ h]

/-! ### Levels of the lines -/

/-- The layout with another level on one line. -/
def Layout.withLevel (l : Layout) (n : LineId) (high : Bool) : Layout :=
  { l with lines := l.lines.set n high }

/-- What a wall's line reports is read from the lines alone. -/
theorem Layout.reported_of_lines {l m : Layout} (h : m.lines = l.lines) (x : Wall) : m.reported x = l.reported x := by
  unfold Layout.reported
  rw [h]

theorem Layout.reported_line {l : Layout} {x : Wall} {n : LineId} {p : Polarity} (h : x.source = .line n p) :
    l.reported x = some (reportedBy p (l.lines.get n)) := by
  unfold Layout.reported
  rw [h]

theorem Layout.reported_request {l : Layout} {x : Wall} (h : x.source = .request) : l.reported x = none := by
  unfold Layout.reported
  rw [h]

theorem Layout.reported_withLevel {l : Layout} {n : LineId} {x : Wall} (h : x.onLine n = false) (high : Bool) :
    (l.withLevel n high).reported x = l.reported x := by
  cases e : x.source with
  | request => rw [reported_request e, reported_request e]
  | line m p =>
    have ne : n ≠ m := by
      intro k
      simp [Wall.onLine, e, k] at h
    rw [reported_line e, reported_line e, Layout.withLevel, Tbl.get_set_ne _ _ ne]

/-- A wall on a line has a line that reports. -/
theorem Layout.reported_of_onLine {x : Wall} {n : LineId} (h : x.onLine n = true) (l : Layout) :
    ∃ pos, l.reported x = some pos := by
  cases e : x.source with
  | request => simp [Wall.onLine, e] at h
  | line m p => exact ⟨_, reported_line e⟩

/-- The settle timer of a wall as its line reports now (01 R11): stopped on the sensed state; otherwise it runs, from
the whole settle time where it did not run before. -/
def Wall.judged (l : Layout) (x : Wall) : Wall :=
  { x with settleLeft := if l.reported x = some x.sensed then none else some (x.settleLeft.getD x.settleTicks) }

theorem Wall.with_settleLeft {x : Wall} {left : Option Nat} (h : x.settleLeft = left) :
    { x with settleLeft := left } = x := by
  rw [← h]

/-- A wall after a line has changed its level: the walls of other lines stay. -/
def Wall.afterLevel (l : Layout) (n : LineId) (high : Bool) (x : Wall) : Wall :=
  if x.onLine n then x.judged (l.withLevel n high) else x

/-- A line that keeps its level changes nothing. -/
theorem Layout.lineChange_same {l : Layout} {n : LineId} {high : Bool} (h : l.lines.get n = high) :
    l.lineChange n high = l := by
  unfold Layout.lineChange
  rw [if_pos h]

/-- A line that changes level writes its level and the settle timers of its walls (01 R11). -/
theorem Layout.lineChange_eq {l : Layout} {n : LineId} {high : Bool} (h : l.lines.get n ≠ high) :
    l.lineChange n high =
      { l.withLevel n high with walls := l.walls.imap fun _ x => x.map (Wall.afterLevel l n high) } := by
  unfold Layout.lineChange
  rw [if_neg h]
  simp only [Layout.withLevel]
  congr
  funext _ o
  congr
  funext x
  unfold Wall.afterLevel Wall.judged Layout.withLevel
  split
  · by_cases rep : (l.withLevel n high).reported x = some x.sensed <;> simp only [Layout.withLevel] at rep
    · cases run : x.settleLeft <;> simp [rep, Wall.with_settleLeft run]
    · cases run : x.settleLeft <;> simp [rep, Wall.with_settleLeft run]
  · rfl

/-- The wall at a number after a line has changed its level. -/
theorem Layout.wall_lineChange {l : Layout} {n : LineId} {high : Bool} (h : l.lines.get n ≠ high) (i : WallId) :
    (l.lineChange n high).wall i = (l.wall i).map (Wall.afterLevel l n high) := by
  rw [Layout.lineChange_eq h]
  simp [Layout.wall]

theorem Layout.wall_tick (l : Layout) (i : WallId) : l.tick.wall i = (l.wall i).map Wall.tick := by
  simp [Layout.tick, Layout.wall]

end Sys2Proof

namespace Sys2Proof.Machine

/-! ## The invariant of the layout -/

/-- The part of `LayoutInv` that also holds in the middle of a return to LOCKED, when entries are still pending. -/
def WallsFit (l : Layout) : Prop :=
  (∀ i x, l.wall i = some x → WallInv l x) ∧ ∀ i pos, l.pendingWalls.get i = some pos → PendingInv l i pos

theorem layoutInv_iff {l : Layout} :
    LayoutInv l ↔ WallsFit l ∧ (l.lock = .locked → ∀ i, l.pendingWalls.get i = none) :=
  and_assoc.symm

theorem LayoutInv.fit {l : Layout} (h : LayoutInv l) : WallsFit l :=
  (layoutInv_iff.mp h).1

/-- Under an unlocked lock the invariant asks for the walls and their entries alone. -/
theorem WallsFit.layoutInv {l : Layout} (h : WallsFit l) (unlocked : l.lock ≠ .locked) : LayoutInv l :=
  layoutInv_iff.mpr ⟨h, fun e => absurd e unlocked⟩

/-- A wall stays good on another layout with the same lines on which its sections are active. -/
theorem WallInv.of_layout {l m : Layout} {x : Wall} (h : WallInv l x) (lines : m.lines = l.lines)
    (active : ∀ k, x.names k = true → l.active.getLsbD k.val = true → m.active.getLsbD k.val = true) :
    WallInv m x := by
  obtain ⟨ne, a, b, settle, merge⟩ := h
  have same : m.reported x = l.reported x := by
    unfold Layout.reported
    rw [lines]
  exact ⟨ne, active _ (by simp [Wall.names]) a, active _ (by simp [Wall.names]) b, by rwa [same], merge⟩

theorem PendingInv.of_walls {l m : Layout} {i : WallId} {pos : WallPos} (h : PendingInv l i pos)
    (walls : m.wall i = l.wall i) : PendingInv m i pos := by
  unfold PendingInv
  rw [walls]
  exact h

/-- A change of the lock alone keeps walls and entries. -/
theorem WallsFit.of_records {l m : Layout} (h : WallsFit l) (walls : m.walls = l.walls)
    (pending : m.pendingWalls = l.pendingWalls) (lines : m.lines = l.lines)
    (active : ∀ i x k, l.wall i = some x → x.names k = true → l.active.getLsbD k.val = true →
      m.active.getLsbD k.val = true) : WallsFit m := by
  have wall : ∀ i, m.wall i = l.wall i := fun i => congrArg (fun t => t.get i) walls
  refine ⟨fun i x hx => ?_, fun i pos hp => ?_⟩
  · rw [wall i] at hx
    exact (h.1 i x hx).of_layout lines fun k => active i x k hx
  · rw [pending] at hp
    exact (h.2 i pos hp).of_walls (wall i)

theorem LayoutInv.restartIdle {l : Layout} (h : LayoutInv l) : LayoutInv l.restartIdle := by
  obtain ⟨fit, empty⟩ := layoutInv_iff.mp h
  refine layoutInv_iff.mpr ⟨fit.of_records (by simp) (by simp) (by simp) (by simp), fun e => ?_⟩
  rw [Layout.restartIdle_pendingWalls]
  exact empty ((Layout.restartIdle_locked l).mp e)

/-! ### Writing one wall -/

/-- One wall written with its pending entry: the wall has to be good, and the entry has to be its own. -/
theorem WallsFit.write {l : Layout} (h : WallsFit l) (i : WallId) {x : Option Wall} {p : Option WallPos}
    (wall : ∀ y, x = some y → WallInv l y)
    (entry : ∀ pos, p = some pos → ∃ y, x = some y ∧ y.sensed = pos ∧ y.applied ≠ pos ∧ y.merge = .idle) :
    WallsFit ((l.setWall i x).setPending i p) := by
  have other : ∀ j, ((l.setWall i x).setPending i p).wall j = if i = j then x else l.wall j :=
    fun j => Layout.wall_setWall l i j x
  refine ⟨fun j y hy => ?_, fun j pos hj => ?_⟩
  · refine WallInv.of_layout (l := l) ?_ rfl fun _ _ => id
    rw [other] at hy
    split at hy
    · exact wall y hy
    · exact h.1 j y hy
  · unfold PendingInv
    rw [other]
    rw [Layout.setPending_pendingWalls, Layout.setWall_pendingWalls, Tbl.get_set] at hj
    split at hj
    next e => rw [if_pos e]; exact entry pos hj
    next e => rw [if_neg e]; exact h.2 j pos hj

/-- A wall without a pending entry written alone. -/
theorem WallsFit.setWall {l : Layout} (h : WallsFit l) {i : WallId} {x : Option Wall}
    (wall : ∀ y, x = some y → WallInv l y) (absent : l.pendingWalls.get i = none) : WallsFit (l.setWall i x) := by
  have fit := h.write i (x := x) (p := none) wall (fun _ e => by cases e)
  rwa [Layout.setPending_absent (l := l.setWall i x) absent] at fit

/-- The same for the whole invariant. -/
theorem LayoutInv.setWall {l : Layout} (h : LayoutInv l) {i : WallId} {x : Option Wall}
    (wall : ∀ y, x = some y → WallInv l y) (absent : l.pendingWalls.get i = none) : LayoutInv (l.setWall i x) := by
  obtain ⟨fit, empty⟩ := layoutInv_iff.mp h
  exact layoutInv_iff.mpr ⟨fit.setWall wall absent, empty⟩

/-- A wall whose merge waits or is refused has no pending entry. -/
theorem LayoutInv.absent_of_merge {l : Layout} (h : LayoutInv l) {i : WallId} {x : Wall} (wall : l.wall i = some x)
    (merge : x.merge ≠ .idle) : l.pendingWalls.get i = none := by
  rw [Option.eq_none_iff_forall_ne_some]
  intro pos hp
  obtain ⟨y, hy, _, _, idle⟩ := h.2.1 i pos hp
  rw [wall] at hy
  cases hy
  exact merge idle

/-! ### A wall that changes -/

/-- Merge and applied state decided: a merge stays only on a wall sensed OPEN and applied CLOSED. -/
theorem WallInv.decided {l : Layout} {x : Wall} (h : WallInv l x) {m : MergeState} {p : WallPos}
    (merge : m ≠ .idle → x.sensed = .opened ∧ p = .closed) : WallInv l { x with merge := m, applied := p } := by
  obtain ⟨ne, a, b, settle, _⟩ := h
  exact ⟨ne, a, b, settle, merge⟩

/-- A sensed state that is the one the line reports, or any where there is no line. -/
theorem WallInv.sensed {l : Layout} {x : Wall} (h : WallInv l x) {pos : WallPos} {m : MergeState} {p : WallPos}
    (line : ∀ q, l.reported x = some q → q = pos) (merge : m ≠ .idle → pos = .opened ∧ p = .closed) :
    WallInv l { x with sensed := pos, settleLeft := none, merge := m, applied := p } := by
  obtain ⟨ne, a, b, _, _⟩ := h
  refine ⟨ne, a, b, ⟨fun e => (by cases e), ?_⟩, merge⟩
  rintro ⟨q, hq, other⟩
  exact absurd (line q hq) other

/-- A wall sensed CLOSED has no merge state. -/
theorem WallInv.idle_of_closed {l : Layout} {x : Wall} (h : WallInv l x) (closed : x.sensed = .closed) :
    x.merge = .idle := by
  obtain ⟨_, _, _, _, merge⟩ := h
  by_contra e
  rw [(merge e).1] at closed
  cases closed

/-- What a sensed change applied under LOCKED makes of its wall (01 R14, R15): a merge is left only where OPEN waits. -/
theorem applySensed_decides {w : World} {i : WallId} {x : Wall} (wall : w.layout.wall i = some x)
    (idle : x.sensed = .opened → x.merge = .idle) :
    ∃ m p, (w.applySensed i x).layout = w.layout.setWall i (some { x with merge := m, applied := p }) ∧
      (m ≠ .idle → x.sensed = .opened ∧ p = .closed) := by
  have same : w.layout = w.layout.setWall i (some x) := by
    unfold Layout.setWall
    rw [Tbl.set_get _ _ _ wall]
  unfold World.applySensed
  split
  next hs ha => exact ⟨.idle, .closed, rfl, fun e => absurd rfl e⟩
  next hs ha => exact ⟨.idle, x.applied, rfl, fun e => absurd rfl e⟩
  next hs ha => exact ⟨x.merge, x.applied, same, fun e => absurd (idle hs) e⟩
  next hs ha =>
    split
    · exact ⟨.pending, x.applied, rfl, fun _ => ⟨hs, ha⟩⟩
    · exact ⟨x.merge, .opened, rfl, fun e => absurd (idle hs) e⟩

end Sys2Proof.Machine

namespace Sys2Proof.Machine

/-! ## The commands of the Layout Unit keep the invariant -/

/-- A change of sensed state (01 R13 to R15), of a wall whose line, if it has one, reports the new state. -/
theorem LayoutInv.sensedChange {w : World} (h : LayoutInv w.layout) {i : WallId} {x : Wall} {pos : WallPos}
    (wall : w.layout.wall i = some x) (other : x.sensed ≠ pos)
    (line : ∀ q, w.layout.reported x = some q → q = pos) : LayoutInv (w.sensedChange i x pos).layout := by
  have good := h.1 i x wall
  have idle : pos = .opened → x.merge = .idle := by
    intro e
    refine good.idle_of_closed ?_
    cases hs : x.sensed with
    | closed => rfl
    | opened => exact absurd (hs.trans e.symm) other
  by_cases lock : w.layout.lock = .locked
  · -- under LOCKED the change is applied, and the wall is written once more
    have absent := h.2.2 lock i
    simp only [World.sensedChange, Layout.isLocked_true lock, if_true]
    obtain ⟨m, p, e, merge⟩ := applySensed_decides
      (w := w.setWall i { x with sensed := pos, settleLeft := none }) (i := i)
      (x := { x with sensed := pos, settleLeft := none }) (by simp [Layout.wall_setWall]) idle
    have once : (w.layout.setWall i (some { x with sensed := pos, settleLeft := none })).setWall i
        (some { x with sensed := pos, settleLeft := none, merge := m, applied := p }) =
        w.layout.setWall i (some { x with sensed := pos, settleLeft := none, merge := m, applied := p }) := by
      simp [Layout.setWall, Tbl.set_set]
    rw [e, World.setWall_layout, once]
    exact h.setWall (fun y hy => by cases hy; exact good.sensed line merge) absent
  · -- otherwise the change is recorded with its pending entry
    simp only [World.sensedChange, Layout.isLocked_false lock, Bool.false_eq_true, if_false, Layout.pend]
    refine WallsFit.layoutInv (h.fit.write i (fun y hy => ?_) fun q hq => ?_) lock
    · cases pos with
      | closed => cases hy; exact good.sensed line fun e => absurd rfl e
      | opened => cases hy; exact good.sensed line fun e => absurd (idle rfl) e
    · by_cases same : pos = x.applied
      · simp [same] at hq
      · rw [if_neg same] at hq
        cases hq
        refine ⟨_, rfl, ?_⟩
        cases pos with
        | closed => exact ⟨rfl, Ne.symm same, rfl⟩
        | opened => exact ⟨rfl, Ne.symm same, idle rfl⟩

/-- A settle timer that runs belongs to a wall whose line reports another state than the sensed one (01 R11). -/
theorem LayoutInv.settleExpires {w : World} (h : LayoutInv w.layout) (i : WallId) :
    LayoutInv (w.settleExpires i).layout := by
  unfold World.settleExpires
  split
  next x wall =>
    split
    next left pos run rep =>
      obtain ⟨_, _, _, settle, _⟩ := h.1 i x wall
      obtain ⟨q, hq, other⟩ := settle.mp (by simp [run])
      have line : ∀ r, w.layout.reported x = some r → r = pos := fun r hr => Option.some.inj (hr.symm.trans rep)
      exact h.sensedChange wall (by rw [← line q hq]; exact Ne.symm other) line
    · exact h
  · exact h

/-- One pending entry applied at the return to LOCKED (01 R16). -/
theorem WallsFit.applyPending {w : World} (h : WallsFit w.layout) (i : WallId) :
    WallsFit (w.applyPending i).layout := by
  unfold World.applyPending
  split
  next pos x hp wall =>
    obtain ⟨y, hy, _, _, idle⟩ := h.2 i pos hp
    rw [wall] at hy
    cases hy
    obtain ⟨m, p, e, merge⟩ := applySensed_decides
      (w := { w with layout := w.layout.setPending i none }) wall fun _ => idle
    rw [e]
    exact h.write i (p := none) (fun y hy => by cases hy; exact (h.1 i x wall).decided merge) fun _ e => by cases e
  next pos hp wall =>
    obtain ⟨y, hy, _⟩ := h.2 i pos hp
    rw [wall] at hy
    cases hy
  · exact h

/-- The return to LOCKED (01 R16). -/
theorem LayoutInv.relock {w : World} (h : LayoutInv w.layout) : LayoutInv w.relock.layout := by
  have fit : WallsFit ({ w with layout := { w.layout with lock := .locked } } : World).layout :=
    h.fit.of_records rfl rfl rfl fun _ _ _ _ _ => id
  obtain ⟨_, _, _, empty⟩ := World.relock_layout w
  refine layoutInv_iff.mpr ⟨?_, fun _ => empty⟩
  rw [World.relock_eq]
  exact foldl_rel (R := fun a b : World => WallsFit a.layout → WallsFit b.layout) (fun _ => id)
    (fun _ _ _ f g k => g (f k)) (fun v i k => k.applyPending i) (List.finRange 16) _ fit

/-- Settle timers written alone: the invariant asks only that they run where the line reports another state. -/
theorem LayoutInv.of_timers {l m : Layout} (h : LayoutInv l) {g : Wall → Wall}
    (wall : ∀ i, m.wall i = (l.wall i).map g) (alone : ∀ x, g x = { x with settleLeft := (g x).settleLeft })
    (pending : m.pendingWalls = l.pendingWalls) (active : m.active = l.active)
    (lock : m.lock = .locked → l.lock = .locked)
    (timer : ∀ x, (x.settleLeft.isSome = true ↔ ∃ pos, l.reported x = some pos ∧ pos ≠ x.sensed) →
      ((g x).settleLeft.isSome = true ↔ ∃ pos, m.reported x = some pos ∧ pos ≠ x.sensed)) : LayoutInv m := by
  refine ⟨fun i y hy => ?_, fun i pos hp => ?_, fun e => by rw [pending]; exact h.2.2 (lock e)⟩
  · rw [wall i] at hy
    obtain ⟨x, hx, rfl⟩ := Option.map_eq_some_iff.mp hy
    obtain ⟨ne, a, b, settle, merge⟩ := h.1 i x hx
    rw [alone x]
    exact ⟨ne, by rw [active]; exact a, by rw [active]; exact b, timer x settle, merge⟩
  · rw [pending] at hp
    obtain ⟨x, hx, facts⟩ := h.2.1 i pos hp
    exact ⟨g x, by rw [wall i, hx]; rfl, by rw [alone x]; exact facts⟩

/-- A level change of a line judges the settle timers of its walls (01 R11). -/
theorem LayoutInv.lineChange {l : Layout} (h : LayoutInv l) (n : LineId) (high : Bool) :
    LayoutInv (l.lineChange n high) := by
  by_cases same : l.lines.get n = high
  · rw [Layout.lineChange_same same]
    exact h
  have parts := Layout.lineChange_eq same
  refine h.of_timers (Layout.wall_lineChange same) (fun x => ?_) (by rw [parts]; rfl) (by rw [parts]; rfl)
    (by rw [parts]; exact id) fun x settle => ?_
  · unfold Wall.afterLevel
    split <;> rfl
  · have lines : (l.lineChange n high).lines = (l.withLevel n high).lines := by rw [parts]
    rw [Layout.reported_of_lines lines]
    unfold Wall.afterLevel
    split
    next on =>
      obtain ⟨pos, rep⟩ := Layout.reported_of_onLine on (l.withLevel n high)
      by_cases e : pos = x.sensed <;> simp [Wall.judged, rep, e]
    next off =>
      rw [Layout.reported_withLevel (by simpa using off)]
      exact settle

/-- The tick lowers settle timers and the timer of the lock, and stops none (log entry 2). -/
theorem LayoutInv.tick {l : Layout} (h : LayoutInv l) : LayoutInv l.tick := by
  refine h.of_timers (Layout.wall_tick l) (fun _ => rfl) rfl rfl (fun e => ?_) fun x settle => ?_
  · cases lock : l.lock with
    | locked => rfl
    | armed k left => simp [Layout.tick, Lock.tick, lock] at e
    | opened k left => simp [Layout.tick, Lock.tick, lock] at e
  · rw [Layout.reported_of_lines (show l.tick.lines = l.lines from rfl)]
    simpa [Wall.tick] using settle

/-! ### Layout edits -/

/-- A wall edited under an open lock, with no pending entry left. -/
theorem LayoutInv.edit {l : Layout} (h : LayoutInv l) (unlocked : l.lock ≠ .locked) {i : WallId} {x : Option Wall}
    (wall : ∀ y, x = some y → WallInv l y) : LayoutInv ((l.setWall i x).setPending i none).restartIdle :=
  LayoutInv.restartIdle (WallsFit.layoutInv (h.fit.write i wall fun _ e => by cases e) unlocked)

/-- A definition that conflicts with nothing (01 R7, R8): its wall starts on the state its line reports. -/
theorem LayoutInv.define {l : Layout} (h : LayoutInv l) {i : WallId} {a b : SectionId} {src : WallSource}
    (unlocked : l.lock ≠ .locked) (free : l.defineConflicts i a b src = false) (settle : Nat) (policy : MergePolicy) :
    LayoutInv (l.define i a b src settle policy) := by
  simp only [Layout.defineConflicts, Bool.or_eq_false_iff, decide_eq_false_iff_not, Bool.not_eq_false'] at free
  obtain ⟨⟨⟨ne, activeA⟩, activeB⟩, _⟩ := free
  refine h.edit unlocked fun y hy => ?_
  cases hy
  refine ⟨ne, activeA, activeB, ⟨fun e => (by cases e), ?_⟩, fun e => absurd rfl e⟩
  rintro ⟨pos, rep, other⟩
  cases src with
  | line n p => exact absurd (Option.some.inj rep).symm other
  | request => cases rep

/-- A wall removed with its entry (01 R9). -/
theorem LayoutInv.remove {l : Layout} (h : LayoutInv l) (unlocked : l.lock ≠ .locked) (i : WallId) :
    LayoutInv ((l.setWall i none).setPending i none).restartIdle :=
  h.edit unlocked fun _ e => by cases e

theorem getLsbD_secOnly (s k : SectionId) : (secOnly s).getLsbD k.val = decide (s = k) := by
  revert s k
  decide

/-- A section that no wall names may be deactivated (01 R5). -/
theorem LayoutInv.setActive {w : World} (h : LayoutInv w.layout) {s : SectionId} {active : Bool}
    (kept : active = false → w.sectionKept s = false) : LayoutInv (w.layout.setActive s active) := by
  refine LayoutInv.restartIdle ?_
  obtain ⟨fit, empty⟩ := layoutInv_iff.mp h
  refine layoutInv_iff.mpr ⟨fit.of_records rfl rfl rfl fun i x k wall names on => ?_, empty⟩
  cases active with
  | true => simp [on]
  | false =>
    have other : s ≠ k := by
      rintro rfl
      have named : (w.layout.walls.some? fun o => o.elim false fun y => y.names s) = true :=
        (Tbl.some?_iff _ _).mpr ⟨i, by rwa [show w.layout.walls.get i = some x from wall]⟩
      have free := kept rfl
      rw [World.sectionKept, named] at free
      cases free
    simp only [Bool.false_eq_true, if_false, BitVec.getLsbD_and, BitVec.getLsbD_not, getLsbD_secOnly, on]
    simp [other]

end Sys2Proof.Machine

namespace Sys2Proof.Machine

/-! ## What a request keeps where its argument names a record

A part of the world that every continuation keeps is kept by the request, since a refusal keeps it too. -/

section

variable {α : Type} (part : World → α) {w : World}

theorem withFloor_keeps {b : Byte} {k : FloorId → Handled} (keep : ∀ f, part (k f).world = part w) :
    part (withFloor w b k).world = part w := by
  unfold withFloor
  split
  · exact keep _
  · rfl

theorem withSession_keeps {b : Byte} {k : FloorId → Session → Handled}
    (keep : ∀ f x, part (k f x).world = part w) :
    part (withSession w b k).world = part w := by
  refine withFloor_keeps part fun f => ?_
  split
  · exact keep f _
  · rfl

theorem withLive_keeps {b : Byte} {k : FloorId → Handled} (keep : ∀ f, part (k f).world = part w) :
    part (withLive w b k).world = part w := by
  refine withFloor_keeps part fun f => ?_
  split
  · exact keep f
  · rfl

theorem withSeat_keeps {b : Half} {k : SeatId → Seat → Handled} (keep : ∀ n r, part (k n r).world = part w) :
    part (withSeat w b k).world = part w := by
  unfold withSeat
  split
  · rfl
  · split
    · exact keep _ _
    · rfl

theorem withBooth_keeps {b : Byte} {k : BoothId → Handled} (keep : ∀ i, part (k i).world = part w) :
    part (withBooth w b k).world = part w := by
  unfold withBooth
  split
  · exact keep _
  · rfl

theorem withBoothSeat_keeps {b : Byte} {n : Half} {k : BoothId → SeatId → Seat → Handled}
    (keep : ∀ i m r, part (k i m r).world = part w) : part (withBoothSeat w b n k).world = part w :=
  withBooth_keeps part fun i => withSeat_keeps part fun m r => keep i m r

theorem withWall_keeps {b : Byte} {k : WallId → Handled} (keep : ∀ i, part (k i).world = part w) :
    part (withWall w b k).world = part w := by
  unfold withWall
  split
  · exact keep _
  · rfl

theorem withTarget_keeps {b : Byte} {k : PortId → Handled} (keep : ∀ p, part (k p).world = part w) :
    part (withTarget w b k).world = part w := by
  unfold withTarget
  split
  · rfl
  · split
    · rfl
    · exact keep _
  · split
    · exact keep _
    · rfl

end

/-! ## Frames that arrive as bytes -/

theorem runRequest_none {i : Instr} (h : requestArgs i = none) (s : State) : runRequest i s = .next s := by
  cases i
  case seatFind k => cases k <;> cases h
  all_goals first | rfl | cases h

/-- A transaction of bytes changes no record, or runs as a request (10 R176; log entry 24). -/
theorem requestFrameRefused_cases {bytes : List Byte} {s t : State}
    (e : exec (.requestFrameRefused bytes) s = .next t) :
    t.world = s.world ∨ ∃ i a, requestArgs i = some a ∧ exec i s = .next t := by
  simp only [exec] at e
  unfold execRequestFrameRefused at e
  split at e
  · cases e
    exact .inl rfl
  · split at e
    · cases e
      exact .inl rfl
    · unfold writeFrame at e
      split at e
      · exact .inl (request_keeps id rfl e)
      · exact .inl (request_keeps id rfl e)
      · exact .inl (request_keeps id rfl e)
      · exact .inl (request_keeps id rfl e)
      next i _ =>
        cases a : requestArgs i with
        | none =>
          rw [runRequest_none a] at e
          cases e
          exact .inl rfl
        | some x => exact .inr ⟨i, x, a, (runRequest_eq a s).symm.trans e⟩

/-! ## The requests that read -/

/-- A reading request changes no record. -/
theorem exec_read {c : Instr} {s t : State} (h : isRead c = true) (e : exec c s = .next t) : t.world = s.world := by
  cases c <;> simp only [exec] at e
  case wallRead w =>
    refine request_keeps id ?_ e
    exact withWall_keeps id fun _ => rfl
  case seatRead n =>
    refine request_keeps id ?_ e
    exact withSeat_keeps id fun _ _ => rfl
  case seatFind k =>
    refine request_keeps id ?_ e
    (repeat' split) <;> rfl
  case floorRead f =>
    refine request_keeps id ?_ e
    exact withFloor_keeps id fun _ => rfl
  case bankRead f b =>
    refine request_keeps id ?_ e
    split
    · rfl
    · exact withSession_keeps id fun _ _ => rfl
  case speakersRead f =>
    refine request_keeps id ?_ e
    exact withFloor_keeps id fun _ => by split <;> rfl
  case queueRead f p =>
    refine request_keeps id ?_ e
    exact withFloor_keeps id fun _ => by (repeat' split) <;> rfl
  case boothRead b =>
    refine request_keeps id ?_ e
    exact withBooth_keeps id fun _ => rfl
  case channelRead c =>
    refine request_keeps id ?_ e
    (repeat' split) <;> rfl
  case clockRead => exact request_keeps id rfl e
  case chainRead t a =>
    refine request_keeps id ?_ e
    exact withTarget_keeps id fun _ => by split <;> rfl
  case identify => exact request_keeps id rfl e
  all_goals cases h

/-! ## The commands of the other blocks leave the layout

One theorem for each request whose effect has cases; the Chain Controller's stand in Laws/Chains. -/

section

variable {s t : State}

theorem execSeatRole_layout {n : Half} {r : Byte} (e : execSeatRole n r s = .next t) :
    t.world.layout = s.world.layout := by
  refine request_keeps World.layout ?_ e
  split
  · rfl
  · exact withSeat_keeps World.layout fun _ _ => by (repeat' split) <;> rfl

theorem execMaskSet_layout {r k : Byte} (e : execMaskSet r k s = .next t) : t.world.layout = s.world.layout := by
  refine request_keeps World.layout ?_ e
  split <;> rfl

theorem execRosterChanges_layout (e : execRosterChanges s = .next t) : t.world.layout = s.world.layout :=
  request_keeps World.layout rfl e

theorem execFloorOpen_layout {f a p : Byte} (e : execFloorOpen f a p s = .next t) :
    t.world.layout = s.world.layout := by
  refine request_keeps World.layout ?_ e
  split
  · unfold openRequest
    (repeat' split) <;> rfl
  · rfl

theorem execFloorClose_layout {f : Byte} (e : execFloorClose f s = .next t) : t.world.layout = s.world.layout := by
  refine request_keeps World.layout ?_ e
  exact withFloor_keeps World.layout fun _ => by split <;> rfl

theorem execFloorSet_layout {f p : Byte} (e : execFloorSet f p s = .next t) : t.world.layout = s.world.layout := by
  refine request_keeps World.layout ?_ e
  split
  · rfl
  · exact withSession_keeps World.layout fun _ _ => rfl

theorem execBankWrite_layout {f : Byte} {items : List BankItem} (e : execBankWrite f items s = .next t) :
    t.world.layout = s.world.layout := by
  refine request_keeps World.layout ?_ e
  exact withFloor_keeps World.layout fun _ => by (repeat' split) <;> rfl

theorem execBankSwapNormal_layout {f : Byte} (e : execBankSwapNormal f s = .next t) :
    t.world.layout = s.world.layout := by
  refine request_keeps World.layout ?_ e
  exact withSession_keeps World.layout fun _ _ => by (repeat' split) <;> simp [refusal, done]

theorem execBankSwapForce_layout {f : Byte} (e : execBankSwapForce f s = .next t) :
    t.world.layout = s.world.layout := by
  refine request_keeps World.layout ?_ e
  exact withSession_keeps World.layout fun _ _ => by simp [done]

theorem execBankCancel_layout {f : Byte} (e : execBankCancel f s = .next t) : t.world.layout = s.world.layout := by
  refine request_keeps World.layout ?_ e
  exact withSession_keeps World.layout fun _ _ => by split <;> rfl

theorem execGrant_layout {f d : Byte} {n : Half} (e : execGrant f n d s = .next t) :
    t.world.layout = s.world.layout := by
  refine request_keeps World.layout ?_ e
  split
  · refine withLive_keeps World.layout fun _ => ?_
    split
    · unfold grantSeat
      (repeat' split) <;> rfl
    · rfl
  · rfl

theorem execCloseMic_layout {n : Half} (e : execCloseMic n s = .next t) : t.world.layout = s.world.layout := by
  refine request_keeps World.layout ?_ e
  exact withSeat_keeps World.layout fun _ _ => by split <;> rfl

theorem execQueueInsert_layout {f p : Byte} {n : Half} (e : execQueueInsert f n p s = .next t) :
    t.world.layout = s.world.layout := by
  refine request_keeps World.layout ?_ e
  unfold insertSeatAt
  dsimp only
  (repeat' split) <;> rfl

theorem execQueueRemove_layout {n : Half} (e : execQueueRemove n s = .next t) : t.world.layout = s.world.layout := by
  refine request_keeps World.layout ?_ e
  exact withSeat_keeps World.layout fun _ _ => by split <;> rfl

theorem execQueueClear_layout {f : Byte} (e : execQueueClear f s = .next t) : t.world.layout = s.world.layout := by
  refine request_keeps World.layout ?_ e
  exact withLive_keeps World.layout fun _ => by split <;> rfl

theorem execFloorPriorityOn_layout {f : Byte} (e : execFloorPriorityOn f s = .next t) :
    t.world.layout = s.world.layout := by
  refine request_keeps World.layout ?_ e
  exact withLive_keeps World.layout fun _ => rfl

theorem execFloorPriorityOff_layout {f : Byte} (e : execFloorPriorityOff f s = .next t) :
    t.world.layout = s.world.layout := by
  refine request_keeps World.layout ?_ e
  exact withLive_keeps World.layout fun _ => by split <;> rfl

theorem execBoothAssign_layout {b f : Byte} (e : execBoothAssign b f s = .next t) :
    t.world.layout = s.world.layout := by
  refine request_keeps World.layout ?_ e
  exact withBooth_keeps World.layout fun _ => withFloor_keeps World.layout fun _ => by split <;> rfl

theorem clearRequest_layout (w : World) (b o : Byte) : (clearRequest w b o).world.layout = w.layout := by
  unfold clearRequest
  (repeat' split) <;> rfl

theorem execBoothOutput_layout {b o l c : Byte} (e : execBoothOutput b o l c s = .next t) :
    t.world.layout = s.world.layout := by
  refine request_keeps World.layout ?_ e
  split
  · exact clearRequest_layout _ _ _
  · unfold outputRequest
    (repeat' split) <;> rfl

theorem execBoothOutputClear_layout {b o : Byte} (e : execBoothOutputClear b o s = .next t) :
    t.world.layout = s.world.layout :=
  request_keeps World.layout (clearRequest_layout _ b o) e

theorem execBoothAddDesk_layout {b : Byte} {n : Half} (e : execBoothAddDesk b n s = .next t) :
    t.world.layout = s.world.layout := by
  refine request_keeps World.layout ?_ e
  exact withBoothSeat_keeps World.layout fun _ _ _ => by (repeat' split) <;> rfl

theorem execBoothRemoveDesk_layout {b : Byte} {n : Half} (e : execBoothRemoveDesk b n s = .next t) :
    t.world.layout = s.world.layout := by
  refine request_keeps World.layout ?_ e
  exact withBoothSeat_keeps World.layout fun _ _ _ => by split <;> rfl

theorem execBoothSet_layout {b p d : Byte} (e : execBoothSet b p d s = .next t) :
    t.world.layout = s.world.layout := by
  refine request_keeps World.layout ?_ e
  split <;> rfl

theorem execBoothRelease_layout {b : Byte} (e : execBoothRelease b s = .next t) :
    t.world.layout = s.world.layout := by
  refine request_keeps World.layout ?_ e
  exact withBooth_keeps World.layout fun _ => by split <;> rfl

theorem execTurnTimerZeroCut_layout {n : SeatId} (e : execTurnTimerZeroCut n s = .next t) :
    t.world.layout = s.world.layout := by
  refine event_keeps World.layout ?_ e
  split <;> rfl

theorem execTurnTimerZeroWarn_layout {n : SeatId} (e : execTurnTimerZeroWarn n s = .next t) :
    t.world.layout = s.world.layout := by
  refine event_keeps World.layout ?_ e
  split <;> rfl

theorem execWriteDiscarded_layout (e : execWriteDiscarded s = .next t) : t.world.layout = s.world.layout := by
  unfold execWriteDiscarded at e
  split at e <;> cases e <;> rfl

theorem execAttentionMask_layout {k : Half} (e : execAttentionMask k s = .next t) :
    t.world.layout = s.world.layout := by
  unfold execAttentionMask at e
  split at e
  next m _ _ => exact request_keeps World.layout (s := { s with port := { s.port with mask := m } }) rfl e
  · exact request_keeps World.layout rfl e

theorem execHallReset_layout {c : Half} (e : execHallReset c s = .next t) : t.world.layout = s.world.layout := by
  unfold execHallReset at e
  split at e
  · cases e
    rfl
  · exact request_keeps World.layout rfl e

theorem execHallResetFloorClose_layout (e : execHallResetFloorClose s = .next t) :
    t.world.layout = s.world.layout := by
  unfold execHallResetFloorClose at e
  split at e <;> cases e <;> rfl

theorem execHallResetSeatRefresh_layout (e : execHallResetSeatRefresh s = .next t) :
    t.world.layout = s.world.layout := by
  unfold execHallResetSeatRefresh at e
  split at e <;> cases e <;> rfl

theorem execHallResetRouteRefill_layout (e : execHallResetRouteRefill s = .next t) :
    t.world.layout = s.world.layout := by
  unfold execHallResetRouteRefill at e
  split at e <;> cases e <;> rfl

theorem execHallResetAttentionClear_layout (e : execHallResetAttentionClear s = .next t) :
    t.world.layout = s.world.layout := by
  unfold execHallResetAttentionClear at e
  split at e <;> cases e <;> rfl

end

/-- Only the commands of the Layout Unit reach the layout. -/
theorem exec_layout {c : Instr} {s t : State} (h : changesLayout c = false) (e : exec c s = .next t) :
    t.world.layout = s.world.layout := by
  by_cases read : isRead c = true
  · rw [exec_read read e]
  cases c
  case seatRole => exact execSeatRole_layout e
  case maskSet => exact execMaskSet_layout e
  case rosterChanges => exact execRosterChanges_layout e
  case floorOpen => exact execFloorOpen_layout e
  case floorClose => exact execFloorClose_layout e
  case floorSet => exact execFloorSet_layout e
  case bankWrite => exact execBankWrite_layout e
  case bankSwapNormal => exact execBankSwapNormal_layout e
  case bankSwapForce => exact execBankSwapForce_layout e
  case bankCancel => exact execBankCancel_layout e
  case grant => exact execGrant_layout e
  case closeMic => exact execCloseMic_layout e
  case queueInsert => exact execQueueInsert_layout e
  case queueRemove => exact execQueueRemove_layout e
  case queueClear => exact execQueueClear_layout e
  case floorPriorityOn => exact execFloorPriorityOn_layout e
  case floorPriorityOff => exact execFloorPriorityOff_layout e
  case boothAssign => exact execBoothAssign_layout e
  case boothOutput => exact execBoothOutput_layout e
  case boothOutputClear => exact execBoothOutputClear_layout e
  case boothAddDesk => exact execBoothAddDesk_layout e
  case boothRemoveDesk => exact execBoothRemoveDesk_layout e
  case boothSet => exact execBoothSet_layout e
  case boothRelease => exact execBoothRelease_layout e
  case turnTimerZeroCut => exact execTurnTimerZeroCut_layout e
  case turnTimerZeroWarn => exact execTurnTimerZeroWarn_layout e
  case writeDiscarded => exact execWriteDiscarded_layout e
  case attentionMask => exact execAttentionMask_layout e
  case hallReset => exact execHallReset_layout e
  case hallResetFloorClose => exact execHallResetFloorClose_layout e
  case hallResetSeatRefresh => exact execHallResetSeatRefresh_layout e
  case hallResetRouteRefill => exact execHallResetRouteRefill_layout e
  case hallResetAttentionClear => exact execHallResetAttentionClear_layout e
  case poll => exact (execPoll_aside e).layout
  case reply => exact (execReply_aside e).layout
  case pollMiss => exact (execPollMiss_aside e).layout
  case graceExpiry => exact (execGraceExpiry_aside e).layout
  case chainConfig => exact (execChainConfig_aside e).layout
  case enrollFull => exact (execEnrollFull_aside e).layout
  case enrollExtend => exact (execEnrollExtend_aside e).layout
  case enrollAbort => exact (execEnrollAbort_aside e).layout
  case chainSeatRetire => exact (execChainSeatRetire_aside e).layout
  case assignStep => exact (execAssignStep_aside e).layout
  case assignAck => exact (execAssignAck_aside e).layout
  case assignReturned => exact (execAssignReturned_aside e).layout
  case assignBadAnswer => exact (execAssignBadAnswer_aside e).layout
  case assignTimeout => exact (execAssignTimeout_aside e).layout
  case chainReset => exact (execChainReset_aside e).layout
  case ringTest => exact (execRingTest_aside e).layout
  case periodicLoopTest => exact (execPeriodicLoopTest_aside e).layout
  case loopArrival => exact (execLoopArrival_aside e).layout
  case loopTimeout => exact (execLoopTimeout_aside e).layout
  case seatRetire => exact (execSeatRetire_aside e).layout
  case readAttention => exact request_keeps World.layout rfl (show execReadAttention s = .next t from e)
  case fallbackDelayExpiry b o =>
    exact event_keeps World.layout rfl (show execFallbackDelayExpiry b o s = .next t from e)
  case flashEnd n => exact event_keeps World.layout rfl (show execFlashEnd n s = .next t from e)
  case routeFrameDone | holdActive | holdInactive | answerRead | chipSelectAsserted => cases e; rfl
  all_goals first | exact absurd rfl read | cases h

end Sys2Proof.Machine

namespace Sys2Proof.Machine

/-! ## The invariant through every command -/

theorem request_layoutInv {n : Nat} {code : Byte} {f : World → Handled} {s t : State} (h : LayoutInv s.world.layout)
    (keep : LayoutInv (f s.world).world.layout) (e : request n code f s = .next t) : LayoutInv t.world.layout := by
  by_cases k : s.takes
  · rw [request_taken k] at e
    cases e
    exact keep
  · rw [request_untaken k] at e
    cases e
    exact h

theorem event_layoutInv {f : World → World} {s t : State} (keep : LayoutInv (f s.world).layout)
    (e : event f s = .next t) : LayoutInv t.world.layout := by
  rw [event_next] at e
  cases e
  exact keep

theorem withWall_layoutInv {w : World} (h : LayoutInv w.layout) {b : Byte} {k : WallId → Handled}
    (keep : ∀ i, LayoutInv (k i).world.layout) : LayoutInv (withWall w b k).world.layout := by
  unfold withWall
  split
  · exact keep _
  · exact h

theorem withDefined_layoutInv {w : World} (h : LayoutInv w.layout) {b : Byte} {k : WallId → Wall → Handled}
    (keep : ∀ i x, w.layout.wall i = some x → LayoutInv (k i x).world.layout) :
    LayoutInv (withDefined w b k).world.layout := by
  refine withWall_layoutInv h fun i => ?_
  split
  next x wall => exact keep i x wall
  · exact h

section

variable {s t : State} (h : LayoutInv s.world.layout)

include h

theorem execLayoutOpen_layoutInv {key : Half} (e : execLayoutOpen key s = .next t) : LayoutInv t.world.layout := by
  refine request_layoutInv h ?_ e
  split
  · exact h
  · split
    · exact WallsFit.layoutInv (h.fit.of_records rfl rfl rfl fun _ _ _ _ _ => id) (by simp [done])
    · exact h

theorem execLayoutConfirm_layoutInv {key : Half} (e : execLayoutConfirm key s = .next t) :
    LayoutInv t.world.layout := by
  refine request_layoutInv h ?_ e
  split
  · split
    · exact WallsFit.layoutInv (h.fit.of_records rfl rfl rfl fun _ _ _ _ _ => id) (by simp [done])
    · exact h.relock
  · exact h

theorem execLayoutClose_layoutInv (e : execLayoutClose s = .next t) : LayoutInv t.world.layout := by
  refine request_layoutInv h ?_ e
  split
  · exact h
  · exact h.relock

theorem execArmWindowExpiry_layoutInv (e : execArmWindowExpiry s = .next t) : LayoutInv t.world.layout := by
  refine event_layoutInv ?_ e
  split
  · exact h.relock
  · exact h

theorem execIdleTimerExpiry_layoutInv (e : execIdleTimerExpiry s = .next t) : LayoutInv t.world.layout := by
  refine event_layoutInv ?_ e
  split
  · dsimp only
    exact h.relock
  · exact h

theorem execSectionSet_layoutInv {sec active : Byte} (e : execSectionSet sec active s = .next t) :
    LayoutInv t.world.layout := by
  refine request_layoutInv h ?_ e
  split
  next i a _ _ =>
    split
    · exact h
    · split
      · exact h
      · split
        · exact h
        next kept => exact h.setActive fun e => by simpa [e] using kept
  · exact h

theorem execWallDefine_layoutInv {w a b src line pol settle policy : Byte}
    (e : execWallDefine w a b src line pol settle policy s = .next t) : LayoutInv t.world.layout := by
  refine request_layoutInv h ?_ e
  split
  · unfold defineRequest
    split
    · exact h
    next opened =>
      split
      · exact h
      · split
        · exact h
        next free => exact h.define (Layout.unlocked_of_isOpen (by simpa using opened)) (by simpa using free) _ _
  · exact h

theorem execWallRemove_layoutInv {w : Byte} (e : execWallRemove w s = .next t) : LayoutInv t.world.layout := by
  refine request_layoutInv h (withWall_layoutInv h fun i => ?_) e
  split
  · exact h
  next opened =>
    split
    · exact h
    · split
      · exact h
      · exact h.remove (Layout.unlocked_of_isOpen (by simpa using opened)) i

theorem execWallSet_layoutInv {w pos : Byte} (e : execWallSet w pos s = .next t) : LayoutInv t.world.layout := by
  refine request_layoutInv h ?_ e
  split
  · exact h
  · refine withDefined_layoutInv h fun i x wall => ?_
    split
    · exact h
    next src =>
      split
      · exact h
      next other =>
        refine h.sensedChange wall other fun q rep => ?_
        rw [Layout.reported_request (by simpa using src)] at rep
        cases rep

theorem execMergeConfirm_layoutInv {w : Byte} (e : execMergeConfirm w s = .next t) : LayoutInv t.world.layout := by
  refine request_layoutInv h (withDefined_layoutInv h fun i x wall => ?_) e
  split
  · exact h
  · split
    · exact h
    next pending =>
      have merge : x.merge ≠ .idle := by
        intro idle
        simp [idle] at pending
      refine h.setWall (fun y hy => ?_) (h.absent_of_merge wall merge)
      cases hy
      exact (h.1 i x wall).decided fun e => absurd rfl e

theorem execMergeRefuse_layoutInv {w : Byte} (e : execMergeRefuse w s = .next t) : LayoutInv t.world.layout := by
  refine request_layoutInv h (withDefined_layoutInv h fun i x wall => ?_) e
  split
  · exact h
  next pending =>
    have merge : x.merge ≠ .idle := by
      intro idle
      simp [idle] at pending
    obtain ⟨_, _, _, _, opened⟩ := h.1 i x wall
    refine h.setWall (fun y hy => ?_) (h.absent_of_merge wall merge)
    cases hy
    exact (h.1 i x wall).decided fun _ => opened merge

theorem execSeatPlace_layoutInv {n : Half} {sec : Byte} (e : execSeatPlace n sec s = .next t) :
    LayoutInv t.world.layout := by
  refine request_layoutInv h ?_ e
  split
  · split
    · exact h
    · unfold placeRequest
      split
      · exact h
      · split
        · exact h
        · split
          · exact h
          · split
            · exact h
            · exact h.restartIdle
  · exact h

end

theorem layoutInv_deviceReset (l : Layout) : LayoutInv { Layout.reset with lines := l.lines } := by
  have wall : ∀ i, ({ Layout.reset with lines := l.lines } : Layout).wall i = none := fun i => Tbl.get_fill i none
  have absent : ∀ i, ({ Layout.reset with lines := l.lines } : Layout).pendingWalls.get i = none :=
    fun i => Tbl.get_fill i none
  refine ⟨fun i x hx => ?_, fun i pos hp => ?_, fun _ => absent⟩
  · rw [wall i] at hx
    cases hx
  · rw [absent i] at hp
    cases hp

/-- A command that is no raw frame keeps the invariant of the layout. -/
theorem exec_layoutInv_of_command {c : Instr} {s t : State} (raw : ∀ bytes, c ≠ .requestFrameRefused bytes)
    (h : LayoutInv s.world.layout) (e : exec c s = .next t) : LayoutInv t.world.layout := by
  by_cases other : changesLayout c = false
  · rw [exec_layout other e]
    exact h
  cases c
  case layoutOpen key => exact execLayoutOpen_layoutInv h e
  case layoutConfirm key => exact execLayoutConfirm_layoutInv h e
  case layoutClose => exact execLayoutClose_layoutInv h e
  case armWindowExpiry => exact execArmWindowExpiry_layoutInv h e
  case idleTimerExpiry => exact execIdleTimerExpiry_layoutInv h e
  case sectionSet => exact execSectionSet_layoutInv h e
  case wallDefine => exact execWallDefine_layoutInv h e
  case wallRemove => exact execWallRemove_layoutInv h e
  case wallSet => exact execWallSet_layoutInv h e
  case mergeConfirm => exact execMergeConfirm_layoutInv h e
  case mergeRefuse => exact execMergeRefuse_layoutInv h e
  case seatPlace => exact execSeatPlace_layoutInv h e
  case wallLineChange n high =>
    exact event_layoutInv (h.lineChange n high) (show execWallLineChange n high s = .next t from e)
  case settleTimerExpiry i =>
    exact event_layoutInv (h.settleExpires i) (show execSettleTimerExpiry i s = .next t from e)
  case sessionTick => exact event_layoutInv h.tick (show execSessionTick s = .next t from e)
  case deviceReset =>
    have world : t.world = s.world.afterReset := by
      cases e
      rfl
    rw [world]
    exact layoutInv_deviceReset s.world.layout
  case requestFrameRefused bytes => exact absurd rfl (raw bytes)
  all_goals exact absurd rfl other

/-- Every command keeps the invariant of the layout. -/
theorem exec_layoutInv {c : Instr} {s t : State} (h : LayoutInv s.world.layout) (e : exec c s = .next t) :
    LayoutInv t.world.layout := by
  by_cases raw : ∃ bytes, c = .requestFrameRefused bytes
  · obtain ⟨bytes, rfl⟩ := raw
    obtain same | ⟨i, a, args, run⟩ := requestFrameRefused_cases e
    · rw [same]
      exact h
    · refine exec_layoutInv_of_command (fun b k => ?_) h run
      rw [k] at args
      cases args
  · exact exec_layoutInv_of_command (fun b k => raw ⟨b, k⟩) h e

/-- Settles O9: the invariant is kept by each command (`exec_layoutInv`), and an empty queue idles. -/
theorem layoutInvariantIsKept : Obligations.LayoutInvariantIsKept := by
  intro s t h e
  unfold step at e
  split at e
  · cases e
    exact h
  next c rest _ => exact exec_layoutInv (s := s.withPending rest) h e

end Sys2Proof.Machine

namespace Sys2Proof.Machine

/-! ## Requests that are taken -/

/-- A request taken answers what its effect is computed to be. -/
theorem request_answers {n : Nat} {code : Byte} {f : World → Handled} {r : Handled} {s : State} (h : s.takes)
    (eq : f s.world = r) : request n code f s = .next (s.answered n code r) := by
  rw [request_taken h, eq]

theorem changesLayout_of_reset {c : Instr} (h : isHallOrChainReset c = true) : changesLayout c = false := by
  cases c <;> first | rfl | cases h

/-! ## The layout lock (01 R1 to R3) -/

/-- Settles O24: the three cases of LAYOUT_OPEN, the reset layout, and the frame `exec_layout`. -/
theorem layoutOpen : Obligations.LayoutOpen := by
  refine ⟨fun s h => ?_, fun key s h nonzero locked => ?_, fun key s h nonzero unlocked => ?_,
    fun s => ⟨_, rfl, rfl⟩, fun c s t reset e => ?_⟩
  · show execLayoutOpen 0#16 s = _
    exact request_answers h rfl
  · show execLayoutOpen key s = _
    exact request_answers h (by simp [nonzero, Layout.isLocked_true locked, done, armTicks])
  · show execLayoutOpen key s = _
    exact request_answers h (by simp [nonzero, Layout.isLocked_false unlocked, refusal])
  · rw [exec_layout (changesLayout_of_reset reset) e]

/-! ## Sensed changes applied under LOCKED (01 R14, R15) -/

section

variable {w : World} {i : WallId} {x : Wall}

theorem applySensed_closing (sensed : x.sensed = .closed) (applied : x.applied = .opened) :
    w.applySensed i x = w.applyClosed i x.endMerge := by
  unfold World.applySensed
  simp only [sensed, applied]

theorem applySensed_closed (sensed : x.sensed = .closed) (applied : x.applied = .closed) :
    w.applySensed i x = w.setWall i x.endMerge := by
  unfold World.applySensed
  simp only [sensed, applied]

theorem applySensed_opened (sensed : x.sensed = .opened) (applied : x.applied = .opened) :
    w.applySensed i x = w := by
  unfold World.applySensed
  simp only [sensed, applied]

theorem applySensed_waiting (sensed : x.sensed = .opened) (applied : x.applied = .closed) (policy : x.policy = .held)
    (between : w.hall.betweenFloors x = true) :
    w.applySensed i x =
      { w.setWall i { x with merge := .pending } with hall := w.hall.raise (.mergePending i) } := by
  unfold World.applySensed
  simp only [sensed, applied]
  rw [if_pos (by simp [between, policy])]

theorem applySensed_opening (sensed : x.sensed = .opened) (applied : x.applied = .closed)
    (free : x.policy = .auto ∨ w.hall.betweenFloors x = false) : w.applySensed i x = w.applyOpen i x := by
  unfold World.applySensed
  simp only [sensed, applied]
  rw [if_neg]
  rcases free with policy | apart
  · simp [policy]
  · simp [apart]

end

/-- An absent entry has nothing to apply. -/
theorem applyPending_absent {w : World} {i : WallId} (absent : w.layout.pendingWalls.get i = none) :
    w.applyPending i = w := by
  unfold World.applyPending
  simp only [absent]

/-- A pending entry is removed, and its wall's sensed state applied. -/
theorem applyPending_present {w : World} {i : WallId} {pos : WallPos} {x : Wall}
    (entry : w.layout.pendingWalls.get i = some pos) (wall : w.layout.wall i = some x) :
    w.applyPending i = { w with layout := w.layout.setPending i none }.applySensed i x := by
  unfold World.applyPending
  simp only [entry, wall]

/-- LAYOUT_CLOSE outside LOCKED is the return to LOCKED (01 R3). -/
theorem exec_layoutClose {s : State} (h : s.takes) (unlocked : s.world.layout.lock ≠ .locked) :
    exec .layoutClose s = .next (s.answered 3 0x12#8 (done s.world.relock)) := by
  show execLayoutClose s = _
  exact request_answers h (by simp only [Layout.isLocked_false unlocked, Bool.false_eq_true, if_false])

/-- A confirmation with another key is the return to LOCKED (01 R2). -/
theorem exec_layoutConfirm_other {key other : Half} {left : Nat} {s : State} (h : s.takes)
    (armed : s.world.layout.lock = .armed key left) (ne : other ≠ key) :
    exec (.layoutConfirm other) s = .next (s.answered 5 0x11#8 (refusal s.world.relock .badKey)) := by
  show execLayoutConfirm other s = _
  exact request_answers h (by simp only [armed, if_neg (Ne.symm ne)])

/-- The expiry of the arm window is the return to LOCKED (01 R2). -/
theorem exec_armWindowExpiry {key : Half} {left : Nat} {s : State} (armed : s.world.layout.lock = .armed key left) :
    exec .armWindowExpiry s = .next (s.after s.world.relock) := by
  show execArmWindowExpiry s = _
  unfold execArmWindowExpiry
  simp only [event_next, armed]

/-- The expiry of the idle timer is the return to LOCKED, with LAYOUT_EXPIRED (01 R3). -/
theorem exec_idleTimerExpiry {key : Half} {left : Nat} {s : State} (opened : s.world.layout.lock = .opened key left) :
    exec .idleTimerExpiry s =
      .next (s.after { s.world.relock with hall := s.world.relock.hall.raise .layoutExpired }) := by
  show execIdleTimerExpiry s = _
  unfold execIdleTimerExpiry
  simp only [event_next, opened]

/-- Settles O25: with nothing pending a return to LOCKED writes the lock alone (`World.relock_empty`). -/
theorem layoutLock : Obligations.LayoutLock := by
  refine ⟨fun key left s h armed => ?_, fun s h unlocked empty => ?_, fun key left s armed empty => ?_,
    fun key left s opened empty => ?_⟩
  · show execLayoutConfirm key s = _
    exact request_answers h (by simp [armed, done, idleTicks])
  · rw [exec_layoutClose h unlocked, World.relock_empty _ empty]
    rfl
  · rw [exec_armWindowExpiry armed, World.relock_empty _ empty]
  · rw [exec_idleTimerExpiry opened, World.relock_empty _ empty]

/-- Settles O26: what each return to LOCKED answers is `World.relock`, which is the fold by its definition and
leaves the set empty (`World.relock_layout`); an application is a sensed change applied under LOCKED. -/
theorem relockEmptiesPendingSet : Obligations.RelockEmptiesPendingSet := by
  refine ⟨fun s h unlocked => ?_, fun key other left s h armed ne => ?_, fun key left s armed => ?_,
    fun key left s opened => ?_, World.relock_eq, fun w i => applyPending_absent, fun w i pos x entry wall => ?_⟩
  · have run := exec_layoutClose h unlocked
    obtain ⟨locked, _, _, empty⟩ := World.relock_layout s.world
    generalize s.world.relock = v at run locked empty ⊢
    exact ⟨_, run, rfl, locked, empty⟩
  · have run := exec_layoutConfirm_other h armed ne
    obtain ⟨locked, _, _, empty⟩ := World.relock_layout s.world
    generalize s.world.relock = v at run locked empty ⊢
    exact ⟨_, run, rfl, rfl, locked, empty⟩
  · have run := exec_armWindowExpiry armed
    obtain ⟨locked, _, _, empty⟩ := World.relock_layout s.world
    generalize s.world.relock = v at run locked empty ⊢
    exact ⟨_, run, rfl, locked, empty⟩
  · have run := exec_idleTimerExpiry opened
    obtain ⟨locked, _, _, empty⟩ := World.relock_layout s.world
    generalize s.world.relock = v at run locked empty ⊢
    exact ⟨_, run, rfl, by simp [Hall.stands], locked, empty⟩
  · rw [applyPending_present entry wall]
    refine ⟨w.layout.setPending i none, rfl, fun sensed applied => ⟨_, rfl, ?_⟩,
      fun sensed applied policy between => ?_, fun sensed applied free => ⟨_, rfl, ?_⟩⟩
    · exact applySensed_closing sensed applied
    · exact applySensed_waiting sensed applied policy between
    · exact applySensed_opening sensed applied free

end Sys2Proof.Machine

namespace Sys2Proof.Machine

/-! ## Arguments of the layout requests -/

theorem twoValued_of_lt {α : Type} {zero one : α} {code : Byte} (h : code.toNat < 2) :
    twoValued zero one code = some (if code = 0#8 then zero else one) := by
  unfold twoValued
  split
  · rfl
  next nonzero =>
    rw [if_pos]
    apply BitVec.eq_of_toNat_eq
    have : code.toNat ≠ 0 := fun e => nonzero (BitVec.eq_of_toNat_eq e)
    simp
    omega

theorem placeOf_section {b : Byte} {k : SectionId} (h : b.toNat = k.val + 1) : placeOf b = some (some k) := by
  have named : numbered 12 b.toNat = some k := numbered_eq h
  simp [placeOf, named, show b.toNat ≠ 0 by omega]

/-- Every section argument up to 12 is read. -/
theorem placeOf_some {b : Byte} (h : b.toNat ≤ 12) : ∃ p, placeOf b = some p := by
  by_cases zero : b.toNat = 0
  · exact ⟨none, by simp [placeOf, zero]⟩
  · obtain ⟨k, _, e⟩ := numbered_some (n := 12) (k := b.toNat) (by omega) h
    exact ⟨some k, placeOf_section e⟩

theorem wallSourceOf_line {line pol : Byte} {n : LineId} (hl : line.toNat = n.val) (hp : pol.toNat < 2) :
    wallSourceOf 0#8 line pol =
      some (.line n (if pol = 0#8 then .openWhenHigh else .openWhenLow)) := by
  simp [wallSourceOf, indexed_eq hl, polarityOf, twoValued_of_lt hp]

theorem settleOf_eq {settle : Byte} (lo : 1 ≤ settle.toNat) (hi : settle.toNat ≤ 20) :
    settleOf settle = some settle.toNat := by
  unfold settleOf
  rw [if_neg (by omega), if_pos hi]

/-! ## Layout edits (01 R4 to R9) -/

theorem setActive_opened {l : Layout} {key : Half} {left : Nat} (h : l.lock = .opened key left) (k : SectionId)
    (active : Bool) : l.setActive k active =
      { l with
        active := if active then l.active ||| (1#12 <<< k.val) else l.active &&& ~~~(1#12 <<< k.val)
        lock := .opened key 300 } :=
  Layout.restartIdle_opened h

/-- A wall and its pending entry written by an edit, with the idle timer restarted (01 R3). -/
theorem write_opened {l : Layout} {key : Half} {left : Nat} (h : l.lock = .opened key left) (i : WallId)
    (x : Option Wall) (p : Option WallPos) : ((l.setWall i x).setPending i p).restartIdle =
      { l with
        walls := l.walls.set i x, pendingWalls := l.pendingWalls.set i p, lock := .opened key 300 } :=
  Layout.restartIdle_opened (l := (l.setWall i x).setPending i p) h

/-- A section that no wall names and where no seat is placed may be deactivated (01 R5). -/
theorem sectionKept_false {w : World} {k : SectionId}
    (walls : ∀ i x, w.layout.wall i = some x → x.secA ≠ k ∧ x.secB ≠ k)
    (seats : ∀ n r, w.hall.seat? n = some r → r.place ≠ some k) : w.sectionKept k = false := by
  unfold World.sectionKept
  rw [Bool.or_eq_false_iff]
  constructor
  · rw [Bool.eq_false_iff]
    intro e
    obtain ⟨i, named⟩ := (Tbl.some?_iff _ _).mp e
    cases hx : w.layout.walls.get i with
    | none => simp [hx] at named
    | some x =>
      obtain ⟨a, b⟩ := walls i x hx
      simp [hx, Wall.names, a, b] at named
  · rw [Bool.eq_false_iff]
    intro e
    obtain ⟨n, sits⟩ := (Tbl.some?_iff _ _).mp e
    cases hp : w.hall.seats.get n with
    | held r => simp [hp, seats n r (Hall.seat?_held.mpr hp)] at sits
    | free => simp [hp] at sits
    | reserved => simp [hp] at sits

/-- Settles O27: the checks of SECTION_SET pass, and the edit restarts the idle timer (`setActive_opened`); with the lock
not OPEN the second check of every edit refuses. -/
theorem sectionSet : Obligations.SectionSet := by
  refine ⟨fun b k key left s h hb opened unused => ?_, fun b k key left s h hb opened unused walls seats => ?_,
    fun s h closed => ⟨fun b k a hb ha => ?_, fun w i hw => ?_, fun seat sec lo hi hs => ?_⟩⟩
  · show execSectionSet b 0#8 s = _
    refine request_answers h ?_
    simp [numbered_eq hb, activeOf, twoValued, Layout.isOpen_of_opened opened, unused, setActive_opened opened, done]
  · show execSectionSet b 1#8 s = _
    refine request_answers h ?_
    simp [numbered_eq hb, activeOf, twoValued, Layout.isOpen_of_opened opened, unused, setActive_opened opened, done,
      sectionKept_false walls seats]
  · show execSectionSet b a s = _
    exact request_answers h (by simp [numbered_eq hb, activeOf, twoValued_of_lt ha, closed, refusal])
  · show execWallRemove w s = _
    exact request_answers h (by simp [withWall_eq hw, closed, refusal])
  · show execSeatPlace seat sec s = _
    obtain ⟨n, hn, _⟩ := numbered_some lo hi
    obtain ⟨p, hp⟩ := placeOf_some hs
    exact request_answers h (by simp [hn, hp, closed, refusal])

theorem pairInUse_false {w : World} {i : WallId}
    (pair : ∀ z, w.layout.wall i = some z → w.hall.inUse z.secA = false ∧ w.hall.inUse z.secB = false) :
    w.pairInUse i = false := by
  unfold World.pairInUse
  cases e : w.layout.wall i with
  | none => rfl
  | some z =>
    obtain ⟨a, b⟩ := pair z e
    simp [a, b]

/-- A definition on a line with no conflict (01 R7 step 5). -/
theorem defineConflicts_false {l : Layout} {i : WallId} {x y : SectionId} {n : LineId} {p : Polarity} (ne : x ≠ y)
    (activeX : l.active.getLsbD x.val = true) (activeY : l.active.getLsbD y.val = true)
    (others : ∀ j z, j ≠ i → l.wall j = some z → z.between x y = false ∧ z.onLine n = false) :
    l.defineConflicts i x y (.line n p) = false := by
  have free : ∀ j, (decide (j ≠ i) && (l.wall j).elim false fun z => z.between x y || z.onLine n) = false := by
    intro j
    by_cases e : j = i
    · simp [e]
    · cases hz : l.wall j with
      | none => simp
      | some z =>
        obtain ⟨a, b⟩ := others j z e hz
        simp [a, b]
  simp only [Layout.defineConflicts, activeX, activeY, Bool.not_true, Bool.or_false, Bool.or_eq_false_iff,
    decide_eq_false_iff_not, List.any_eq_false]
  exact ⟨ne, fun j _ => by rw [free j]; simp⟩

/-- Settles O28: the definition conflicts with nothing (`defineConflicts_false`), and both edits write one wall with its
entry (`write_opened`). -/
theorem wallDefineAndRemove : Obligations.WallDefineAndRemove := by
  refine ⟨fun w a b line pol settle policy i x y n key left s h hw ha hb hl hp lo hi hm opened ne activeX activeY
    unusedX unusedY pair others => ?_, fun w i z key left s h hw opened wall unusedA unusedB => ?_⟩
  · refine ⟨_, _, rfl, rfl, ?_⟩
    show execWallDefine w a b 0#8 line pol settle policy s = _
    refine request_answers h ?_
    simp only [numbered_eq hw, numbered_eq ha, numbered_eq hb, wallSourceOf_line hl hp, settleOf_eq lo hi,
      mergePolicyOf, twoValued_of_lt hm]
    simp only [defineRequest, Layout.isOpen_of_opened opened, unusedX, unusedY, pairInUse_false pair,
      defineConflicts_false ne activeX activeY others, Layout.define, write_opened opened]
    rfl
  · show execWallRemove w s = _
    refine request_answers h ?_
    have unused : s.world.pairInUse i = false := pairInUse_false fun y hy => by
      rw [wall] at hy
      cases hy
      exact ⟨unusedA, unusedB⟩
    simp only [withWall_eq hw, Layout.isOpen_of_opened opened, wall, unused, write_opened opened]
    rfl

/-! ## Sensed changes (01 R13 to R15) -/

section

variable {w : World} {i : WallId} {x : Wall}

/-- On an unlocked layout OPEN is recorded with its pending entry (01 R13). -/
theorem sensedChange_recordOpen (unlocked : w.layout.lock ≠ .locked) :
    w.sensedChange i x .opened =
      { w with
        layout := { w.layout with
          walls := w.layout.walls.set i (some { x with sensed := .opened, settleLeft := none })
          pendingWalls := w.layout.pendingWalls.set i (if x.applied = .opened then none else some .opened) } } := by
  rw [if_congr (eq_comm (a := x.applied)) rfl rfl]
  simp only [World.sensedChange, Layout.isLocked_false unlocked]
  rfl

/-- On an unlocked layout CLOSED is recorded with its pending entry, and ends the merge (01 R13). -/
theorem sensedChange_recordClosed (unlocked : w.layout.lock ≠ .locked) :
    w.sensedChange i x .closed =
      { w with
        layout := { w.layout with
          walls := w.layout.walls.set i (some { x with sensed := .closed, settleLeft := none, merge := .idle })
          pendingWalls := w.layout.pendingWalls.set i (if x.applied = .closed then none else some .closed) } } := by
  rw [if_congr (eq_comm (a := x.applied)) rfl rfl]
  simp only [World.sensedChange, Layout.isLocked_false unlocked]
  rfl

/-- Under LOCKED the changed wall is written and its change applied. -/
theorem sensedChange_locked (locked : w.layout.lock = .locked) (pos : WallPos) :
    w.sensedChange i x pos =
      (w.setWall i { x with sensed := pos, settleLeft := none }).applySensed i
        { x with sensed := pos, settleLeft := none } := by
  simp only [World.sensedChange, Layout.isLocked_true locked, if_true]

/-- Writing a wall twice is writing it once. -/
theorem setWall_setWall (l : Layout) (i : WallId) (x y : Option Wall) :
    (l.setWall i x).setWall i y = l.setWall i y := by
  simp [Layout.setWall, Tbl.set_set]

/-- OPEN of an applied OPEN wall writes the sensed state alone. -/
theorem sensedChange_opened (locked : w.layout.lock = .locked) (applied : x.applied = .opened) :
    w.sensedChange i x .opened = w.setWall i { x with sensed := .opened, settleLeft := none } :=
  (sensedChange_locked locked _).trans (applySensed_opened rfl applied)

/-- OPEN of an applied CLOSED wall with policy HELD between two LIVE floors waits (01 R15). -/
theorem sensedChange_waiting (locked : w.layout.lock = .locked) (applied : x.applied = .closed)
    (policy : x.policy = .held) (between : w.hall.betweenFloors x = true) :
    w.sensedChange i x .opened =
      { w.setWall i { x with sensed := .opened, settleLeft := none, merge := .pending } with
        hall := w.hall.raise (.mergePending i) } := by
  rw [sensedChange_locked locked, applySensed_waiting]
  · simp only [World.setWall, setWall_setWall]
  · rfl
  · exact applied
  · exact policy
  · exact between

/-- Any other OPEN of an applied CLOSED wall is applied (01 R15). -/
theorem sensedChange_opening (locked : w.layout.lock = .locked) (applied : x.applied = .closed)
    (free : x.policy = .auto ∨ w.hall.betweenFloors x = false) :
    w.sensedChange i x .opened = w.applyOpen i { x with sensed := .opened, settleLeft := none } := by
  rw [sensedChange_locked locked, applySensed_opening]
  · simp only [World.applyOpen, World.setWall, setWall_setWall]
  · rfl
  · exact applied
  · exact free

/-- CLOSED of an applied CLOSED wall ends the merge (01 R14). -/
theorem sensedChange_closed (locked : w.layout.lock = .locked) (applied : x.applied = .closed) :
    w.sensedChange i x .closed = w.setWall i { x with sensed := .closed, settleLeft := none, merge := .idle } := by
  rw [sensedChange_locked locked, applySensed_closed]
  · simp only [World.setWall, setWall_setWall, Wall.endMerge]
  · rfl
  · exact applied

/-- CLOSED of an applied OPEN wall is applied, and ends the merge (01 R14). -/
theorem sensedChange_closing (locked : w.layout.lock = .locked) (applied : x.applied = .opened) :
    w.sensedChange i x .closed =
      w.applyClosed i { x with sensed := .closed, settleLeft := none, merge := .idle } := by
  rw [sensedChange_locked locked, applySensed_closing]
  · simp only [World.applyClosed, World.setWall, setWall_setWall, Wall.endMerge]
  · rfl
  · exact applied

end

/-! ## WALL_SET, MERGE_CONFIRM and MERGE_REFUSE (01 R12 to R18) -/

/-- WALL_SET of a REQUEST wall with another value is a sensed change (01 R12). -/
theorem exec_wallSet_change {b v : Byte} {i : WallId} {x : Wall} {pos : WallPos} {s : State} (h : s.takes)
    (hb : b.toNat = i.val + 1) (wall : s.world.layout.wall i = some x) (src : x.source = .request)
    (value : wallPosOf v = some pos) (other : x.sensed ≠ pos) :
    exec (.wallSet b v) s = .next (s.answered 5 0x16#8 (done (s.world.sensedChange i x pos))) := by
  show execWallSet b v s = _
  exact request_answers h (by simp only [value, withDefined_eq hb wall, src, if_neg other, ne_eq, not_true, if_false])

/-- WALL_SET with the sensed state changes nothing (01 R12). -/
theorem exec_wallSet_same {b v : Byte} {i : WallId} {x : Wall} {s : State} (h : s.takes)
    (hb : b.toNat = i.val + 1) (wall : s.world.layout.wall i = some x) (src : x.source = .request)
    (value : wallPosOf v = some x.sensed) :
    exec (.wallSet b v) s = .next (s.answered 5 0x16#8 (done s.world)) := by
  show execWallSet b v s = _
  exact request_answers h (by simp only [value, withDefined_eq hb wall, src, ne_eq, not_true, if_false, if_true])

theorem wallPosOf_zero : wallPosOf 0#8 = some .opened := rfl

theorem wallPosOf_one : wallPosOf 1#8 = some .closed := rfl

/-- Settles O29: WALL_SET is a sensed change, recorded on an unlocked layout and applied by its case under LOCKED. -/
theorem wallSetAndMergeConfirm : Obligations.WallSetAndMergeConfirm := by
  refine ⟨fun b i x s h hb wall src unlocked sensed => ?_, fun b i x s h hb wall src unlocked sensed => ?_,
    fun b i x s h hb wall src locked sensed => ?_, fun b i x s h hb wall src locked sensed => ?_,
    fun b v i x s h hb wall src same => ?_, fun b i x s h hb wall locked pending => ⟨_, rfl, ?_⟩⟩
  · rw [exec_wallSet_change h hb wall src wallPosOf_zero (by simp [sensed]), sensedChange_recordOpen unlocked]
    rfl
  · rw [exec_wallSet_change h hb wall src wallPosOf_one (by simp [sensed]), sensedChange_recordClosed unlocked]
    rfl
  · rw [exec_wallSet_change h hb wall src wallPosOf_zero (by simp [sensed])]
    refine ⟨_, rfl, fun applied => ?_, fun applied policy between => ?_, fun applied free => ⟨_, rfl, ?_⟩⟩
    · rw [sensedChange_opened locked applied]
      rfl
    · rw [sensedChange_waiting locked applied policy between]
      rfl
    · rw [sensedChange_opening locked applied free]
      rfl
  · rw [exec_wallSet_change h hb wall src wallPosOf_one (by simp [sensed])]
    refine ⟨_, rfl, fun applied => ?_, fun applied => ⟨_, rfl, ?_⟩⟩
    · rw [sensedChange_closed locked applied]
      rfl
    · rw [sensedChange_closing locked applied]
      rfl
  · refine exec_wallSet_same h hb wall src ?_
    obtain ⟨rfl, sensed⟩ | ⟨rfl, sensed⟩ := same
    · rw [sensed, wallPosOf_zero]
    · rw [sensed, wallPosOf_one]
  · show execMergeConfirm b s = _
    refine request_answers h ?_
    simp only [withDefined_eq hb wall, Layout.isLocked_true locked, pending]
    rfl

/-- Settles O30: one clause for each outcome of `withDefined`, and two for the merge state. -/
theorem mergeRefuse : Obligations.MergeRefuse := by
  refine ⟨fun b s h range => ?_, fun b i s h hb wall => ?_, fun b i x s h hb wall other => ?_,
    fun b i x s h hb wall pending => ?_⟩
  · show execMergeRefuse b s = _
    exact request_answers h (withDefined_bad range _)
  · show execMergeRefuse b s = _
    exact request_answers h (withDefined_none hb wall _)
  · show execMergeRefuse b s = _
    exact request_answers h (by simp only [withDefined_eq hb wall, if_pos other, refusal])
  · show execMergeRefuse b s = _
    refine request_answers h ?_
    simp only [withDefined_eq hb wall, pending]
    rfl

end Sys2Proof.Machine

namespace Sys2Proof.Machine

/-! ## Wall lines and settle timers (01 R11) -/

/-- A settle timer that runs makes the state its line reports the sensed one. -/
theorem exec_settleTimerExpiry {i : WallId} {x : Wall} {n : LineId} {p : Polarity} {left : Nat} {pos : WallPos}
    {s : State} (wall : s.world.layout.wall i = some x) (src : x.source = .line n p) (run : x.settleLeft = some left)
    (level : reportedBy p (s.world.layout.lines.get n) = pos) :
    exec (.settleTimerExpiry i) s = .next (s.after (s.world.sensedChange i x pos)) := by
  show event (fun w => w.settleExpires i) s = _
  rw [event_next, World.settleExpires]
  simp only [wall, run, Layout.reported_line src, level]

/-- The wall of a line that changes: its settle timer runs from its whole time where it did not run. -/
theorem afterLevel_starts {l : Layout} {n : LineId} {high : Bool} {x : Wall} {p : Polarity}
    (src : x.source = .line n p) (other : reportedBy p high ≠ x.sensed) (still : x.settleLeft = none) :
    x.afterLevel l n high = { x with settleLeft := some (x.settle * 5) } := by
  have rep : (l.withLevel n high).reported x ≠ some x.sensed := by
    simpa [Layout.reported_line src, Layout.withLevel] using other
  simp [Wall.afterLevel, Wall.onLine, src, Wall.judged, rep, still, Wall.settleTicks]

/-- Where the line reports the sensed state again, the timer is cancelled. -/
theorem afterLevel_cancels {l : Layout} {n : LineId} {high : Bool} {x : Wall} {p : Polarity}
    (src : x.source = .line n p) (same : reportedBy p high = x.sensed) :
    x.afterLevel l n high = { x with settleLeft := none } := by
  have rep : (l.withLevel n high).reported x = some x.sensed := by
    simpa [Layout.reported_line src, Layout.withLevel] using same
  simp [Wall.afterLevel, Wall.onLine, src, Wall.judged, rep]

theorem afterLevel_off {l : Layout} {n : LineId} {high : Bool} {x : Wall} (off : x.onLine n = false) :
    x.afterLevel l n high = x := by
  simp [Wall.afterLevel, off]

/-- Settles O31: a level change judges the walls of its line, and an expiry is a sensed change by its case. -/
theorem lineDebounce : Obligations.LineDebounce := by
  refine ⟨fun n high s other => ?_, fun i x n p left s wall src run unlocked level => ?_,
    fun i x n p left s wall src run unlocked level => ?_,
    fun i x n p left s wall src run locked level applied => ?_, fun i x n p left s wall src run locked level => ?_⟩
  · have after := Layout.wall_lineChange other
    have parts := Layout.lineChange_eq other
    refine ⟨s.after { s.world with layout := s.world.layout.lineChange n high }, rfl, rfl, ?_, ?_,
      fun i x p wall src ne still => ?_, fun i x p wall src same => ?_, fun i x wall off => ?_⟩
    · rw [State.after_world, parts]
      rfl
    · rw [State.after_world, parts]
      rfl
    · exact (after i).trans (by rw [wall, Option.map_some, afterLevel_starts src ne still])
    · exact (after i).trans (by rw [wall, Option.map_some, afterLevel_cancels src same])
    · exact (after i).trans (by rw [wall, Option.map_some, afterLevel_off off])
  · rw [exec_settleTimerExpiry wall src run level, sensedChange_recordOpen unlocked]
  · rw [exec_settleTimerExpiry wall src run level, sensedChange_recordClosed unlocked]
  · rw [exec_settleTimerExpiry wall src run level]
    refine ⟨_, rfl, fun policy between => ?_, fun free => ⟨_, rfl, ?_⟩⟩
    · rw [sensedChange_waiting locked applied policy between]
      rfl
    · rw [sensedChange_opening locked applied free]
      rfl
  · rw [exec_settleTimerExpiry wall src run level]
    refine ⟨_, rfl, fun applied => ?_, fun applied => ⟨_, rfl, ?_⟩⟩
    · rw [sensedChange_closed locked applied]
      rfl
    · rw [sensedChange_closing locked applied]
      rfl

/-! ## SEAT_PLACE and SEAT_ROLE (02 R21, R22) -/

/-- A seat placed: section and tuned channel change alone, with the mark of a seat that moved (02 R22). -/
theorem placeSeat_spec {h : Hall} {n : SeatId} {r : Seat} (held : h.seat? n = some r) (place : Option SectionId) :
    (∃ tuned, (h.placeSeat n place).seat? n = some { r with place := place, tuned := tuned }) ∧
      (r.place ≠ place → (h.placeSeat n place).marks.get n = true) ∧ (h.placeSeat n place).floors = h.floors := by
  unfold Hall.placeSeat
  simp only [held]
  by_cases same : r.place = place
  · subst same
    rw [if_pos rfl]
    exact ⟨⟨_, Hall.seat?_retune _ held⟩, fun ne => absurd rfl ne, Hall.retune_floors _ _⟩
  · rw [if_neg same]
    have moved : ((h.updSeat n fun x => { x with place := place }).mark n).seat? n = some { r with place := place } :=
      (Hall.seat?_of_seats (Hall.mark_seats _ n) n).trans (Hall.seat?_updSeat _ held)
    refine ⟨⟨_, Hall.seat?_retune _ moved⟩, fun _ => (Steady.retuneSeat _ n).marks n (by simp), ?_⟩
    simp [Hall.retuneSeat]

/-- A placement that passes checks 3 to 5 (01 R4, 02 R22). -/
theorem placeRequest_done {w : World} {n : SeatId} {r : Seat} {k : SectionId} (held : w.hall.seat? n = some r)
    (left : ∀ p, r.place = some p → w.hall.inUse p = false) (unused : w.hall.inUse k = false)
    (active : w.layout.active.getLsbD k.val = true) (role : r.role ≠ .desk) :
    placeRequest w n (some k) =
      done { w with layout := w.layout.restartIdle, hall := w.hall.placeSeat n (some k) } := by
  have free : r.place.elim false w.hall.inUse = false := by
    cases e : r.place with
    | none => rfl
    | some p => exact left p e
  simp only [placeRequest, held, free, unused, active, Option.elim_some, Option.isSome_some, role, decide_false,
    Bool.or_false, Bool.not_true, Bool.and_false, Bool.false_eq_true, if_false]

/-- Settles O32: the placed seat is `placeSeat_spec`; a role change writes role, indicator and mark. -/
theorem seatPlaceAndRole : Obligations.SeatPlaceAndRole := by
  refine ⟨fun seat sec n k r key left s h hn hk opened held leaves unused active role => ?_,
    fun seat n r s h hn held kind silent unqueued unheld role => ?_⟩
  · obtain ⟨⟨tuned, placed⟩, marked, floors⟩ := placeSeat_spec held (some k)
    refine ⟨s.answered 6 0x20#8 (done { s.world with
      layout := s.world.layout.restartIdle, hall := s.world.hall.placeSeat n (some k) }), tuned, ?_, placed, marked,
      Layout.restartIdle_opened opened, floors, rfl⟩
    show execSeatPlace seat sec s = _
    refine request_answers h ?_
    simp only [numbered_eq hn, placeOf_section hk, Layout.isOpen_of_opened opened,
      placeRequest_done held leaves unused active role]
    rfl
  · refine ⟨s.answered 6 0x23#8 (done (inHall s.world
      (((s.world.hall.updSeat n fun y => { y with role := .delegate }).recompose n).mark n))), _, ?_,
      (Hall.seat?_of_seats (Hall.mark_seats _ n) n).trans (Hall.seat?_recompose (Hall.seat?_updSeat _ held)),
      ?_, ?_, rfl⟩
    · show execSeatRole seat 0#8 s = _
      refine request_answers h ?_
      simp [show roleOf 0#8 = some .delegate from rfl, withSeat_eq hn held, kind, UnitKind.plays, silent, unqueued,
        unheld, role]
    · simp [done]
    · simp [done]

/-! ## The requests that read (01 R10, 02 R38) -/

/-- The only seat that satisfies a test stands first among those that do. -/
theorem seatsWhere_head {h : Hall} {p : Seat → Bool} {n : SeatId} {r : Seat} (held : h.seat? n = some r)
    (test : p r = true) (only : ∀ m v, h.seat? m = some v → p v = true → m = n) :
    (h.seatsWhere p).head? = some n := by
  have mem : n ∈ h.seatsWhere p := Hall.mem_seatsWhere.mpr ⟨r, held, test⟩
  cases e : h.seatsWhere p with
  | nil => simp [e] at mem
  | cons m rest =>
    obtain ⟨v, hv, tv⟩ := Hall.mem_seatsWhere.mp (show m ∈ h.seatsWhere p by simp [e])
    rw [only m v hv tv]
    rfl

theorem seatsWhere_nil {h : Hall} {p : Seat → Bool} (no : ∀ m v, h.seat? m = some v → p v = false) :
    h.seatsWhere p = [] := by
  rw [List.eq_nil_iff_forall_not_mem]
  intro m mem
  obtain ⟨v, hv, tv⟩ := Hall.mem_seatsWhere.mp mem
  simp [no m v hv] at tv

theorem primary_ne_secondary (q : PortId) (h : q = primaryPort (ringOfPort q)) :
    q ≠ secondaryPort (ringOfPort q) := by
  revert q
  decide

/-- A port that stands alone, or is its ring's primary one, may be named (09 R156). -/
theorem port_named {w : World} {q : PortId}
    (port : (w.ring (ringOfPort q)).state = .linear ∨ q = primaryPort (ringOfPort q)) :
    (paired w.chain (ringOfPort q) && decide (q = secondaryPort (ringOfPort q))) = false := by
  obtain linear | primary := port
  · rw [paired_linear linear]
    rfl
  · simp [primary_ne_secondary q primary]

/-- Settles O21: the frame is `exec_read`; each answer is computed from the records its arguments name. -/
theorem readsChangeNothing : Obligations.ReadsChangeNothing := by
  refine ⟨fun c s t read e => exec_read read e, fun seat n r s h hn held reached => ?_,
    fun seat n r left s h hn held lost => ?_, fun seat n s h hn vacant => ?_, fun code s h => ⟨_, rfl, ?_⟩,
    fun p a q n r s h hp port held there address only => ?_, fun p a q s h hp port no => ?_,
    fun b i s h hb wall => ?_, fun b i x s h hb wall => ⟨fun n p src => ?_, fun src still => ?_⟩⟩
  · show execSeatRead seat s = _
    refine request_answers h ?_
    rw [withSeat_eq hn held]
    cases link : r.link with
    | lostGrace left => exact absurd link (reached left)
    | reachable => rfl
    | gone => rfl
  · show execSeatRead seat s = _
    refine request_answers h ?_
    simp only [withSeat_eq hn held, lost, secsUp]
  · show execSeatRead seat s = _
    exact request_answers h (withSeat_none hn vacant _)
  · show execSeatFind (.card code) s = _
    refine request_answers h ?_
    simp only [Hall.seatsWhere_eq]
  · show execSeatFind (.place p a) s = _
    refine request_answers h ?_
    have found := seatsWhere_head (p := fun v => v.port = q && v.address = a.toNat) held (by simp [there, address])
      fun m v hv both => by
        obtain ⟨port, address⟩ : v.port = q ∧ v.address = a.toNat := by simpa using both
        exact only m v hv port address
    simp only [indexed_eq hp, port_named port, found, Bool.false_eq_true, if_false]
  · show execSeatFind (.place p a) s = _
    refine request_answers h ?_
    have absent := seatsWhere_nil (h := s.world.hall) (p := fun v => v.port = q && v.address = a.toNat) fun m v hv => by
      by_cases there : v.port = q
      · simp [no m v hv there]
      · simp [there]
    simp only [indexed_eq hp, port_named port, absent, Bool.false_eq_true, if_false, List.head?_nil, refusal]
  · show execWallRead b s = _
    refine request_answers h ?_
    simp only [withWall_eq hb, wall, Option.bind_none, Option.map_none]
  · show execWallRead b s = _
    refine request_answers h ?_
    simp only [withWall_eq hb, wall, Option.bind_some, src]
    rfl
  · show execWallRead b s = _
    refine request_answers h ?_
    simp only [withWall_eq hb, wall, Option.bind_some, src, still, Option.map_none]

end Sys2Proof.Machine

/-! PROOFS. The family of chapter 2: seats and delegate units. First what one seat record becomes under the link operations,
then the chain records under an exchange that ends, then what each command of the family does. -/

namespace Sys2Proof

/-! ## Seat records and positions of the Seat Table -/

/-- What two seat records with the same core share of their unit and their place. -/
theorem Seat.eq_of_core {q r : Seat} (h : q.core = r.core) :
    q.port = r.port ∧ q.address = r.address ∧ q.role = r.role ∧ q.place = r.place ∧ q.link = r.link ∧
      q.badge = r.badge := by
  simp only [Seat.core, Seat.mk.injEq] at h
  obtain ⟨port, address, -, -, role, place, link, badge, -⟩ := h
  exact ⟨port, address, role, place, link, badge⟩

theorem Hall.seat?_updSeat_ne {h : Hall} {m n : SeatId} (ne : m ≠ n) (k : Seat → Seat) :
    (h.updSeat m k).seat? n = h.seat? n := by
  unfold Hall.updSeat
  split
  · simp only [Hall.seat?, Tbl.get_set_ne _ _ ne]
  · rfl

theorem Hall.free_updSeat {h : Hall} {n : SeatId} (free : h.seats.get n = .free) (m : SeatId) (k : Seat → Seat) :
    (h.updSeat m k).seats.get n = .free := by
  unfold Hall.updSeat
  split
  next r held =>
    have ne : m ≠ n := by
      rintro rfl
      rw [held] at free
      cases free
    exact (Tbl.get_set_ne _ _ ne).trans free
  · exact free

@[simp] theorem Hall.seat?_mark (h : Hall) (m n : SeatId) : (h.mark m).seat? n = h.seat? n :=
  Hall.seat?_of_seats (Hall.mark_seats h m) n

/-- Marks and attention items that stand are kept by a write to a seat record and its mark. -/
theorem Hall.stands_updSeat_mark {h : Hall} {i : AttnItem} (stands : h.stands i = true) (n : SeatId) (k : Seat → Seat) :
    ((h.updSeat n k).mark n).stands i = true :=
  (Steady.mark _ n).stands (by simpa [Hall.stands] using stands)

/-- A vacant number that is marked stays so when a reach is stored (09 R162, R165). -/
theorem Hall.setReach_vacant {h : Hall} {n : SeatId} (m : SeatId) (x : Reach) (free : h.seats.get n = .free)
    (marked : h.marks.get n = true) :
    (h.setReach m x).seats.get n = .free ∧ (h.setReach m x).marks.get n = true := by
  unfold Hall.setReach
  split
  · split
    · exact ⟨free, marked⟩
    · exact ⟨by simpa using Hall.free_updSeat free m _, (Steady.mark _ m).marks n (by simpa using marked)⟩
  · exact ⟨free, marked⟩

/-! ## Retirement and the end of grace (02 R32, R35) -/

/-- A retirement frees the number and sets its mark (02 R35). -/
theorem Hall.retire_spec (now : Clock) (h : Hall) (n : SeatId) (c : RetireCause) :
    (h.retire now n c).seats.get n = .free ∧ (h.retire now n c).marks.get n = true := by
  simp [Hall.retire]

/-- The seat whose grace expires is GONE without a badge, the rest of its core kept, its mark set (02 R32). -/
theorem Hall.graceExpires_spec (now : Clock) {h : Hall} {n : SeatId} {r : Seat} {left : Nat}
    (held : h.seat? n = some r) (link : r.link = .lostGrace left) :
    ∃ q, (h.graceExpires now n).seat? n = some q ∧ q.core = { r with link := .gone, badge := none }.core ∧
      (h.graceExpires now n).marks.get n = true := by
  have inGrace : r.inGrace = true := by simp [Seat.inGrace, link]
  unfold Hall.graceExpires
  simp only [held, inGrace, if_true]
  generalize hg : (h.updSeat n fun s => { s with link := .gone, badge := none }).mark n = g
  have gone : g.seat? n = some { r with link := .gone, badge := none } := by
    rw [← hg, Hall.seat?_mark]
    exact Hall.seat?_updSeat _ held
  have marked : g.marks.get n = true := by simp [← hg]
  have steady := ((Steady.ite (c := (g.speaks n || g.queued n || g.holds n) = true)
    (Steady.speechGone now g n .linkLost .linkLost) (Steady.refl g)).trans (Steady.deskLeaves _ n .linkLost)).trans
      (Steady.recompose _ n)
  obtain ⟨q, hq, core⟩ := steady.seat gone
  exact ⟨q, hq, core, steady.marks n marked⟩

end Sys2Proof

namespace Sys2Proof.World

/-! ## A retired seat stays retired while its port settles (09 R167, R169, R171) -/

/-- A number freed and marked, with no poll entry of a port naming it. -/
structure Retired (p : PortId) (n : SeatId) (w : World) : Prop where
  free : w.hall.seats.get n = .free
  marked : w.hall.marks.get n = true
  unpolled : ∀ e ∈ (w.port p).entries, e.seat ≠ n

/-- A port record changed without a new seat among its poll entries. -/
def NamesNoMore (x y : PortRec) : Prop :=
  ∀ e ∈ y.entries, ∃ d ∈ x.entries, d.seat = e.seat

theorem NamesNoMore.of_entries {x y : PortRec} (h : y.entries = x.entries) : NamesNoMore x y :=
  fun e mem => ⟨e, h ▸ mem, rfl⟩

namespace Retired

variable {p : PortId} {n : SeatId} {w : World}

theorem updPort (r : Retired p n w) (q : PortId) {f : PortRec → PortRec} (keep : ∀ x, NamesNoMore x (f x)) :
    Retired p n (w.updPort q f) := by
  refine ⟨r.free, r.marked, fun e mem => ?_⟩
  rw [port_updPort] at mem
  by_cases same : q = p
  · subst same
    rw [if_pos rfl] at mem
    obtain ⟨d, hd, seat⟩ := keep _ e mem
    exact seat ▸ r.unpolled d hd
  · rw [if_neg same] at mem
    exact r.unpolled e mem

theorem setPort (r : Retired p n w) (q : PortId) {f : PortRec → PortRec} (keep : ∀ x, (f x).entries = x.entries) :
    Retired p n (w.updPort q f) :=
  r.updPort q fun x => .of_entries (keep x)

theorem updRing (r : Retired p n w) (k : RingId) (f : RingRec → RingRec) : Retired p n (w.updRing k f) :=
  ⟨r.free, r.marked, r.unpolled⟩

theorem send (r : Retired p n w) (q : PortId) (b : List Byte) : Retired p n (w.send q b) :=
  ⟨r.free, r.marked, r.unpolled⟩

theorem raise (r : Retired p n w) (i : AttnItem) : Retired p n (w.onHall fun h => h.raise i) :=
  ⟨r.free, r.marked, r.unpolled⟩

theorem allPrimary (r : Retired p n w) (q : PortId) : Retired p n (w.onHall fun h => h.allPrimary q) := by
  have kept : ∀ (ms : List SeatId) (h : Hall), h.seats.get n = .free → h.marks.get n = true →
      (ms.foldl (fun g m => g.setReach m .primary) h).seats.get n = .free ∧
        (ms.foldl (fun g m => g.setReach m .primary) h).marks.get n = true := by
    intro ms
    induction ms with
    | nil => exact fun h free marked => ⟨free, marked⟩
    | cons m ms ih =>
      intro h free marked
      obtain ⟨free, marked⟩ := Hall.setReach_vacant m .primary free marked
      exact ih _ free marked
  obtain ⟨free, marked⟩ := kept (w.hall.seatsOf q) w.hall r.free r.marked
  exact ⟨free, marked, r.unpolled⟩

theorem setPortState (r : Retired p n w) (q : PortId) (st : PortState) : Retired p n (w.setPortState q st) := by
  unfold World.setPortState
  split
  · exact (r.setPort _ (f := fun x => { x with state := st }) fun _ => rfl).setPort _ fun _ => rfl
  · exact r.setPort _ fun _ => rfl

theorem namesNoMore_ringSet (clear : Bool) (x : PortRec) : NamesNoMore x (x.ringSet clear) := by
  cases clear with
  | false => exact .of_entries rfl
  | true =>
    intro e mem
    obtain ⟨d, hd, rfl⟩ := List.mem_map.mp mem
    exact ⟨d, hd, rfl⟩

theorem setRing (r : Retired p n w) (k : RingId) (st : RingState) : Retired p n (w.setRing k st) := by
  unfold World.setRing
  split
  · exact r
  · have changed := ((r.updRing k fun x => { x with state := st }).updPort (primaryPort k)
      (namesNoMore_ringSet ((w.ring k).state.clearsSecondary st))).raise (.ringChanged k)
    simp only []
    split
    · exact changed.allPrimary _
    · exact changed

theorem startLoop (r : Retired p n w) (k : RingId) : Retired p n (w.startLoop k) := by
  unfold World.startLoop
  split
  · exact r
  · exact (r.updRing k _).send _ _

theorem settleRing (r : Retired p n w) (k : RingId) (res : EnrolResult) (st : PortState) :
    Retired p n (w.settleRing k res st) := by
  unfold World.settleRing
  split
  · exact r.setRing k _
  · exact r.setRing k _
  · exact r.startLoop k
  · exact r.setRing k _

theorem endEnrol (r : Retired p n w) (q : PortId) (res : EnrolResult) : Retired p n (w.endEnrol q res) := by
  unfold World.endEnrol
  split
  · exact r
  next e _ =>
    have ended := (r.setPort q (f := fun x => x.endEnrol e res w.clock) fun _ => rfl).setPortState q (w.endState q)
    simp only []
    split
    · exact ((ended.updRing _ _).settleRing _ _ _).raise _
    · exact ended.raise _

theorem setStage (r : Retired p n w) (q : PortId) (st : EnrolStage) : Retired p n (w.setStage q st) :=
  r.setPort q fun _ => rfl

theorem finishReset (r : Retired p n w) (q : PortId) : Retired p n (w.finishReset q) := by
  have emptied := (r.updPort q (f := fun x => { x with entries := [], releasePending := false, cursor := 0 })
    fun _ _ mem => absurd mem List.not_mem_nil).setPortState q .idle
  unfold World.finishReset
  simp only []
  split
  · exact emptied.setRing _ _
  · exact emptied

theorem settleTest (r : Retired p n w) (q : PortId) : Retired p n (w.settleTest q) := by
  unfold World.settleTest
  split
  · split
    · exact (r.updRing _ _).raise _
    · exact r
  · exact r

/-- Whatever has become due on a port, a retired number stays free, marked and unpolled. -/
theorem settle (r : Retired p n w) (q : PortId) : Retired p n (w.settle q) := by
  unfold World.settle
  split
  · split
    · exact r.finishReset q
    · exact r
  · split
    · split
      · unfold World.afterRetiring
        split
        · exact r.endEnrol q _
        · exact r.setStage q _
      · exact r
    · split
      · exact r.setStage q _
      · exact r
    · exact r
  · exact r.settleTest q
  · exact r

end Retired

theorem stopPolling_unpolled (x : PortRec) (n : SeatId) : ∀ e ∈ (x.stopPolling n).entries, e.seat ≠ n := by
  intro e mem
  simpa using (List.mem_filter.mp mem).2

/-- A seat retired whole: number free, mark set, polling ended (02 R35, 09 R173). -/
theorem retireSeat_retired (w : World) (p : PortId) (n : SeatId) (c : RetireCause) :
    Retired p n (w.retireSeat p n c) := by
  obtain ⟨free, marked⟩ := Hall.retire_spec w.clock w.hall n c
  have stopped : Retired p n ((w.onHall fun h => h.retire w.clock n c).updPort p fun x => x.stopPolling n) := by
    refine ⟨?_, ?_, ?_⟩
    · rw [updPort_hall, onHall_hall]
      exact free
    · rw [updPort_hall, onHall_hall]
      exact marked
    · rw [port_updPort_self]
      exact stopPolling_unpolled _ n
  exact stopped.settle p

end Sys2Proof.World

namespace Sys2Proof.Machine

/-! ## MASK_SET, SEAT_RETIRE and the grace expiry (02 R27, R32, R34, R35) -/

theorem exec_maskSet_done {b keys : Byte} {x : Role} {h : Hall} {s : State} (takes : s.takes) (role : roleOf b = some x)
    (set : s.world.hall.setMask x keys = some h) :
    exec (.maskSet b keys) s = .next (s.answered 5 0x25#8 ⟨{ s.world with hall := h }, .ok, .empty⟩) := by
  show execMaskSet b keys s = _
  refine request_answers takes ?_
  simp only [role, Option.bind_some, set]
  rfl

theorem exec_maskSet_refused {b keys : Byte} {s : State} (takes : s.takes)
    (bad : ∀ x, roleOf b = some x → s.world.hall.setMask x keys = none) :
    exec (.maskSet b keys) s = .next (s.answered 5 0x25#8 ⟨s.world, .badArgument, .empty⟩) := by
  show execMaskSet b keys s = _
  refine request_answers takes ?_
  simp only [Option.bind_eq_none_iff.mpr bad]
  rfl

theorem roleOf_none {b : Byte} (h : 3 ≤ b.toNat) : roleOf b = none := by
  unfold roleOf
  split
  · omega
  · omega
  · omega
  · rfl

/-- Settles O33: the three families by the size of the set, and the refusals. -/
theorem maskSet : Obligations.MaskSet := by
  refine ⟨fun keys s takes fits => exec_maskSet_done takes rfl (if_pos fits),
    fun keys s takes fits => exec_maskSet_done takes rfl (if_pos fits),
    fun keys s takes fits => exec_maskSet_done takes rfl (if_pos fits),
    fun role keys s takes bad => exec_maskSet_refused takes fun x hx => ?_⟩
  obtain ⟨rfl, big⟩ | ⟨rfl, big⟩ | ⟨rfl, big⟩ | big := bad
  · cases hx
    exact if_neg (by omega)
  · cases hx
    exact if_neg (by omega)
  · cases hx
    exact if_neg (by omega)
  · rw [roleOf_none big] at hx
    cases hx

/-- Settles O34: a retirement by `retireSeat_retired`, a grace expiry by `graceExpires_spec`. -/
theorem retireAndGrace : Obligations.RetireAndGrace := by
  refine ⟨fun seat n r s takes hn held gone => ?_, fun seat n r s takes hn held present => ?_,
    fun n r left s held lost => ?_⟩
  · have retired := World.retireSeat_retired s.world r.port n .seatRetired
    refine ⟨s.answered 5 0x24#8 (done (s.world.retireSeat r.port n .seatRetired)), ?_, retired.free, retired.marked,
      retired.unpolled, rfl⟩
    show execSeatRetire seat s = _
    refine request_answers takes ?_
    rw [withSeat_eq hn held, if_pos gone]
  · show execSeatRetire seat s = _
    refine request_answers takes ?_
    rw [withSeat_eq hn held, if_neg present]
    rfl
  · obtain ⟨q, hq, core, marked⟩ := Hall.graceExpires_spec s.world.clock held lost
    obtain ⟨port, address, role, place, link, badge⟩ := Seat.eq_of_core core
    exact ⟨s.after (inHall s.world (s.world.hall.graceExpires s.world.clock n)), q, rfl, hq, link, badge, place, port,
      address, role, marked⟩

end Sys2Proof.Machine

namespace Sys2Proof

/-! ## A seat reported missing (02 R30) -/

theorem Hall.seatMissing_eq (now : Clock) {h : Hall} {n : SeatId} {r : Seat} (held : h.seat? n = some r)
    (link : r.link = .reachable) : h.seatMissing now n =
      (((h.setLink n (.lostGrace graceTicks)).raise (.unitLost r.port)).speechLink now n true).deskLinkLost n := by
  have reachable : r.reachable = true := by simp [Seat.reachable, link]
  simp only [Hall.seatMissing, held, reachable, if_true]

theorem Hall.seatMissing_unreachable (now : Clock) {h : Hall} {n : SeatId} {r : Seat} (held : h.seat? n = some r)
    (link : r.link ≠ .reachable) : h.seatMissing now n = h := by
  have unreachable : r.reachable = false := by simp [Seat.reachable, link]
  simp only [Hall.seatMissing, held, unreachable, Bool.false_eq_true, if_false]

/-- A REACHABLE seat reported missing enters LOST_GRACE with 3 s, and UNIT_LOST of its port is raised (02 R30). -/
theorem Hall.seatMissing_lost (now : Clock) {h : Hall} {n : SeatId} {r : Seat} (held : h.seat? n = some r)
    (link : r.link = .reachable) :
    (∃ v, (h.seatMissing now n).seat? n = some v ∧ v.link = .lostGrace 30) ∧
      (h.seatMissing now n).stands (.unitLost r.port) = true := by
  rw [Hall.seatMissing_eq now held link]
  generalize hg : (h.setLink n (.lostGrace graceTicks)).raise (.unitLost r.port) = g
  have steady := (Steady.speechLink now g n true).trans (Steady.deskLinkLost _ n)
  have lost : g.seat? n = some { r with link := .lostGrace graceTicks } := by
    rw [← hg]
    exact (Hall.seat?_mark _ n n).trans (Hall.seat?_updSeat _ held)
  have raised : g.stands (.unitLost r.port) = true := by simp [← hg, Hall.stands]
  obtain ⟨v, hv, core⟩ := steady.seat lost
  obtain ⟨-, -, -, -, link, -⟩ := Seat.eq_of_core core
  exact ⟨⟨v, hv, link⟩, steady.stands raised⟩

/-- The report of one seat leaves port and link of every other (02 R30). -/
theorem Hall.seatMissing_other (now : Clock) {h : Hall} {m n : SeatId} {r : Seat} (ne : m ≠ n)
    (held : h.seat? n = some r) :
    ∃ v, (h.seatMissing now m).seat? n = some v ∧ v.port = r.port ∧ v.link = r.link := by
  unfold Hall.seatMissing
  split
  next q _ =>
    split
    · have kept : ((h.setLink m (.lostGrace graceTicks)).raise (.unitLost q.port)).seat? n = some r :=
        (Hall.seat?_mark _ m n).trans ((Hall.seat?_updSeat_ne ne _).trans held)
      obtain ⟨v, hv, core⟩ := ((Steady.speechLink now _ m true).trans (Steady.deskLinkLost _ m)).seat kept
      obtain ⟨port, -, -, -, link, -⟩ := Seat.eq_of_core core
      exact ⟨v, hv, port, link⟩
    · exact ⟨r, held, rfl, rfl⟩
  · exact ⟨r, held, rfl, rfl⟩

theorem Hall.seatMissing_stands (now : Clock) {h : Hall} {i : AttnItem} (stands : h.stands i = true) (m : SeatId) :
    (h.seatMissing now m).stands i = true := by
  unfold Hall.seatMissing
  split
  next q _ =>
    split
    · exact ((Steady.raise _ (.unitLost q.port)).trans ((Steady.speechLink now _ m true).trans
        (Steady.deskLinkLost _ m))).stands (Hall.stands_updSeat_mark stands m _)
    · exact stands
  · exact stands

end Sys2Proof

namespace Sys2Proof.World

/-! ## What decides how a port goes on after an exchange -/

/-- The state, enrolment, exchange and waiting release of a port, and the state and the ring test of every ring. -/
def course (p : PortId) (w : World) :
    (PortState × Option Enrolment × Option Exchange × Bool) × (RingId → RingState × Option RingRun) :=
  (((w.port p).state, (w.port p).enrol, (w.port p).wait, (w.port p).releasePending),
    fun k => ((w.ring k).state, (w.ring k).run))

theorem port_of_course {p : PortId} {w v : World} (h : v.course p = w.course p) :
    (v.port p).state = (w.port p).state ∧ (v.port p).enrol = (w.port p).enrol ∧ (v.port p).wait = (w.port p).wait ∧
      (v.port p).releasePending = (w.port p).releasePending := by
  simpa [course] using congrArg Prod.fst h

theorem ring_of_course {p : PortId} {w v : World} (h : v.course p = w.course p) (k : RingId) :
    (v.ring k).state = (w.ring k).state ∧ (v.ring k).run = (w.ring k).run := by
  simpa [course] using congrFun (congrArg Prod.snd h) k

namespace Course

theorem updPort {p : PortId} (w : World) (q : PortId) {f : PortRec → PortRec}
    (keep : ∀ x, (f x).state = x.state ∧ (f x).enrol = x.enrol ∧ (f x).wait = x.wait ∧
      (f x).releasePending = x.releasePending) : (w.updPort q f).course p = w.course p := by
  obtain ⟨state, enrol, wait, pending⟩ := keep (w.port q)
  by_cases same : q = p
  · subst same
    simp [course, state, enrol, wait, pending]
  · simp [course, port_updPort, same]

theorem updEntry {p : PortId} (w : World) (q : PortId) (a : Nat) (f : PollEntry → PollEntry) :
    (w.updEntry q a f).course p = w.course p :=
  updPort w q fun _ => ⟨rfl, rfl, rfl, rfl⟩

theorem updRing {p : PortId} (w : World) (k : RingId) {f : RingRec → RingRec}
    (keep : ∀ x, (f x).state = x.state ∧ (f x).run = x.run) : (w.updRing k f).course p = w.course p := by
  have rings : ∀ j, ((w.updRing k f).ring j).state = (w.ring j).state ∧ ((w.updRing k f).ring j).run = (w.ring j).run := by
    intro j
    rw [ring_updRing]
    split
    next same => exact same ▸ keep (w.ring k)
    · exact ⟨rfl, rfl⟩
  simp [course, rings]

theorem onHall {p : PortId} (w : World) (f : Hall → Hall) : (w.onHall f).course p = w.course p := rfl

theorem startLoop {p : PortId} (w : World) (k : RingId) : (w.startLoop k).course p = w.course p := by
  unfold World.startLoop
  split
  · rfl
  · exact updRing w k fun _ => ⟨rfl, rfl⟩

theorem testOnMiss {p : PortId} (w : World) (q : PortId) (via : Reach) :
    (w.testOnMiss q via).course p = w.course p := by
  unfold World.testOnMiss
  split
  · exact startLoop w _
  · rfl

theorem reportMissing {p : PortId} (w : World) (q : PortId) (a : Nat) :
    (w.reportMissing q a).course p = w.course p := by
  unfold World.reportMissing
  split
  · split
    · rfl
    · exact (onHall _ _).trans (updEntry w q a _)
  · rfl

theorem reportCounted {p : PortId} (w : World) (q : PortId) : (w.reportCounted q).course p = w.course p :=
  foldl_keeps (part := World.course p) (fun g a => reportMissing g q a) _ w

end Course

/-! ## Reports of seats that miss (09 R163, R165) -/

theorem entry_updEntry_ne (w : World) (p : PortId) {a b : Nat} (ne : b ≠ a) (f : PollEntry → PollEntry)
    (keep : ∀ e, (f e).address = e.address) : (w.updEntry p b f).entry? p a = w.entry? p a := by
  simp only [World.entry?, World.updEntry, port_updPort_self]
  induction (w.port p).entries with
  | nil => rfl
  | cons e es ih =>
    by_cases here : e.address = b
    · have away : e.address ≠ a := fun c => ne (here.symm.trans c)
      simp only [List.map_cons, here, if_true, List.find?_cons, keep, ne, decide_false, ih]
    · simp only [List.map_cons, here, if_false, List.find?_cons, ih]

theorem entry_updPort (w : World) (p : PortId) (a : Nat) {f : PortRec → PortRec}
    (keep : ∀ x, (f x).entries = x.entries) : (w.updPort p f).entry? p a = w.entry? p a := by
  simp only [World.entry?, port_updPort_self, keep]

@[simp] theorem entry_onHall (w : World) (f : Hall → Hall) (p : PortId) (a : Nat) :
    (w.onHall f).entry? p a = w.entry? p a := rfl

theorem reportMissing_eq {w : World} {p : PortId} {a : Nat} {e : PollEntry} (entry : w.entry? p a = some e)
    (unreported : e.reported = false) : w.reportMissing p a =
      (w.updEntry p a fun x => { x with reported := true }).onHall fun h => h.seatMissing w.clock e.seat := by
  simp only [World.reportMissing, entry, unreported, Bool.false_eq_true, if_false]

theorem reportMissing_reported {w : World} {p : PortId} {a : Nat} {e : PollEntry} (entry : w.entry? p a = some e)
    (reported : e.reported = true) : w.reportMissing p a = w := by
  simp only [World.reportMissing, entry, reported, if_true]

/-- A report marks its own entry and leaves the entry of every other address. -/
theorem entry_reportMissing {w : World} {p : PortId} {a : Nat} {e : PollEntry} (entry : w.entry? p a = some e) :
    (w.reportMissing p a).entry? p a = some { e with reported := true } := by
  cases reported : e.reported with
  | true => rw [reportMissing_reported entry reported, entry, ← reported]
  | false =>
    rw [reportMissing_eq entry reported, entry_onHall, entry_updEntry, entry, Option.map_some]
    exact fun _ => rfl

theorem entry_reportMissing_ne (w : World) (p : PortId) {a b : Nat} (ne : b ≠ a) :
    (w.reportMissing p b).entry? p a = w.entry? p a := by
  unfold World.reportMissing
  split
  · split
    · rfl
    · exact entry_updEntry_ne w p ne (fun x => { x with reported := true }) fun _ => rfl
  · rfl

/-- A seat at an address on its way to being lost: its entry so far reported or not, the seat REACHABLE until a report and in
LOST_GRACE with UNIT_LOST standing from then on. -/
structure Losing (p : PortId) (e : PollEntry) (port : PortId) (done : Bool) (w : World) : Prop where
  entry : w.entry? p e.address = some { e with reported := done }
  seat : ∃ v, w.hall.seat? e.seat = some v ∧
    (v.link = .lostGrace 30 ∧ w.hall.stands (.unitLost port) = true ∨
      done = false ∧ v.link = .reachable ∧ v.port = port)

namespace Losing

variable {p : PortId} {e : PollEntry} {port : PortId} {done : Bool} {w : World}

/-- The report of any seat, at any address, leaves a lost seat lost and a REACHABLE one REACHABLE or lost. -/
theorem seatMissing (l : Losing p e port done w) (now : Clock) (m : SeatId) :
    ∃ v, (w.hall.seatMissing now m).seat? e.seat = some v ∧
      (v.link = .lostGrace 30 ∧ (w.hall.seatMissing now m).stands (.unitLost port) = true ∨
        m ≠ e.seat ∧ done = false ∧ v.link = .reachable ∧ v.port = port) := by
  obtain ⟨v, hv, state⟩ := l.seat
  by_cases same : m = e.seat
  · subst same
    obtain ⟨lost, stands⟩ | ⟨-, reachable, rfl⟩ := state
    · rw [Hall.seatMissing_unreachable now hv (by simp [lost])]
      exact ⟨v, hv, .inl ⟨lost, stands⟩⟩
    · obtain ⟨⟨q, hq, link⟩, stands⟩ := Hall.seatMissing_lost now hv reachable
      exact ⟨q, hq, .inl ⟨link, stands⟩⟩
  · obtain ⟨q, hq, hport, link⟩ := Hall.seatMissing_other now same hv
    obtain ⟨lost, stands⟩ | ⟨undone, reachable, named⟩ := state
    · exact ⟨q, hq, .inl ⟨link.trans lost, Hall.seatMissing_stands now stands m⟩⟩
    · exact ⟨q, hq, .inr ⟨same, undone, link.trans reachable, hport.trans named⟩⟩

theorem reportMissing_self (l : Losing p e port done w) : Losing p e port true (w.reportMissing p e.address) := by
  refine ⟨(entry_reportMissing (a := e.address) l.entry :), ?_⟩
  cases done with
  | true =>
    rw [World.reportMissing_reported l.entry rfl]
    exact l.seat
  | false =>
    rw [World.reportMissing_eq l.entry rfl]
    obtain ⟨v, hv, lost | ⟨other, -⟩⟩ := l.seatMissing w.clock e.seat
    · exact ⟨v, hv, .inl lost⟩
    · exact absurd rfl other

theorem reportMissing_other (l : Losing p e port done w) {a : Nat} (ne : a ≠ e.address) :
    Losing p e port done (w.reportMissing p a) := by
  refine ⟨(entry_reportMissing_ne w p ne).trans l.entry, ?_⟩
  unfold World.reportMissing
  split
  next d _ =>
    split
    · exact l.seat
    · obtain ⟨v, hv, lost | ⟨-, still⟩⟩ := l.seatMissing w.clock d.seat
      · exact ⟨v, hv, .inl lost⟩
      · exact ⟨v, hv, .inr still⟩
  · exact l.seat

theorem reportAll (as : List Nat) (l : Losing p e port done w) :
    Losing p e port (done || as.contains e.address) (as.foldl (fun g a => g.reportMissing p a) w) := by
  induction as generalizing w done with
  | nil => simpa using l
  | cons a as ih =>
    by_cases here : a = e.address
    · subst here
      simpa using ih l.reportMissing_self
    · simpa [Ne.symm here] using ih (l.reportMissing_other here)

end Losing

/-- A REACHABLE seat with a primary count of 3 is reported when the seats that count 3 are (09 R165). -/
theorem reportCounted_loses {w : World} {p : PortId} {e : PollEntry} {q : Seat}
    (entry : w.entry? p e.address = some e) (count : e.missPrimary = 3) (unreported : e.reported = false)
    (held : w.hall.seat? e.seat = some q) (link : q.link = .reachable) :
    Losing p e q.port true (w.reportCounted p) := by
  have start : Losing p e q.port false w :=
    ⟨by rw [entry, ← unreported], q, held, .inr ⟨rfl, link, rfl⟩⟩
  have listed : (((w.port p).entries.filter fun e => e.missPrimary = 3).map (·.address)).contains e.address = true := by
    have mem : e ∈ (w.port p).entries := List.mem_of_find?_eq_some entry
    rw [List.contains_iff_mem]
    exact List.mem_map.mpr ⟨e, List.mem_filter.mpr ⟨mem, by simp [count]⟩, rfl⟩
  have all := start.reportAll (((w.port p).entries.filter fun e => e.missPrimary = 3).map (·.address))
  rwa [listed] at all

end Sys2Proof.World

namespace Sys2Proof.World

/-! ## The exchange open at an end of a chain (09 R160, R161) -/

theorem endPort_primaryPort (k : RingId) (via : Reach) :
    endPort (primaryPort k) via = if via = .primary then primaryPort k else secondaryPort k := by
  cases via with
  | primary => rfl
  | secondary => rw [endPort, ringOfPort_primary]; rfl

theorem ringOfPort_endPort (k : RingId) (via : Reach) : ringOfPort (endPort (primaryPort k) via) = k := by
  cases via with
  | primary => exact ringOfPort_primary k
  | secondary =>
    revert k
    decide

theorem endPort_ne_other (k : RingId) (via : Reach) :
    endPort (primaryPort k) via ≠ endPort (primaryPort k) via.other := by
  revert k
  cases via with
  | primary => decide
  | secondary => decide

theorem root_endPort {w : World} {k : RingId} (pair : (w.ring k).state ≠ .linear) (via : Reach) :
    w.root (endPort (primaryPort k) via) = primaryPort k := by
  have joined : paired w.chain k = true := by simpa [paired, World.ring] using pair
  simp [World.root, World.ringAt, ringOfPort_endPort, joined]

theorem exchangeAt_linear {w : World} {p : PortId} {ex : Exchange}
    (linear : (w.ring (ringOfPort p)).state = .linear) (wait : (w.port p).wait = some ex) (via : ex.via = .primary) :
    w.exchangeAt p = some (p, ex) := by
  simp [World.exchangeAt, root_linear linear, wait, via, endPort]

theorem exchangeAt_endPort {w : World} {k : RingId} {ex : Exchange} (pair : (w.ring k).state ≠ .linear)
    (wait : (w.port (primaryPort k)).wait = some ex) :
    w.exchangeAt (endPort (primaryPort k) ex.via) = some (primaryPort k, ex) := by
  simp [World.exchangeAt, root_endPort pair, wait]

/-- The end that was not polled has no exchange open (09 R160). -/
theorem exchangeAt_other {w : World} {k : RingId} {ex : Exchange} (pair : (w.ring k).state ≠ .linear)
    (wait : (w.port (primaryPort k)).wait = some ex) : w.exchangeAt (endPort (primaryPort k) ex.via.other) = none := by
  simp [World.exchangeAt, root_endPort pair, wait, endPort_ne_other k ex.via]

/-! ## An exchange that ends on a RUNNING port -/

/-- The exchange of a port closed, nothing else done. -/
def closeExchange (w : World) (p : PortId) : World :=
  w.updPort p fun x => { x with wait := none }

@[simp] theorem closeExchange_port (w : World) (p : PortId) :
    (w.closeExchange p).port p = { w.port p with wait := none } :=
  port_updPort_self w p _

@[simp] theorem closeExchange_hall (w : World) (p : PortId) : (w.closeExchange p).hall = w.hall := rfl

@[simp] theorem closeExchange_ring (w : World) (p : PortId) (k : RingId) : (w.closeExchange p).ring k = w.ring k := rfl

@[simp] theorem closeExchange_entry (w : World) (p : PortId) (a : Nat) :
    (w.closeExchange p).entry? p a = w.entry? p a :=
  entry_updPort w p a fun _ => rfl

theorem probing_unenrolled {w : World} {p : PortId} (enrol : (w.port p).enrol = none) : w.probing? p = none := by
  simp [World.probing?, enrol]

theorem exchangeEnded_reply {w : World} {p : PortId} (enrol : (w.port p).enrol = none) (ex : Exchange) (r : Reply) :
    w.exchangeEnded p ex (some r) =
      ((((w.closeExchange p).takeReply p ex r).noteTest p ex true).afterPoll p ex).settle p := by
  simp only [World.exchangeEnded, probing_unenrolled enrol]
  rfl

theorem exchangeEnded_miss {w : World} {p : PortId} (enrol : (w.port p).enrol = none) {ex : Exchange}
    (counts : ex.forTest = false) :
    w.exchangeEnded p ex none = (((w.closeExchange p).countMiss p ex).afterPoll p ex).settle p := by
  simp only [World.exchangeEnded, probing_unenrolled enrol, counts]
  rfl

theorem exchangeEnded_testMiss {w : World} {p : PortId} (enrol : (w.port p).enrol = none) {ex : Exchange}
    (test : ex.forTest = true) :
    w.exchangeEnded p ex none = (((w.closeExchange p).testMiss p ex).afterPoll p ex).settle p := by
  simp only [World.exchangeEnded, probing_unenrolled enrol, test]
  rfl

theorem updPort_same {w : World} {p : PortId} {f : PortRec → PortRec} (same : f (w.port p) = w.port p) :
    w.updPort p f = w := by
  have ports : w.chain.ports.upd p f = w.chain.ports := Tbl.set_get _ _ _ same.symm
  simp only [World.updPort, ports]

theorem with_unenrolled {x : PortRec} (enrol : x.enrol = none) : { x with enrol := none } = x := by
  rw [← enrol]

theorem afterPoll_unenrolled {w : World} {p : PortId} (enrol : (w.port p).enrol = none) (ex : Exchange) :
    w.afterPoll p ex = w := by
  refine updPort_same ?_
  simp only [enrol, Option.map_none]
  exact with_unenrolled enrol

theorem settle_running {w : World} {p : PortId} (running : (w.port p).state = .running) :
    w.settle p = w.settleTest p := by
  simp only [World.settle, running]

/-- No ring test ends: none runs, or the one that runs has polls left. -/
def TestGoesOn (w : World) (p : PortId) : Prop :=
  ∀ t, (w.ring (ringOfPort p)).run = some t → (t.next (w.port p).entries).isSome = true

theorem TestGoesOn.of_none {w : World} {p : PortId} (run : (w.ring (ringOfPort p)).run = none) : w.TestGoesOn p := by
  intro t h
  rw [run] at h
  cases h

theorem settleTest_goesOn {w : World} {p : PortId} (on : w.TestGoesOn p) : w.settleTest p = w := by
  unfold World.settleTest
  split
  next t run =>
    have left : (t.next (w.port p).entries).isNone = false := by simpa using on t run
    simp [left]
  · rfl

/-- On a RUNNING port whose ring test goes on nothing is due after an exchange. -/
theorem settled {w : World} {p : PortId} (running : (w.port p).state = .running) (enrol : (w.port p).enrol = none)
    (on : w.TestGoesOn p) (ex : Exchange) : (w.afterPoll p ex).settle p = w := by
  rw [afterPoll_unenrolled enrol, settle_running running, settleTest_goesOn on]

/-! ## A counted miss (09 R163 to R165) -/

/-- The miss counted in the entry polled, nothing else done. -/
def counted (w : World) (p : PortId) (ex : Exchange) : World :=
  w.updEntry p ex.address fun e => e.missed ex.via

/-- The miss counted, and the seat reported when the rule of its chain says so. -/
def judged (w : World) (p : PortId) (ex : Exchange) (due : Bool) : World :=
  if due then (w.counted p ex).reportMissing p ex.address else w.counted p ex

section

variable {w : World} {p : PortId} {ex : Exchange} {e : PollEntry}

theorem counted_entry (entry : w.entry? p ex.address = some e) :
    (w.counted p ex).entry? p ex.address = some (e.missed ex.via) := by
  have keep : ∀ d : PollEntry, (d.missed ex.via).address = d.address := by
    intro d
    cases ex.via <;> rfl
  exact (entry_updEntry w p ex.address _ keep).trans (by rw [entry]; rfl)

theorem judged_course (w : World) (p : PortId) (ex : Exchange) (due : Bool) (q : PortId) :
    (w.judged p ex due).course q = w.course q := by
  unfold judged
  split
  · exact (Course.reportMissing _ p _).trans (Course.updEntry w p _ _)
  · exact Course.updEntry w p _ _

theorem reportMissing_chain (w : World) (p : PortId) (a : Nat) :
    (∀ k, (w.reportMissing p a).ring k = w.ring k) ∧ (w.reportMissing p a).chain.sent = w.chain.sent := by
  unfold World.reportMissing
  split
  · split
    · exact ⟨fun _ => rfl, rfl⟩
    · exact ⟨fun _ => rfl, rfl⟩
  · exact ⟨fun _ => rfl, rfl⟩

theorem judged_chain (w : World) (p : PortId) (ex : Exchange) (due : Bool) :
    (∀ k, (w.judged p ex due).ring k = w.ring k) ∧ (w.judged p ex due).chain.sent = w.chain.sent := by
  unfold judged
  split
  · exact reportMissing_chain _ p _
  · exact ⟨fun _ => rfl, rfl⟩

theorem judged_false (entry : w.entry? p ex.address = some e) :
    (w.judged p ex false).entry? p ex.address = some (e.missed ex.via) ∧ (w.judged p ex false).hall = w.hall :=
  ⟨counted_entry entry, rfl⟩

theorem judged_true (entry : w.entry? p ex.address = some e) :
    (w.judged p ex true).entry? p ex.address = some { e.missed ex.via with reported := true } :=
  entry_reportMissing (counted_entry entry)

/-- A REACHABLE seat that is due and not yet reported is lost (02 R30). -/
theorem judged_loses (entry : w.entry? p ex.address = some e) (unreported : e.reported = false) {q : Seat}
    (held : w.hall.seat? e.seat = some q) (link : q.link = .reachable) :
    (∃ v, (w.judged p ex true).hall.seat? e.seat = some v ∧ v.link = .lostGrace 30) ∧
      (w.judged p ex true).hall.stands (.unitLost q.port) = true := by
  have same : (e.missed ex.via).reported = e.reported ∧ (e.missed ex.via).seat = e.seat := by
    cases ex.via <;> exact ⟨rfl, rfl⟩
  have report := reportMissing_eq (counted_entry entry) (same.1.trans unreported)
  show (∃ v, ((w.counted p ex).reportMissing p ex.address).hall.seat? e.seat = some v ∧ _) ∧
    ((w.counted p ex).reportMissing p ex.address).hall.stands _ = true
  rw [report, onHall_hall, same.2]
  exact Hall.seatMissing_lost w.clock held link

/-- A miss on a RUNNING port: the count with its report, then the loop test or the second try of its chain. -/
theorem countMiss_running (running : (w.port p).state = .running) (entry : w.entry? p ex.address = some e) :
    w.countMiss p ex =
      if w.ringState p = .opened then
        (w.judged p ex (missingRule .running (w.ringState p) (e.missed ex.via))).updPort p fun x =>
          { x with retry := if w.firstEnd p ex then some ex.address else none }
      else (w.judged p ex (missingRule .running (w.ringState p) (e.missed ex.via))).testOnMiss p ex.via := by
  have ruled : ((w.counted p ex).entry? p ex.address).elim false
      (missingRule ((w.counted p ex).port p).state ((w.counted p ex).ringState p)) =
        missingRule .running (w.ringState p) (e.missed ex.via) := by
    have state : ((w.counted p ex).port p).state = .running := (port_of_course (Course.updEntry w p _ _)).1.trans running
    rw [counted_entry entry, Option.elim_some, state]
    rfl
  unfold World.countMiss
  extract_lets g due v
  have dueEq : due = missingRule .running (w.ringState p) (e.missed ex.via) := ruled
  have vEq : v = w.judged p ex due := rfl
  clear_value v
  rw [← dueEq]
  clear_value due
  subst vEq
  have course := judged_course w p ex due p
  have state : ((w.judged p ex due).port p).state = .running := (port_of_course course).1.trans running
  have ring : (w.judged p ex due).ringState p = w.ringState p := (ring_of_course course _).1
  rw [state, ring]
  cases w.ringState p <;> rfl

theorem Course.countMiss {q : PortId} (w : World) (p : PortId) (ex : Exchange) :
    (w.countMiss p ex).course q = w.course q := by
  unfold World.countMiss
  extract_lets g due v
  have course : v.course q = w.course q := judged_course w p ex due q
  clear_value v
  split
  · refine (Course.updPort v p fun x => ?_).trans course
    exact ⟨rfl, rfl, rfl, rfl⟩
  · exact (Course.testOnMiss v p _).trans course

theorem countMiss_linear (running : (w.port p).state = .running) (entry : w.entry? p ex.address = some e)
    (ring : w.ringState p = .linear) :
    w.countMiss p ex = w.judged p ex (decide ((e.missed ex.via).missPrimary = 3)) := by
  rw [countMiss_running running entry, ring]
  have still : ((w.judged p ex (missingRule .running .linear (e.missed ex.via))).ringState p) ≠ .closed := by
    rw [show (w.judged p ex _).ringState p = w.ringState p from (ring_of_course (judged_course w p ex _ p) _).1, ring]
    decide
  simp only [World.testOnMiss, still, and_false, if_false]
  rfl

theorem countMiss_closed (running : (w.port p).state = .running) (entry : w.entry? p ex.address = some e)
    (ring : w.ringState p = .closed) (via : ex.via = .primary) :
    w.countMiss p ex = (w.counted p ex).startLoop (ringOfPort p) := by
  have state : ((w.counted p ex).port p).state = .running := (port_of_course (Course.updEntry w p _ _)).1.trans running
  have closed : (w.counted p ex).ringState p = .closed := ring
  have unjudged : w.judged p ex (missingRule .running .closed (e.missed ex.via)) = w.counted p ex := rfl
  rw [countMiss_running running entry, ring, unjudged, if_neg (by decide), World.testOnMiss,
    if_pos ⟨via, state, closed⟩]

theorem countMiss_opened (running : (w.port p).state = .running) (entry : w.entry? p ex.address = some e)
    (ring : w.ringState p = .opened) :
    w.countMiss p ex =
      (w.judged p ex ((e.missed ex.via).missPrimary = 3 && (e.missed ex.via).missSecondary = 3)).updPort p fun x =>
        { x with retry := if w.firstEnd p ex then some ex.address else none } := by
  rw [countMiss_running running entry, ring]
  rfl

end

/-! ## Loop tests and ring tests (09 R164, R166) -/

/-- A loop test that starts: one is in flight afterwards, with the next number sent unless one was in flight (09 R164). -/
theorem startLoop_spec (w : World) (k : RingId) :
    (w.startLoop k).hall = w.hall ∧ (∀ p, (w.startLoop k).port p = w.port p) ∧
      ((w.startLoop k).ring k).inFlight = true ∧
      ((w.ring k).inFlight = false → ((w.startLoop k).ring k).testNo = (w.ring k).testNo + 1 ∧
        (w.startLoop k).chain.sent.get (primaryPort k) = loopFrame ((w.ring k).testNo + 1)) ∧
      ((w.ring k).inFlight = true → w.startLoop k = w) := by
  cases flight : (w.ring k).inFlight with
  | true =>
    have same : w.startLoop k = w := by simp only [World.startLoop, flight, if_true]
    rw [same]
    exact ⟨rfl, fun _ => rfl, flight, nofun, fun _ => rfl⟩
  | false =>
    have started : w.startLoop k = (w.updRing k fun x => { x with testNo := x.testNo + 1, inFlight := true }).send
        (primaryPort k) (loopFrame ((w.ring k).testNo + 1)) := by
      simp only [World.startLoop, flight, Bool.false_eq_true, if_false]
    rw [started]
    refine ⟨rfl, fun _ => rfl, ?_, fun _ => ⟨?_, ?_⟩, nofun⟩
    · rw [ring_send, ring_updRing_self]
    · rw [ring_send, ring_updRing_self]
    · simp

/-- A ring test's poll recorded in the rows of its address (09 R166). -/
theorem noteTest_run {w : World} {k : RingId} {ex : Exchange} {run : RingRun} (test : ex.forTest = true)
    (runs : (w.ring k).run = some run) (answered : Bool) :
    ((w.noteTest (primaryPort k) ex answered).ring k).run = some { run with
      rows := run.rows.map fun row => if row.address = ex.address then row.note ex.via answered else row } := by
  simp only [World.noteTest, test, if_true, ringOfPort_primary, ring_updRing_self, runs, Option.map_some]

theorem noteTest_rest (w : World) (p : PortId) (ex : Exchange) (answered : Bool) :
    (w.noteTest p ex answered).hall = w.hall ∧ (∀ q, (w.noteTest p ex answered).port q = w.port q) ∧
      ∀ k, ((w.noteTest p ex answered).ring k).state = (w.ring k).state := by
  unfold World.noteTest
  split
  · refine ⟨rfl, fun _ => rfl, fun k => ?_⟩
    rw [ring_updRing]
    split
    next same => rw [same]
    · rfl
  · exact ⟨rfl, fun _ => rfl, fun _ => rfl⟩

theorem noteTest_untested (w : World) (p : PortId) {ex : Exchange} (test : ex.forTest = false) (answered : Bool) :
    w.noteTest p ex answered = w := by
  simp only [World.noteTest, test, Bool.false_eq_true, if_false]

/-- A ring test goes on while a seat with a poll entry has not been polled from the secondary end (09 R166). -/
theorem testGoesOn_of_row {w : World} {p : PortId} {t : RingRun} {row : RingTestRow} {e : PollEntry}
    (runs : (w.ring (ringOfPort p)).run = some t) (listed : row ∈ t.rows) (polled : e ∈ (w.port p).entries)
    (address : row.address = e.address) (seat : row.seat = e.seat) (left : row.viaSecondary = none) :
    w.TestGoesOn p := by
  intro t' runs'
  obtain rfl : t = t' := Option.some.inj (runs.symm.trans runs')
  have found : ((w.port p).entries.any fun d => d.address = row.address && d.seat = row.seat) = true :=
    List.any_eq_true.mpr ⟨e, polled, by simp [address, seat]⟩
  refine List.findSome?_isSome_iff.mpr ⟨row, listed, ?_⟩
  simp only [found, if_true, left, Option.isNone_none]
  split <;> rfl

/-- The row of a ring test polled from the primary end still waits for the secondary one. -/
theorem noteTest_goesOn {w : World} {k : RingId} {run : RingRun} {row : RingTestRow} {a : Nat} {e d : PollEntry}
    (runs : (w.ring k).run = some run) (listed : row ∈ run.rows) (at_ : row.address = a) (seat : row.seat = e.seat)
    (left : row.viaSecondary = none) (answered : Bool) (polled : w.entry? (primaryPort k) a = some d)
    (same : d.seat = e.seat) : (w.noteTest (primaryPort k) ⟨a, .primary, true⟩ answered).TestGoesOn (primaryPort k) := by
  have run' := noteTest_run (ex := ⟨a, .primary, true⟩) rfl runs answered
  have address : d.address = a := by simpa using List.find?_some polled
  refine testGoesOn_of_row (row := row.note .primary answered) (e := d) (by rw [ringOfPort_primary]; exact run') ?_ ?_
    (at_.trans address.symm) (seat.trans same.symm) left
  · exact List.mem_map.mpr ⟨row, listed, if_pos at_⟩
  · rw [(noteTest_rest w _ _ answered).2.1]
    exact List.mem_of_find?_eq_some polled

end Sys2Proof.World

namespace Sys2Proof.World

/-! ## A window that closes on a RUNNING port -/

/-- A RUNNING port without an enrolment, where an exchange polls the seat of an entry. -/
structure Polls (w : World) (p : PortId) (ex : Exchange) (e : PollEntry) : Prop where
  running : (w.port p).state = .running
  unenrolled : (w.port p).enrol = none
  entry : w.entry? p ex.address = some e

/-- A miss leaves the port without an open exchange. -/
theorem countMiss_wait (w : World) (p : PortId) (ex : Exchange) :
    (((w.closeExchange p).countMiss p ex).port p).wait = none := by
  obtain ⟨-, -, wait, -⟩ := port_of_course (Course.countMiss (q := p) (w.closeExchange p) p ex)
  rw [wait, closeExchange_port]

namespace Polls

variable {w : World} {p port : PortId} {ex : Exchange} {e : PollEntry}

theorem closed (h : w.Polls p ex e) : (w.closeExchange p).Polls p ex e :=
  ⟨by rw [closeExchange_port]; exact h.running, by rw [closeExchange_port]; exact h.unenrolled,
    (closeExchange_entry w p _).trans h.entry⟩

/-- Outside a ring test a window that closes counts a miss, and nothing more is due. -/
theorem windowCloses (h : w.Polls p ex e) (open_ : w.exchangeAt port = some (p, ex)) (counts : ex.forTest = false)
    (untested : (w.ring (ringOfPort p)).run = none) :
    w.windowCloses port = (w.closeExchange p).countMiss p ex := by
  have course := Course.countMiss (q := p) (w.closeExchange p) p ex
  obtain ⟨state, enrol, -⟩ := port_of_course course
  simp only [World.windowCloses, open_, exchangeEnded_miss h.unenrolled counts]
  exact settled (state.trans h.closed.running) (enrol.trans h.closed.unenrolled)
    (.of_none ((ring_of_course course _).2.trans untested)) ex

/-- A miss on a RING_CLOSED ring: counted, the hall left, a loop test in flight (09 R164). -/
theorem countMiss_closed_spec (h : w.Polls p ex e) (ring : w.ringState p = .closed) (via : ex.via = .primary) :
    (w.countMiss p ex).entry? p ex.address = some (e.missed .primary) ∧ (w.countMiss p ex).hall = w.hall ∧
      ((w.countMiss p ex).ring (ringOfPort p)).inFlight = true ∧
      ((w.ring (ringOfPort p)).inFlight = false →
        ((w.countMiss p ex).ring (ringOfPort p)).testNo = (w.ring (ringOfPort p)).testNo + 1 ∧
        (w.countMiss p ex).chain.sent.get (primaryPort (ringOfPort p)) =
          loopFrame ((w.ring (ringOfPort p)).testNo + 1)) ∧
      ((w.ring (ringOfPort p)).inFlight = true →
        ((w.countMiss p ex).ring (ringOfPort p)).testNo = (w.ring (ringOfPort p)).testNo ∧
        (w.countMiss p ex).chain.sent = w.chain.sent) := by
  rw [countMiss_closed h.running h.entry ring via]
  obtain ⟨hall, ports, flight, starts, stays⟩ := startLoop_spec (w.counted p ex) (ringOfPort p)
  have entry := counted_entry h.entry
  rw [via] at entry
  refine ⟨?_, hall, flight, starts, fun inFlight => ?_⟩
  · rw [← entry]
    simp only [World.entry?, ports]
  · rw [stays inFlight]
    exact ⟨rfl, rfl⟩

/-- A miss on a RING_OPEN ring: counted at the end polled, a second try asked for after the first one, and the seat lost
when both counts are 3 (09 R163, R165). -/
theorem countMiss_opened_spec (h : w.Polls p ex e) (ring : w.ringState p = .opened) {q : Seat}
    (held : w.hall.seat? e.seat = some q) :
    ((w.countMiss p ex).port p).retry = (if q.reach = ex.via then some ex.address else none) ∧
      (∀ k, (w.countMiss p ex).ring k = w.ring k) ∧ (w.countMiss p ex).chain.sent = w.chain.sent ∧
      ((e.missed ex.via).missPrimary < 3 ∨ (e.missed ex.via).missSecondary < 3 →
        (w.countMiss p ex).entry? p ex.address = some (e.missed ex.via) ∧ (w.countMiss p ex).hall = w.hall) ∧
      ((e.missed ex.via).missPrimary = 3 → (e.missed ex.via).missSecondary = 3 → e.reported = false →
        q.link = .reachable →
        (w.countMiss p ex).entry? p ex.address = some { e.missed ex.via with reported := true } ∧
        (w.countMiss p ex).hall.stands (.unitLost q.port) = true ∧
        ∃ v, (w.countMiss p ex).hall.seat? e.seat = some v ∧ v.link = .lostGrace 30) := by
  have first : w.firstEnd p ex = decide (q.reach = ex.via) := by
    simp only [World.firstEnd, h.entry, Option.bind_some, held, Option.elim_some]
  rw [countMiss_opened h.running h.entry ring, first]
  obtain ⟨rings, sent⟩ := judged_chain w p ex
    ((e.missed ex.via).missPrimary = 3 && (e.missed ex.via).missSecondary = 3)
  refine ⟨?_, rings, sent, fun few => ?_, fun three third unreported link => ?_⟩
  · rw [port_updPort_self]
    simp only [decide_eq_true_eq]
  · have undue : (decide ((e.missed ex.via).missPrimary = 3) && decide ((e.missed ex.via).missSecondary = 3)) =
        false := by
      rw [Bool.and_eq_false_iff, decide_eq_false_iff_not, decide_eq_false_iff_not]
      omega
    rw [undue, entry_updPort]
    · exact judged_false h.entry
    · exact fun _ => rfl
  · have due : (decide ((e.missed ex.via).missPrimary = 3) && decide ((e.missed ex.via).missSecondary = 3)) =
        true := by
      simp [three, third]
    obtain ⟨lost, raised⟩ := judged_loses h.entry unreported held link
    rw [due, entry_updPort]
    · exact ⟨judged_true h.entry, raised, lost⟩
    · exact fun _ => rfl

end Polls

end Sys2Proof.World

namespace Sys2Proof.Machine

/-! ## A miss (09 R163 to R166) -/

theorem exec_pollMiss_nil (p : PortId) (s : State) :
    exec (.pollMiss p []) s = .next (s.after (s.world.windowCloses p)) := rfl

/-- The miss of a port that is no part of a ring: counted, and due at the third (09 R163). -/
theorem exec_pollMiss_linear {p : PortId} {e : PollEntry} {s : State}
    (linear : (s.world.ring (ringOfPort p)).state = .linear) (untested : (s.world.ring (ringOfPort p)).run = none)
    (polls : s.world.Polls p ⟨e.address, .primary, false⟩ e)
    (wait : (s.world.port p).wait = some ⟨e.address, .primary, false⟩) :
    exec (.pollMiss p []) s = .next (s.after ((s.world.closeExchange p).judged p ⟨e.address, .primary, false⟩
      (decide (min (e.missPrimary + 1) 3 = 3)))) := by
  rw [exec_pollMiss_nil, polls.windowCloses (World.exchangeAt_linear linear wait rfl) rfl untested,
    World.countMiss_linear polls.closed.running polls.closed.entry linear]
  rfl

/-- The first part of O54: a port that is no part of a ring (09 R163, 02 R30). -/
theorem miss_linear {p : PortId} {e : PollEntry} {s : State}
    (linear : (s.world.ring (ringOfPort p)).state = .linear) (untested : (s.world.ring (ringOfPort p)).run = none)
    (polls : s.world.Polls p ⟨e.address, .primary, false⟩ e)
    (wait : (s.world.port p).wait = some ⟨e.address, .primary, false⟩) :
    (e.missPrimary < 2 → ∃ t, exec (.pollMiss p []) s = .next t ∧
      t.world.entry? p e.address = some { e with missPrimary := e.missPrimary + 1 } ∧ t.world.hall = s.world.hall) ∧
    ∀ q : Seat, e.missPrimary = 2 → e.reported = false → s.world.hall.seat? e.seat = some q → q.link = .reachable →
      ∃ t v, exec (.pollMiss p []) s = .next t ∧
        t.world.entry? p e.address = some { e with missPrimary := 3, reported := true } ∧
        t.world.hall.seat? e.seat = some v ∧ v.link = .lostGrace 30 ∧ t.world.hall.stands (.unitLost q.port) = true := by
  have taken := exec_pollMiss_linear linear untested polls wait
  refine ⟨fun few => ?_, fun q third unreported held link => ?_⟩
  · have count : min (e.missPrimary + 1) 3 = e.missPrimary + 1 := by omega
    have below : decide (min (e.missPrimary + 1) 3 = 3) = false := by
      rw [decide_eq_false_iff_not]
      omega
    rw [below] at taken
    obtain ⟨entry, hall⟩ := World.judged_false polls.closed.entry
    refine ⟨_, taken, entry.trans ?_, hall⟩
    show some { e with missPrimary := min (e.missPrimary + 1) 3 } = _
    rw [count]
  · have due : decide (min (e.missPrimary + 1) 3 = 3) = true := by
      rw [third]
      rfl
    rw [due] at taken
    obtain ⟨⟨v, hv, lost⟩, raised⟩ := World.judged_loses polls.closed.entry unreported held link
    refine ⟨_, v, taken, (World.judged_true polls.closed.entry).trans ?_, hv, lost, raised⟩
    show some { e with missPrimary := min (e.missPrimary + 1) 3, reported := true } = _
    rw [third]
    rfl

/-- The second part of O54: a RING_CLOSED ring, where the miss starts a loop test (09 R164). -/
theorem miss_closed {k : RingId} {e : PollEntry} {s : State} (ring : (s.world.ring k).state = .closed)
    (untested : (s.world.ring k).run = none) (polls : s.world.Polls (primaryPort k) ⟨e.address, .primary, false⟩ e)
    (wait : (s.world.port (primaryPort k)).wait = some ⟨e.address, .primary, false⟩) :
    ∃ t, exec (.pollMiss (primaryPort k) []) s = .next t ∧ (t.world.port (primaryPort k)).wait = none ∧
      t.world.entry? (primaryPort k) e.address = some { e with missPrimary := min (e.missPrimary + 1) 3 } ∧
      t.world.hall = s.world.hall ∧ (t.world.ring k).inFlight = true ∧
      ((s.world.ring k).inFlight = false → (t.world.ring k).testNo = (s.world.ring k).testNo + 1 ∧
        t.world.chain.sent.get (primaryPort k) = loopFrame ((s.world.ring k).testNo + 1)) ∧
      ((s.world.ring k).inFlight = true → (t.world.ring k).testNo = (s.world.ring k).testNo ∧
        t.world.chain.sent = s.world.chain.sent) := by
  have pair : (s.world.ring k).state ≠ .linear := by rw [ring]; decide
  have atPrimary : s.world.exchangeAt (primaryPort k) = some (primaryPort k, ⟨e.address, .primary, false⟩) :=
    World.exchangeAt_endPort (ex := ⟨e.address, .primary, false⟩) pair wait
  have step := exec_pollMiss_nil (primaryPort k) s
  rw [polls.windowCloses atPrimary rfl (by rw [World.ringOfPort_primary]; exact untested)] at step
  have spec := polls.closed.countMiss_closed_spec (by rw [World.ringState, World.ringOfPort_primary]; exact ring) rfl
  simp only [World.ringOfPort_primary, World.closeExchange_ring, World.closeExchange_hall] at spec
  obtain ⟨entry, hall, flight, starts, stays⟩ := spec
  exact ⟨_, step, World.countMiss_wait s.world _ _, entry, hall, flight, starts, stays⟩

/-- The fourth part of O54: a RING_OPEN ring, where the end polled counts and the first miss asks for a second try
(09 R163, R165). -/
theorem miss_opened {k : RingId} {via : Reach} {e m : PollEntry} {q : Seat} {s : State}
    (ring : (s.world.ring k).state = .opened) (untested : (s.world.ring k).run = none)
    (polls : s.world.Polls (primaryPort k) ⟨e.address, via, false⟩ e)
    (wait : (s.world.port (primaryPort k)).wait = some ⟨e.address, via, false⟩)
    (held : s.world.hall.seat? e.seat = some q) (missed : e.missed via = m) :
    ∃ t, exec (.pollMiss (endPort (primaryPort k) via) []) s = .next t ∧
      (t.world.port (primaryPort k)).wait = none ∧
      (t.world.port (primaryPort k)).retry = (if q.reach = via then some e.address else none) ∧
      (t.world.ring k).inFlight = (s.world.ring k).inFlight ∧ t.world.chain.sent = s.world.chain.sent ∧
      ((m.missPrimary < 3 ∨ m.missSecondary < 3) →
        t.world.entry? (primaryPort k) e.address = some m ∧ t.world.hall = s.world.hall) ∧
      (m.missPrimary = 3 → m.missSecondary = 3 → e.reported = false → q.link = .reachable →
        t.world.entry? (primaryPort k) e.address = some { m with reported := true } ∧
        t.world.hall.stands (.unitLost q.port) = true ∧
        ∃ v, t.world.hall.seat? e.seat = some v ∧ v.link = .lostGrace 30) := by
  subst missed
  have pair : (s.world.ring k).state ≠ .linear := by rw [ring]; decide
  have step := exec_pollMiss_nil (endPort (primaryPort k) via) s
  rw [polls.windowCloses (World.exchangeAt_endPort pair wait) rfl
    (by rw [World.ringOfPort_primary]; exact untested)] at step
  obtain ⟨retry, rings, sent, few, both⟩ := polls.closed.countMiss_opened_spec
    (by rw [World.ringState, World.ringOfPort_primary]; exact ring) held
  exact ⟨_, step, World.countMiss_wait s.world _ _, retry, congrArg RingRec.inFlight (rings k), sent, few, both⟩

end Sys2Proof.Machine

namespace Sys2Proof.World

/-! ## A passed loop test on a RING_CLOSED ring (09 R165) -/

theorem afterLoop_running {w : World} {p : PortId} (running : (w.port p).state = .running)
    (enrol : (w.port p).enrol = none) (pending : (w.port p).releasePending = false) (on : w.TestGoesOn p)
    (passed : Bool) : w.afterLoop p passed = w := by
  simp only [World.afterLoop, pending, PortRec.stage?, enrol, Option.map_none]
  exact (settle_running running).trans (settleTest_goesOn on)

/-- A loop test that a miss starts leaves the hall, the ports and the ring tests (09 R164). -/
theorem testOnMiss_spec (w : World) (p : PortId) (via : Reach) :
    (w.testOnMiss p via).hall = w.hall ∧ (∀ q, (w.testOnMiss p via).port q = w.port q) ∧
      (via = .primary → (w.port p).state = .running → w.ringState p = .closed →
        ((w.testOnMiss p via).ring (ringOfPort p)).inFlight = true) := by
  obtain ⟨hall, ports, flight, -⟩ := startLoop_spec w (ringOfPort p)
  unfold World.testOnMiss
  split
  · exact ⟨hall, ports, fun _ _ _ => flight⟩
  next no => exact ⟨rfl, fun _ => rfl, fun primary running closed => absurd ⟨primary, running, closed⟩ no⟩

theorem TestGoesOn.of_same {w v : World} {p : PortId} (on : w.TestGoesOn p)
    (run : (v.ring (ringOfPort p)).run = (w.ring (ringOfPort p)).run) (port : v.port p = w.port p) :
    v.TestGoesOn p := by
  intro t runs
  rw [port]
  exact on t (run.symm.trans runs)

/-- The window of a ring test's poll closes: the miss noted, a loop test started where one is due, nothing more. -/
theorem Polls.windowCloses_test {w : World} {p port : PortId} {ex : Exchange} {e : PollEntry} (h : w.Polls p ex e)
    (open_ : w.exchangeAt port = some (p, ex)) (test : ex.forTest = true)
    (on : ((w.closeExchange p).noteTest p ex false).TestGoesOn p) :
    w.windowCloses port = (w.closeExchange p).testMiss p ex := by
  obtain ⟨-, noted, -⟩ := noteTest_rest (w.closeExchange p) p ex false
  obtain ⟨-, ports, -⟩ := testOnMiss_spec ((w.closeExchange p).noteTest p ex false) p ex.via
  have run := (ring_of_course (Course.testOnMiss (p := p) ((w.closeExchange p).noteTest p ex false) p ex.via)
    (ringOfPort p)).2
  have portEq : ((w.closeExchange p).testMiss p ex).port p = (w.closeExchange p).port p := (ports p).trans (noted p)
  simp only [World.windowCloses, open_, exchangeEnded_testMiss h.unenrolled test]
  exact settled ((congrArg PortRec.state portEq).trans h.closed.running)
    ((congrArg PortRec.enrol portEq).trans h.closed.unenrolled) (on.of_same run (ports p)) ex

/-- A result recorded leaves ports, hall and ring states, and a ring without a ring test stays without one. -/
theorem recordLoop_rest (w : World) (k : RingId) (passed : Bool) :
    (w.recordLoop k passed).hall = w.hall ∧ (∀ p, (w.recordLoop k passed).port p = w.port p) ∧
      ((w.recordLoop k passed).ring k).state = (w.ring k).state ∧
      ((w.ring k).run = none → ((w.recordLoop k passed).ring k).run = none) := by
  refine ⟨rfl, fun _ => rfl, ?_, fun run => ?_⟩
  · rw [World.recordLoop, ring_updRing_self]
  · rw [World.recordLoop, ring_updRing_self, run]
    rfl

/-- A passed test in RING_CLOSED reports the seats that count 3, sets the periodic timer, and nothing more is due. -/
theorem loopEnded_closed {w : World} {k : RingId} (flight : (w.ring k).inFlight = true)
    (ring : (w.ring k).state = .closed) (untested : (w.ring k).run = none)
    (running : (w.port (primaryPort k)).state = .running) (enrol : (w.port (primaryPort k)).enrol = none)
    (pending : (w.port (primaryPort k)).releasePending = false) :
    w.loopEnded k true = ((w.recordLoop k true).reportCounted (primaryPort k)).setPeriodic k := by
  obtain ⟨-, ports, state, run⟩ := recordLoop_rest w k true
  have result : (w.recordLoop k true).loopResult k true = (w.recordLoop k true).reportCounted (primaryPort k) := by
    simp only [World.loopResult, state.trans ring]
  have course : (((w.recordLoop k true).reportCounted (primaryPort k)).setPeriodic k).course (primaryPort k) =
      (w.recordLoop k true).course (primaryPort k) := by
    refine (Course.updRing _ k fun x => ?_).trans (Course.reportCounted _ _)
    exact ⟨rfl, rfl⟩
  obtain ⟨stateEq, enrolEq, -, pendingEq⟩ := port_of_course course
  rw [ports] at stateEq enrolEq pendingEq
  have goesOn : (((w.recordLoop k true).reportCounted (primaryPort k)).setPeriodic k).TestGoesOn (primaryPort k) :=
    .of_none (by rw [ringOfPort_primary]; exact (ring_of_course course k).2.trans (run untested))
  simp only [World.loopEnded, flight, if_true, result]
  exact afterLoop_running (stateEq.trans running) (enrolEq.trans enrol) (pendingEq.trans pending) goesOn true

end Sys2Proof.World

namespace Sys2Proof.Machine

theorem exec_loopArrival_due (k : RingId) (s : State) :
    exec (.loopArrival k (s.world.ring k).testNo) s = .next (s.after (s.world.loopEnded k true)) := by
  show execLoopArrival k _ s = _
  unfold execLoopArrival
  rw [event_next, if_pos rfl]

/-- The third part of O54: a seat that counts 3 is reported by a passed test in RING_CLOSED (09 R165). -/
theorem loop_reports {k : RingId} {e : PollEntry} {q : Seat} {s : State} (ring : (s.world.ring k).state = .closed)
    (flight : (s.world.ring k).inFlight = true) (untested : (s.world.ring k).run = none)
    (running : (s.world.port (primaryPort k)).state = .running)
    (enrol : (s.world.port (primaryPort k)).enrol = none)
    (pending : (s.world.port (primaryPort k)).releasePending = false)
    (entry : s.world.entry? (primaryPort k) e.address = some e) (count : e.missPrimary = 3)
    (unreported : e.reported = false) (held : s.world.hall.seat? e.seat = some q) (link : q.link = .reachable) :
    ∃ t v, exec (.loopArrival k (s.world.ring k).testNo) s = .next t ∧
      t.world.entry? (primaryPort k) e.address = some { e with reported := true } ∧
      t.world.hall.seat? e.seat = some v ∧ v.link = .lostGrace 30 ∧ t.world.hall.stands (.unitLost q.port) = true := by
  have step := exec_loopArrival_due k s
  rw [World.loopEnded_closed flight ring untested running enrol pending] at step
  obtain ⟨hall, ports, -, -⟩ := World.recordLoop_rest s.world k true
  have lost := World.reportCounted_loses (w := s.world.recordLoop k true) (by rw [World.entry?, ports]; exact entry)
    count unreported (by rw [hall]; exact held) link
  obtain ⟨v, hv, ⟨grace, stands⟩ | ⟨never, -⟩⟩ := lost.seat
  · exact ⟨_, v, step, lost.entry, hv, grace, stands⟩
  · cases never

/-- The last part of O54: a miss of a ring test's poll (09 R164, R166). -/
theorem miss_tested {k : RingId} {e : PollEntry} {run : RingRun} {pre post : List RingTestRow} {row : RingTestRow}
    {s : State} (pair : (s.world.ring k).state ≠ .linear) (runs : (s.world.ring k).run = some run)
    (rows : run.rows = pre ++ row :: post) (address : row.address = e.address) (seat : row.seat = e.seat)
    (left : row.viaSecondary = none) (polls : s.world.Polls (primaryPort k) ⟨e.address, .primary, true⟩ e)
    (wait : (s.world.port (primaryPort k)).wait = some ⟨e.address, .primary, true⟩) :
    ∃ t, exec (.pollMiss (primaryPort k) []) s = .next t ∧ (t.world.port (primaryPort k)).wait = none ∧
      (t.world.ring k).run = some { run with
        rows := run.rows.map fun x => if x.address = e.address then { x with viaPrimary := some false } else x } ∧
      (t.world.port (primaryPort k)).entries = (s.world.port (primaryPort k)).entries ∧
      t.world.hall = s.world.hall ∧ ((s.world.ring k).state = .closed → (t.world.ring k).inFlight = true) := by
  have atPrimary : s.world.exchangeAt (primaryPort k) = some (primaryPort k, ⟨e.address, .primary, true⟩) :=
    World.exchangeAt_endPort (ex := ⟨e.address, .primary, true⟩) pair wait
  have noted := World.noteTest_run (w := s.world.closeExchange (primaryPort k)) (ex := ⟨e.address, .primary, true⟩) rfl
    runs false
  have goesOn := World.noteTest_goesOn (w := s.world.closeExchange (primaryPort k)) runs
    (by rw [rows]; simp) address seat left false polls.closed.entry rfl
  have step := exec_pollMiss_nil (primaryPort k) s
  rw [polls.windowCloses_test atPrimary rfl goesOn, World.testMiss] at step
  obtain ⟨hall, ports, states⟩ := World.noteTest_rest (s.world.closeExchange (primaryPort k)) (primaryPort k)
    ⟨e.address, .primary, true⟩ false
  generalize (s.world.closeExchange (primaryPort k)).noteTest (primaryPort k) ⟨e.address, .primary, true⟩ false = v
    at step noted goesOn hall ports states
  obtain ⟨hallEq, portsEq, flight⟩ := World.testOnMiss_spec v (primaryPort k) .primary
  have portEq : (v.testOnMiss (primaryPort k) .primary).port (primaryPort k) =
      { s.world.port (primaryPort k) with wait := none } :=
    (portsEq _).trans ((ports _).trans (World.closeExchange_port _ _))
  have run := (World.ring_of_course (World.Course.testOnMiss (p := primaryPort k) v (primaryPort k) .primary) k).2
  refine ⟨_, step, congrArg PortRec.wait portEq, run.trans noted, (congrArg PortRec.entries portEq :), hallEq.trans hall,
    fun closed => ?_⟩
  rw [World.ringState, World.ringOfPort_primary] at flight
  exact flight rfl (by rw [ports]; exact polls.closed.running) ((states k).trans closed)

/-- Settles O54: the misses of the four chains, and the report after a passed loop test. -/
theorem missIsCounted : Obligations.MissIsCounted := by
  refine ⟨fun p e s linear untested running enrol wait entry => miss_linear linear untested ⟨running, enrol, entry⟩ wait,
    fun k e s ring untested running enrol wait entry => miss_closed ring untested ⟨running, enrol, entry⟩ wait,
    fun k e q s ring flight untested running enrol pending entry count unreported held link =>
      loop_reports ring flight untested running enrol pending entry count unreported held link,
    fun k via e m q s ring untested running enrol wait entry held missed => ?_,
    fun k e run pre post row s pair runs rows address seat left running enrol wait entry =>
      miss_tested pair runs rows address seat left ⟨running, enrol, entry⟩ wait⟩
  rw [← World.endPort_primaryPort]
  refine miss_opened ring untested ⟨running, enrol, entry⟩ wait held ?_
  rw [missed]
  cases via <;> rfl

end Sys2Proof.Machine

namespace Sys2Proof.World

/-! ## An accepted REPLY (09 R161, R162) -/

/-- A poll entry once its seat has answered: counts 0, missing reported no, the reply's bit taken. -/
def answeredEntry (e : PollEntry) (bit : Bool) : PollEntry :=
  { e with missPrimary := 0, missSecondary := 0, reported := false, lastBit := bit }

/-- A REPLY of the unit kind polled, with at most four key events and the address polled, is accepted (09 R161). -/
theorem Polls.accepts {w : World} {p : PortId} {ex : Exchange} {e : PollEntry} (h : w.Polls p ex e) {q : Seat}
    {r : Reply} (held : w.hall.seat? e.seat = some q) (kind : q.kind = r.kind) (fits : r.events.length ≤ 4)
    (address : r.address.toNat = ex.address) : w.accepts p ex r = true := by
  simp [World.accepts, replyFits, fits, address, h.entry, held, kind]

/-- The reply taken: the entry and the hall answered, the rest of the chain records left (09 R162). -/
theorem takeReply_spec {w : World} {p : PortId} {ex : Exchange} {e : PollEntry} (entry : w.entry? p ex.address = some e)
    (r : Reply) :
    (w.takeReply p ex r).entry? p ex.address = some (answeredEntry e r.seqBit) ∧
      (w.takeReply p ex r).hall = w.hall.seatAnswered w.clock e.seat ex.via r.slot r.badge
        (if r.seqBit = e.lastBit then [] else r.events) ∧
      (w.takeReply p ex r).course p = w.course p ∧ ∀ k, (w.takeReply p ex r).ring k = w.ring k := by
  have taken : w.takeReply p ex r = (w.updEntry p ex.address fun x => answeredEntry x r.seqBit).onHall fun h =>
      h.seatAnswered w.clock e.seat ex.via r.slot r.badge (if r.seqBit = e.lastBit then [] else r.events) := by
    simp only [World.takeReply, entry]
    rfl
  rw [taken]
  refine ⟨?_, rfl, Course.updEntry w p _ _, fun _ => rfl⟩
  rw [entry_onHall, entry_updEntry, entry, Option.map_some]
  exact fun _ => rfl

namespace Polls

variable {w : World} {p port : PortId} {ex : Exchange} {e : PollEntry} {r : Reply}

/-- An accepted reply is taken and noted, and nothing more is due while no ring test ends. -/
theorem replyArrives (h : w.Polls p ex e) (open_ : w.exchangeAt port = some (p, ex)) (ok : w.accepts p ex r = true)
    (on : (((w.closeExchange p).takeReply p ex r).noteTest p ex true).TestGoesOn p) :
    w.replyArrives port r = ((w.closeExchange p).takeReply p ex r).noteTest p ex true := by
  obtain ⟨-, -, course, -⟩ := takeReply_spec h.closed.entry r
  obtain ⟨state, enrol, -⟩ := port_of_course course
  obtain ⟨-, ports, -⟩ := noteTest_rest ((w.closeExchange p).takeReply p ex r) p ex true
  simp only [World.replyArrives, open_, ok, if_true, exchangeEnded_reply h.unenrolled]
  exact settled (by rw [ports]; exact state.trans h.closed.running)
    (by rw [ports]; exact enrol.trans h.closed.unenrolled) on ex

/-- Outside a ring test an accepted reply is taken and nothing more is due. -/
theorem replyArrives_untested (h : w.Polls p ex e) (open_ : w.exchangeAt port = some (p, ex))
    (ok : w.accepts p ex r = true) (counts : ex.forTest = false)
    (untested : (w.ring (ringOfPort p)).run = none) : w.replyArrives port r = (w.closeExchange p).takeReply p ex r := by
  obtain ⟨-, -, -, rings⟩ := takeReply_spec h.closed.entry r
  have note := noteTest_untested ((w.closeExchange p).takeReply p ex r) p counts true
  rw [h.replyArrives open_ ok, note]
  rw [note]
  exact .of_none (by rw [rings]; exact untested)

/-- What an accepted reply leaves at its port and in the hall. -/
theorem reply_taken (h : w.Polls p ex e) (r : Reply) :
    (((w.closeExchange p).takeReply p ex r).port p).wait = none ∧
      ((w.closeExchange p).takeReply p ex r).entry? p ex.address = some (answeredEntry e r.seqBit) ∧
      ((w.closeExchange p).takeReply p ex r).hall = w.hall.seatAnswered w.clock e.seat ex.via r.slot r.badge
        (if r.seqBit = e.lastBit then [] else r.events) := by
  obtain ⟨entry, hall, course, -⟩ := takeReply_spec h.closed.entry r
  obtain ⟨-, -, wait, -⟩ := port_of_course course
  exact ⟨by rw [wait, closeExchange_port], entry, hall⟩

end Polls

end Sys2Proof.World

namespace Sys2Proof.Machine

theorem exec_reply (p : PortId) (r : Reply) (s : State) :
    exec (.reply p r) s = .next (s.after (s.world.replyArrives p r)) := rfl

/-- A REPLY at an end without an open exchange is disregarded (09 R160). -/
theorem exec_reply_unpolled {p : PortId} {s : State} (none_ : s.world.exchangeAt p = none) (r : Reply) :
    exec (.reply p r) s = .next (s.after s.world) := by
  rw [exec_reply]
  simp only [World.replyArrives, none_]

/-- The first two parts of O53: an accepted REPLY outside a ring test (09 R161, R162). -/
theorem reply_accepted {p port : PortId} {via : Reach} {e : PollEntry} {q : Seat} {r : Reply} {s : State}
    (polls : s.world.Polls p ⟨e.address, via, false⟩ e)
    (open_ : s.world.exchangeAt port = some (p, ⟨e.address, via, false⟩))
    (untested : (s.world.ring (ringOfPort p)).run = none) (held : s.world.hall.seat? e.seat = some q)
    (kind : q.kind = r.kind) (fits : r.events.length ≤ 4) (address : r.address.toNat = e.address) :
    ∃ t, exec (.reply port r) s = .next t ∧ (t.world.port p).wait = none ∧
      t.world.entry? p e.address = some (World.answeredEntry e r.seqBit) ∧
      t.world.hall = s.world.hall.seatAnswered s.world.clock e.seat via r.slot r.badge
        (if r.seqBit = e.lastBit then [] else r.events) := by
  have step := exec_reply port r s
  rw [polls.replyArrives_untested open_ (polls.accepts held kind fits address) rfl untested] at step
  exact ⟨_, step, polls.reply_taken r⟩

/-- The third part of O53: an accepted REPLY to a ring test's poll (09 R166). -/
theorem reply_tested {k : RingId} {e : PollEntry} {q : Seat} {r : Reply} {run : RingRun} {pre post : List RingTestRow}
    {row : RingTestRow} {s : State} (pair : (s.world.ring k).state ≠ .linear) (runs : (s.world.ring k).run = some run)
    (rows : run.rows = pre ++ row :: post) (at_ : row.address = e.address) (seat : row.seat = e.seat)
    (left : row.viaSecondary = none) (polls : s.world.Polls (primaryPort k) ⟨e.address, .primary, true⟩ e)
    (wait : (s.world.port (primaryPort k)).wait = some ⟨e.address, .primary, true⟩)
    (held : s.world.hall.seat? e.seat = some q) (kind : q.kind = r.kind) (fits : r.events.length ≤ 4)
    (address : r.address.toNat = e.address) :
    ∃ t, exec (.reply (primaryPort k) r) s = .next t ∧ (t.world.port (primaryPort k)).wait = none ∧
      (t.world.ring k).run = some { run with
        rows := run.rows.map fun x => if x.address = e.address then { x with viaPrimary := some true } else x } ∧
      t.world.hall = s.world.hall.seatAnswered s.world.clock e.seat .primary r.slot r.badge
        (if r.seqBit = e.lastBit then [] else r.events) := by
  have atPrimary : s.world.exchangeAt (primaryPort k) = some (primaryPort k, ⟨e.address, .primary, true⟩) :=
    World.exchangeAt_endPort (ex := ⟨e.address, .primary, true⟩) pair wait
  obtain ⟨waits, entry, hall⟩ := polls.reply_taken r
  obtain ⟨-, -, -, rings⟩ := World.takeReply_spec polls.closed.entry r
  have runs' := (congrArg RingRec.run (rings k)).trans runs
  have goesOn := World.noteTest_goesOn runs' (by rw [rows]; simp) at_ seat left true entry rfl
  have noted := World.noteTest_run (ex := ⟨e.address, .primary, true⟩) rfl runs' true
  obtain ⟨halls, ports, -⟩ := World.noteTest_rest ((s.world.closeExchange (primaryPort k)).takeReply (primaryPort k)
    ⟨e.address, .primary, true⟩ r) (primaryPort k) ⟨e.address, .primary, true⟩ true
  have step := exec_reply (primaryPort k) r s
  rw [polls.replyArrives atPrimary (polls.accepts held kind fits address) goesOn] at step
  exact ⟨_, step, (congrArg PortRec.wait (ports _)).trans waits, noted, halls.trans hall⟩

end Sys2Proof.Machine

namespace Sys2Proof.Hall

/-! ## What an answered seat takes (02 R23, R24, R31, R33) -/

section

variable {now : Clock} {h : Hall} {n : SeatId} {r : Seat}

theorem seatAnswered_eq (held : h.seat? n = some r) (via : Reach) (slot : ListenSlot) (badge : Option Badge)
    (keys : List KeyEvent) : h.seatAnswered now n via slot badge keys = keys.foldl (Hall.takeKey now n)
      ((((h.setReach n via).restoreLink now n r).takeSlot n slot).takeBadge now n badge) := by
  simp only [Hall.seatAnswered, held]

theorem setReach_changed (held : h.seat? n = some r) {via : Reach} (ne : r.reach ≠ via) :
    (h.setReach n via).seat? n = some { r with reach := via } ∧ (h.setReach n via).marks.get n = true := by
  simp only [Hall.setReach, held, ne, if_false]
  exact ⟨(seat?_mark _ n n).trans (seat?_updSeat _ held), by simp⟩

/-- A seat in LOST_GRACE that answers is REACHABLE again, with its mark set (02 R31). -/
theorem restoreLink_lost (held : h.seat? n = some r) {left : Nat} (lost : r.link = .lostGrace left) :
    ∃ q, (h.restoreLink now n r).seat? n = some q ∧ q.link = .reachable ∧
      (h.restoreLink now n r).marks.get n = true ∧
      h.restoreLink now n r = (((h.setLink n .reachable).speechLink now n false).deskLinkRegained n).recompose n := by
  have restored : h.restoreLink now n r =
      (((h.setLink n .reachable).speechLink now n false).deskLinkRegained n).recompose n := by
    simp only [Hall.restoreLink, lost]
  have linked : (h.setLink n .reachable).seat? n = some { r with link := .reachable } :=
    (seat?_mark _ n n).trans (seat?_updSeat _ held)
  have steady := ((Steady.speechLink now (h.setLink n .reachable) n false).trans (Steady.deskLinkRegained _ n)).trans
    (Steady.recompose _ n)
  obtain ⟨q, hq, core⟩ := steady.seat linked
  obtain ⟨-, -, -, -, link, -⟩ := Seat.eq_of_core core
  rw [restored]
  exact ⟨q, hq, link, steady.marks n (by simp [Hall.setLink]), rfl⟩

theorem takeSlot_changed (held : h.seat? n = some r) {slot : ListenSlot} (ne : r.slot ≠ slot) :
    ∃ tuned, (h.takeSlot n slot).seat? n = some { r with slot := slot, tuned := tuned } ∧
      (h.takeSlot n slot).marks.get n = true := by
  have taken : ((h.updSeat n fun s => { s with slot := slot }).mark n).seat? n = some { r with slot := slot } :=
    (seat?_mark _ n n).trans (seat?_updSeat _ held)
  simp only [Hall.takeSlot, held, ne, if_false]
  exact ⟨_, seat?_retune _ taken, (Steady.retuneSeat _ n).marks n (by simp)⟩

theorem takeBadge_new (held : h.seat? n = some r) (bare : r.badge = none) (c : Badge) :
    (h.takeBadge now n (some c)).seat? n = some { r with badge := some c } ∧
      (h.takeBadge now n (some c)).marks.get n = true ∧ (h.takeBadge now n (some c)).floors = h.floors := by
  simp only [Hall.takeBadge, held, bare, Hall.setBadge]
  exact ⟨(seat?_mark _ n n).trans (seat?_updSeat _ held), by simp, by simp⟩

theorem takeBadge_withdrawn (held : h.seat? n = some r) {c : Badge} (badged : r.badge = some c) :
    h.takeBadge now n none =
      if (h.setBadge n none).speaks n || (h.setBadge n none).queued n then (h.setBadge n none).badgeRemoved now n
      else h.setBadge n none := by
  simp only [Hall.takeBadge, held, badged, Hall.dropBadge]

/-! ## A key and its refusal (02 R25, R26) -/

theorem refuseKey_spec (held : h.seat? n = some r) (c : KeyRefusal) :
    ∃ i, (h.refuseKey n c).marks.get n = true ∧ (h.refuseKey n c).floors = h.floors ∧
      (h.refuseKey n c).seat? n = some { r with lastRefusal := some c, flash := some 10, indicator := i } := by
  have written : ((h.updSeat n fun s => { s with lastRefusal := some c, flash := some 10 }).mark n).seat? n =
      some { r with lastRefusal := some c, flash := some 10 } :=
    (seat?_mark _ n n).trans (seat?_updSeat _ held)
  exact ⟨_, by simp [Hall.refuseKey], by simp [Hall.refuseKey], seat?_recompose written⟩

theorem takeKey_taken (held : h.seat? n = some r) {k : KeyEvent} {g : Hall} (hand : h.handKey now n r k = taken g) :
    h.takeKey now n k = g.arbitrate now := by
  simp only [Hall.takeKey, held, hand, taken]

theorem takeKey_turnedDown (held : h.seat? n = some r) {k : KeyEvent} {c : KeyRefusal}
    (hand : h.handKey now n r k = turnedDown h c) : h.takeKey now n k = (h.refuseKey n c).arbitrate now := by
  simp only [Hall.takeKey, held, hand, turnedDown]

theorem handKey_notAccepted {k : KeyEvent} (no : h.accepts r.role k = false) :
    h.handKey now n r k = turnedDown h .notAccepted := by
  simp only [Hall.handKey, no, Bool.not_false, if_true]

theorem handKey_mic (ok : h.accepts r.role .mic = true) :
    h.handKey now n r .mic = h.onFloor r (h.micKey now n r) := by
  simp only [Hall.handKey, ok, Bool.not_true, Bool.false_eq_true, if_false]

theorem handKey_cancel (ok : h.accepts r.role .cancel = true) : h.handKey now n r .cancel = h.cancel now n := by
  simp only [Hall.handKey, ok, Bool.not_true, Bool.false_eq_true, if_false]

theorem handKey_next (ok : h.accepts r.role .next = true) :
    h.handKey now n r .next = h.onFloor r (h.nextKey now) := by
  simp only [Hall.handKey, ok, Bool.not_true, Bool.false_eq_true, if_false]

theorem handKey_priorityDown (ok : h.accepts r.role .priorityDown = true) :
    h.handKey now n r .priorityDown = h.onFloor r fun f => taken (h.priorityDown now f n) := by
  simp only [Hall.handKey, ok, Bool.not_true, Bool.false_eq_true, if_false]

/-- PRIORITY up is accepted whatever the mask (02 R27). -/
theorem handKey_priorityUp : h.handKey now n r .priorityUp = taken (h.leaveHolders n) := by
  have ok : h.accepts r.role .priorityUp = true := by
    cases r.role <;> rfl
  simp only [Hall.handKey, ok, Bool.not_true, Bool.false_eq_true, if_false]

theorem onFloor_unplaced (unplaced : r.place = none) (k : FloorId → KeyTaken) :
    h.onFloor r k = turnedDown h .unplaced := by
  simp only [Hall.onFloor, unplaced]

theorem onFloor_dark (placed : r.place ≠ none) (dark : h.floorOf r = none) (k : FloorId → KeyTaken) :
    h.onFloor r k = turnedDown h .floorDark := by
  cases place : r.place with
  | none => exact absurd place placed
  | some p => simp only [Hall.onFloor, place, dark]

theorem onFloor_live {f : FloorId} (floor : h.floorOf r = some f) (k : FloorId → KeyTaken) : h.onFloor r k = k f := by
  cases place : r.place with
  | none => simp [Hall.floorOf, place] at floor
  | some p => simp only [Hall.onFloor, place, floor]

/-- The keys handed on with the seat's floor, by the checks of 02 R25. -/
theorem handKey_offFloor {k : KeyEvent} {c : KeyRefusal} (ok : h.accepts r.role k = true)
    (which : k = .mic ∨ k = .next ∨ k = .priorityDown) (off : ∀ j, h.onFloor r j = turnedDown h c) :
    h.handKey now n r k = turnedDown h c := by
  obtain rfl | rfl | rfl := which
  · rw [handKey_mic ok, off]
  · rw [handKey_next ok, off]
  · rw [handKey_priorityDown ok, off]

end

/-! ## MIC and CANCEL (04 R69 to R74) -/

section

variable {now : Clock} {h : Hall} {n : SeatId} {r : Seat} {f g : FloorId}

theorem micKey_unbadged (required : (h.floor f).bank.badgeRequired = true) (bare : r.badge = none) :
    h.micKey now n r f = turnedDown h .noBadge := by
  simp [Hall.micKey, required, bare]

theorem micKey_admitted (ok : (h.floor f).bank.badgeRequired = false ∨ r.badge ≠ none) :
    h.micKey now n r f = h.mic now f n r.role := by
  have admitted : ((h.floor f).bank.badgeRequired && r.badge.isNone) = false := by
    obtain free | badged := ok
    · simp [free]
    · simp [Option.isNone_eq_false_iff, Option.isSome_iff_ne_none, badged]
  simp only [Hall.micKey, admitted, Bool.false_eq_true, if_false]

theorem withdraw_speaking (speaks : h.speakerFloor n = some g) :
    h.withdraw now n = some (h.endTurn now g n .released) := by
  simp only [Hall.withdraw, speaks]

theorem withdraw_waiting (silent : h.speakerFloor n = none) (waits : h.queueFloor n = some g) :
    h.withdraw now n = some (h.removeEntry g n .cancelled) := by
  simp only [Hall.withdraw, silent, waits]

theorem withdraw_idle (silent : h.speakerFloor n = none) (unqueued : h.queueFloor n = none) :
    h.withdraw now n = none := by
  simp only [Hall.withdraw, silent, unqueued]

theorem mic_withdraws {k : Hall} (withdrawn : h.withdraw now n = some k) (role : Role) :
    h.mic now f n role = taken k := by
  simp only [Hall.mic, withdrawn]

theorem mic_idle_chair (idle : h.withdraw now n = none) : h.mic now f n .chair = h.micChair now f n := by
  simp only [Hall.mic, idle, if_true]

theorem mic_idle_delegate (idle : h.withdraw now n = none) : h.mic now f n .delegate = h.micDelegate now f n := by
  simp only [Hall.mic, idle, reduceCtorEq, if_false]

theorem micChair_slot {k : SlotId} (free : h.freeSlot = some k) : h.micChair now f n = taken (h.grant now f n k) := by
  simp only [Hall.micChair, free]

theorem micChair_noSlot (full : h.freeSlot = none) : h.micChair now f n = turnedDown h .noVoiceSlot := by
  simp only [Hall.micChair, full]

theorem pressQueue_empty (dry : h.poolFree = 0) : h.pressQueue now f n = turnedDown h .poolEmpty := by
  simp only [Hall.pressQueue, dry, if_true]

theorem pressQueue_joins (free : 0 < h.poolFree) : h.pressQueue now f n =
    taken (h.joinQueue f (h.floor f).queue.length ⟨n, now, .press, none, false⟩) := by
  simp only [Hall.pressQueue, Nat.ne_of_gt free, if_false]

theorem micDelegate_chairOnly (mode : (h.floor f).bank.mode = .chairOnly) :
    h.micDelegate now f n = turnedDown h .chairOnly := by
  simp only [Hall.micDelegate, mode]

theorem micDelegate_request_full (mode : (h.floor f).bank.mode = .request)
    (full : (h.floor f).bank.cap ≤ (h.floor f).queue.length) : h.micDelegate now f n = turnedDown h .queueFull := by
  simp only [Hall.micDelegate, mode, Hall.micRequest, Nat.not_lt.mpr full, if_false]

theorem micDelegate_request_room (mode : (h.floor f).bank.mode = .request)
    (room : (h.floor f).queue.length < (h.floor f).bank.cap) : h.micDelegate now f n = h.pressQueue now f n := by
  simp only [Hall.micDelegate, mode, Hall.micRequest, room, if_true]

theorem micDelegate_muted (mode : (h.floor f).bank.mode = .opened ∨ (h.floor f).bank.mode = .override)
    (muted : (h.floor f).muteActive = true) : h.micDelegate now f n = turnedDown h .priorityActive := by
  obtain mode | mode := mode
  · simp only [Hall.micDelegate, mode, Hall.micOpen, muted, if_true]
  · simp only [Hall.micDelegate, mode, Hall.micOverride, muted, if_true]

theorem micDelegate_granted (mode : (h.floor f).bank.mode = .opened ∨ (h.floor f).bank.mode = .override)
    (unmuted : (h.floor f).muteActive = false) (below : (h.floor f).delegates < (h.floor f).bank.limit) {k : SlotId}
    (free : h.freeSlot = some k) : h.micDelegate now f n = taken (h.grant now f n k) := by
  obtain mode | mode := mode
  · simp only [Hall.micDelegate, mode, Hall.micOpen, unmuted, below, free, Bool.false_eq_true, if_false, if_true]
  · simp only [Hall.micDelegate, mode, Hall.micOverride, unmuted, below, free, Bool.false_eq_true, if_false, if_true]

/-- In OPEN mode a press without a place among the delegates or without a voice slot goes to the queue (04 R70). -/
theorem micDelegate_opened_queue (mode : (h.floor f).bank.mode = .opened) (unmuted : (h.floor f).muteActive = false)
    (shut : (h.floor f).bank.limit ≤ (h.floor f).delegates ∨ h.freeSlot = none) : h.micDelegate now f n =
      if (h.floor f).queue.length < (h.floor f).bank.cap then h.pressQueue now f n else turnedDown h .floorFull := by
  simp only [Hall.micDelegate, mode, Hall.micOpen, unmuted, Bool.false_eq_true, if_false]
  by_cases below : (h.floor f).delegates < (h.floor f).bank.limit
  · simp only [below, if_true, shut.resolve_left (Nat.not_le.mpr below)]
  · simp only [below, if_false]

theorem micDelegate_override_noSlot (mode : (h.floor f).bank.mode = .override)
    (unmuted : (h.floor f).muteActive = false) (below : (h.floor f).delegates < (h.floor f).bank.limit)
    (full : h.freeSlot = none) : h.micDelegate now f n = turnedDown h .noVoiceSlot := by
  simp only [Hall.micDelegate, mode, Hall.micOverride, unmuted, below, full, Bool.false_eq_true, if_false, if_true]

theorem micDelegate_override_passes (mode : (h.floor f).bank.mode = .override)
    (unmuted : (h.floor f).muteActive = false) (limit : (h.floor f).bank.limit ≤ (h.floor f).delegates) :
    h.micDelegate now f n = taken (h.passTurn now f n .overridden) := by
  simp only [Hall.micDelegate, mode, Hall.micOverride, unmuted, Nat.not_lt.mpr limit, Bool.false_eq_true, if_false]

theorem cancel_withdraws {k : Hall} (withdrawn : h.withdraw now n = some k) : h.cancel now n = taken k := by
  simp only [Hall.cancel, withdrawn, Option.getD_some]

theorem cancel_idle (idle : h.withdraw now n = none) : h.cancel now n = taken h := by
  simp only [Hall.cancel, idle, Option.getD_none]

/-! ## NEXT (04 R75) -/

theorem nextKey_passes (limit : (h.floor f).bank.limit ≤ (h.floor f).delegates) {w : Waiting}
    (first : (h.floor f).firstReachable = some w) :
    h.nextKey now f = taken (h.passTurn now f w.seat .nextClosed) := by
  simp only [Hall.nextKey, limit, decide_true, first]

theorem nextKey_ends (limit : (h.floor f).bank.limit ≤ (h.floor f).delegates)
    (none_ : (h.floor f).firstReachable = none) : h.nextKey now f = taken (h.endOldest now f .nextClosed) := by
  simp only [Hall.nextKey, limit, decide_true, none_]

theorem nextKey_grants (below : (h.floor f).delegates < (h.floor f).bank.limit) {w : Waiting}
    (first : (h.floor f).firstReachable = some w) {k : SlotId} (free : h.freeSlot = some k) :
    h.nextKey now f = taken (h.grant now f w.seat k) := by
  simp only [Hall.nextKey, Nat.not_le.mpr below, decide_false, first, free]

theorem nextKey_noSlot (below : (h.floor f).delegates < (h.floor f).bank.limit) {w : Waiting}
    (first : (h.floor f).firstReachable = some w) (full : h.freeSlot = none) :
    h.nextKey now f = turnedDown h .noVoiceSlot := by
  simp only [Hall.nextKey, Nat.not_le.mpr below, decide_false, first, full]

theorem nextKey_ignored (below : (h.floor f).delegates < (h.floor f).bank.limit)
    (none_ : (h.floor f).firstReachable = none) : h.nextKey now f = taken h := by
  simp only [Hall.nextKey, Nat.not_le.mpr below, decide_false, none_]

end

/-! ## Priority holders (04 R76, R77) -/

theorem mem_insertSeat {m n : SeatId} {l : List SeatId} : m ∈ insertSeat n l ↔ m = n ∨ m ∈ l := by
  induction l with
  | nil => simp [insertSeat]
  | cons x xs ih =>
    unfold insertSeat
    split
    · simp
    · split
      next same => simp [same]
      · simp only [List.mem_cons, ih]
        tauto

theorem setMutes_holders (h : Hall) (f g : FloorId) (e : Speaker) (p l : Bool) :
    ((h.setMutes f e p l).floor g).holders = (h.floor g).holders := by
  unfold Hall.floor
  rw [Hall.setMutes_floors]
  split
  · rfl
  · by_cases same : f = g
    · subst same
      simp
    · simp [Tbl.upd, Tbl.get_set, same]

theorem remute_holders (h : Hall) (f g : FloorId) : ((h.remute f).floor g).holders = (h.floor g).holders :=
  foldl_keeps (part := fun x : Hall => (x.floor g).holders) (fun x e => setMutes_holders x f g e _ _) _ h

theorem leaveHolder_holders (h : Hall) (n : SeatId) (f g : FloorId) : ((h.leaveHolder n f).floor g).holders =
    if f = g then (h.floor g).holders.filter (fun m => m ≠ n) else (h.floor g).holders := by
  unfold Hall.leaveHolder
  split
  · have lift : ∀ x : Hall, ((x.liftIfEmpty f).floor g).holders = (x.floor g).holders := by
      intro x
      unfold Hall.liftIfEmpty
      split
      · rfl
      · exact remute_holders x f g
    rw [lift, Hall.floor_updFloor]
    split
    next same => rw [same]
    · rfl
  next out =>
    split
    next same =>
      subst same
      refine (List.filter_eq_self.mpr fun m mem => ?_).symm
      simpa using fun c : m = n => out (by simpa [← c] using mem)
    · rfl

/-- A seat that leaves the holder sets is in none (04 R77). -/
theorem leaveHolders_out (h : Hall) (n : SeatId) (f : FloorId) : n ∉ ((h.leaveHolders n).floor f).holders := by
  have out : ∀ (fs : List FloorId) (h : Hall), f ∈ fs ∨ n ∉ (h.floor f).holders →
      n ∉ ((fs.foldl (Hall.leaveHolder n) h).floor f).holders := by
    intro fs
    induction fs with
    | nil => exact fun h before => before.resolve_left List.not_mem_nil
    | cons g fs ih =>
      intro h before
      refine ih _ ?_
      rw [leaveHolder_holders]
      by_cases same : g = f
      · exact .inr (by simp [same])
      · rw [if_neg same]
        exact before.imp_left fun mem => (List.mem_cons.mp mem).resolve_left (Ne.symm same)
  exact out _ h (.inl (List.mem_finRange f))

end Sys2Proof.Hall

namespace Sys2Proof.Hall

/-! ## Desk keys (07 R127 to R132) -/

section

variable {now : Clock} {h : Hall} {n m : SeatId} {r : Seat} {d : DeskFields} {b c : BoothId} {o : Out} {u : OutUse}

theorem handKey_deskOn (role : r.role = .desk) (desk : r.desk = some d) (ok : h.maskDesk.getLsbD 0 = true) :
    h.handKey now n r .deskOn = h.deskOn n d := by
  simp only [Hall.handKey, role, Hall.accepts, ok, Hall.onDesk, desk, Bool.not_true, Bool.false_eq_true, if_false]

theorem handKey_deskOff (role : r.role = .desk) (desk : r.desk = some d) (ok : h.maskDesk.getLsbD 1 = true) :
    h.handKey now n r .deskOff = taken (h.deskLeaves n .deskOff) := by
  simp only [Hall.handKey, role, Hall.accepts, ok, Hall.onDesk, desk, Bool.not_true, Bool.false_eq_true, if_false]

/-- The key that selects an output. -/
def outKey (o : Out) : KeyEvent :=
  if o = .a then .outA else .outB

theorem handKey_outKey (role : r.role = .desk) (desk : r.desk = some d)
    (ok : (if o = .a then h.maskDesk.getLsbD 2 else h.maskDesk.getLsbD 3) = true) :
    h.handKey now n r (outKey o) = h.selectOut n d o := by
  cases o with
  | a =>
    have mask : h.maskDesk.getLsbD 2 = true := ok
    simp only [Hall.handKey, outKey, if_true, role, Hall.accepts, mask, Hall.onDesk, desk, Bool.not_true,
      Bool.false_eq_true, if_false]
  | b =>
    have mask : h.maskDesk.getLsbD 3 = true := ok
    simp only [Hall.handKey, outKey, reduceCtorEq, role, Hall.accepts, mask, Hall.onDesk, desk, Bool.not_true,
      Bool.false_eq_true, if_false]

theorem handKey_relay (role : r.role = .desk) (desk : r.desk = some d) (ok : h.maskDesk.getLsbD 4 = true) (a : Byte) :
    h.handKey now n r (.relay a) = h.relayKey n d (relayArgOf a) := by
  simp only [Hall.handKey, role, Hall.accepts, ok, Hall.onDesk, desk, Bool.not_true, Bool.false_eq_true, if_false]

/-! ### Going live -/

theorem liveRefusal_unused (use : (h.output b o).use = none) : h.liveRefusal b o n = some .outputUnused := by
  simp only [Hall.liveRefusal, use]

theorem liveRefusal_held (use : (h.output b o).use = some u) (state : u.state = .held) :
    h.liveRefusal b o n = some .outputHeld := by
  simp only [Hall.liveRefusal, use, state]

theorem liveRefusal_busy (use : (h.output b o).use = some u) {gate : Bool} (state : u.state = .live m gate)
    (other : m ≠ n) (policy : (h.booths.get b).policy = .lockout) : h.liveRefusal b o n = some .deskBusy := by
  simp only [Hall.liveRefusal, use, state, other, policy, ne_eq, not_false_eq_true, and_self, if_true]

theorem liveRefusal_handover (use : (h.output b o).use = some u) {gate : Bool} (state : u.state = .live m gate)
    (policy : (h.booths.get b).policy = .handover) : h.liveRefusal b o n = none := by
  simp only [Hall.liveRefusal, use, state, policy, reduceCtorEq, and_false, if_false]

theorem liveRefusal_free (use : (h.output b o).use = some u) (unheld : u.state ≠ .held)
    (unlive : ∀ m gate, u.state ≠ .live m gate) : h.liveRefusal b o n = none := by
  cases state : u.state with
  | held => exact absurd state unheld
  | live m gate => exact absurd state (unlive m gate)
  | silent left => simp only [Hall.liveRefusal, use, state]
  | fallback => simp only [Hall.liveRefusal, use, state]

theorem takeOff_live (use : (h.output b o).use = some u) {gate : Bool} (state : u.state = .live m gate)
    (cause : ReleaseCause) : h.takeOff b o cause = (h.setDeskLive m false).setLastRelease b o m cause := by
  simp only [Hall.takeOff, Output.liveDesk, use, state]

theorem takeOff_free (use : (h.output b o).use = some u) (unlive : ∀ m gate, u.state ≠ .live m gate)
    (cause : ReleaseCause) : h.takeOff b o cause = h := by
  have noDesk : (h.output b o).liveDesk = none := by
    cases state : u.state with
    | live m gate => exact absurd state (unlive m gate)
    | silent left => simp only [Output.liveDesk, use, state]
    | fallback => simp only [Output.liveDesk, use, state]
    | held => simp only [Output.liveDesk, use, state]
  simp only [Hall.takeOff, noDesk]

theorem deskOn_live (live : d.live = true) : h.deskOn n d = taken h := by
  simp only [Hall.deskOn, live, if_true]

theorem deskOn_noBooth (off : d.live = false) (booth : h.assignedBooth n = none) :
    h.deskOn n d = turnedDown h .noBooth := by
  simp only [Hall.deskOn, off, booth, Bool.false_eq_true, if_false]

theorem deskOn_refused (off : d.live = false) (booth : h.assignedBooth n = some b) {k : KeyRefusal}
    (refusal : h.liveRefusal b d.selected n = some k) : h.deskOn n d = turnedDown h k := by
  simp only [Hall.deskOn, off, booth, refusal, Bool.false_eq_true, if_false]

theorem deskOn_goes (off : d.live = false) (booth : h.assignedBooth n = some b)
    (admitted : h.liveRefusal b d.selected n = none) : h.deskOn n d = taken (h.goLiveOver b d.selected n) := by
  simp only [Hall.deskOn, off, booth, admitted, Bool.false_eq_true, if_false]

/-! ### Selecting an output -/

theorem selectOut_same (same : d.selected = o) : h.selectOut n d o = taken h := by
  simp only [Hall.selectOut, same, if_true]

theorem selectOut_off (other : d.selected ≠ o) (off : d.live = false) :
    h.selectOut n d o = taken (h.setDesk n { d with selected := o }) := by
  simp only [Hall.selectOut, other, off, Bool.false_eq_true, if_false]

theorem selectOut_noBooth (other : d.selected ≠ o) (live : d.live = true) (booth : h.assignedBooth n = none) :
    h.selectOut n d o = turnedDown h .noBooth := by
  simp only [Hall.selectOut, other, live, booth, if_false, if_true]

theorem selectOut_refused (other : d.selected ≠ o) (live : d.live = true) (booth : h.assignedBooth n = some b)
    {k : KeyRefusal} (refusal : h.liveRefusal b o n = some k) : h.selectOut n d o = turnedDown h k := by
  simp only [Hall.selectOut, other, live, booth, refusal, if_false, if_true]

theorem selectOut_moves (other : d.selected ≠ o) (live : d.live = true) (booth : h.assignedBooth n = some b)
    (admitted : h.liveRefusal b o n = none) : h.selectOut n d o =
      taken ((((h.setLastRelease b d.selected n .moved).enterSilent b d.selected).setDesk n
        { d with selected := o }).goLiveOver b o n) := by
  simp only [Hall.selectOut, other, live, booth, admitted, if_false, if_true]

/-! ### Relays -/

/-- The argument of an output: the booth number in the high nibble, the output in the low one (11 R186). -/
theorem relayArgOf_output (c : BoothId) (o : Out) :
    relayArgOf (BitVec.ofNat 8 (16 * (c.val + 1) + if o = .a then 0 else 1)) = some (.output c o) := by
  revert c
  cases o with
  | a => decide
  | b => decide

theorem relayKey_noBooth (booth : h.assignedBooth n = none) : h.relayKey n d (some (.output c o)) = turnedDown h .noBooth := by
  simp only [Hall.relayKey, booth]

theorem relayKey_invalid (booth : h.assignedBooth n = some b) (invalid : h.validSource b c o = false) :
    h.relayKey n d (some (.output c o)) = turnedDown h .sourceInvalid := by
  simp only [Hall.relayKey, booth, invalid, Bool.not_false, if_true]

theorem relayKey_loop (booth : h.assignedBooth n = some b) (valid : h.validSource b c o = true)
    (back : h.leadsBack b 25 [(c, o)] c o = true) : h.relayKey n d (some (.output c o)) = turnedDown h .relayLoop := by
  simp only [Hall.relayKey, booth, valid, back, Bool.not_true, Bool.false_eq_true, if_false, if_true]

theorem relayKey_taken (booth : h.assignedBooth n = some b) (valid : h.validSource b c o = true)
    (away : h.leadsBack b 25 [(c, o)] c o = false) :
    h.relayKey n d (some (.output c o)) = taken (h.setDesk n { d with relay := .output c o }) := by
  simp only [Hall.relayKey, booth, valid, away, Bool.not_true, Bool.false_eq_true, if_false]

end

end Sys2Proof.Hall

namespace Sys2Proof.Hall

/-! ## The outcomes of each key, closed by the arbiter's run (02 R25) -/

section

variable {now : Clock} {h : Hall} {n : SeatId} {r : Seat} {f : FloorId} {d : DeskFields}

/-- MIC from an idle delegate, by the mode of its floor (04 R70 to R73). -/
theorem takeKey_mic_delegate (held : h.seat? n = some r) (press : h.handKey now n r .mic = h.micDelegate now f n) :
    ∃ join, join = (h.joinQueue f (h.floor f).queue.length ⟨n, now, .press, none, false⟩).arbitrate now ∧
      ((h.floor f).bank.mode = .chairOnly → h.takeKey now n .mic = (h.refuseKey n .chairOnly).arbitrate now) ∧
      ((h.floor f).bank.mode = .request →
        ((h.floor f).bank.cap ≤ (h.floor f).queue.length →
          h.takeKey now n .mic = (h.refuseKey n .queueFull).arbitrate now) ∧
        ((h.floor f).queue.length < (h.floor f).bank.cap → h.poolFree = 0 →
          h.takeKey now n .mic = (h.refuseKey n .poolEmpty).arbitrate now) ∧
        ((h.floor f).queue.length < (h.floor f).bank.cap → 0 < h.poolFree → h.takeKey now n .mic = join)) ∧
      ((h.floor f).bank.mode = .opened ∨ (h.floor f).bank.mode = .override → (h.floor f).muteActive = true →
        h.takeKey now n .mic = (h.refuseKey n .priorityActive).arbitrate now) ∧
      ((h.floor f).bank.mode = .opened ∨ (h.floor f).bank.mode = .override → (h.floor f).muteActive = false →
        (h.floor f).delegates < (h.floor f).bank.limit → ∀ k, h.freeSlot = some k →
          h.takeKey now n .mic = (h.grant now f n k).arbitrate now) ∧
      ((h.floor f).bank.mode = .opened → (h.floor f).muteActive = false →
        ((h.floor f).bank.limit ≤ (h.floor f).delegates ∨ h.freeSlot = none) →
        ((h.floor f).bank.cap ≤ (h.floor f).queue.length →
          h.takeKey now n .mic = (h.refuseKey n .floorFull).arbitrate now) ∧
        ((h.floor f).queue.length < (h.floor f).bank.cap → h.poolFree = 0 →
          h.takeKey now n .mic = (h.refuseKey n .poolEmpty).arbitrate now) ∧
        ((h.floor f).queue.length < (h.floor f).bank.cap → 0 < h.poolFree → h.takeKey now n .mic = join)) ∧
      ((h.floor f).bank.mode = .override → (h.floor f).muteActive = false →
        (h.floor f).delegates < (h.floor f).bank.limit → h.freeSlot = none →
          h.takeKey now n .mic = (h.refuseKey n .noVoiceSlot).arbitrate now) ∧
      ((h.floor f).bank.mode = .override → (h.floor f).muteActive = false →
        (h.floor f).bank.limit ≤ (h.floor f).delegates →
          h.takeKey now n .mic = (h.passTurn now f n .overridden).arbitrate now) := by
  refine ⟨_, rfl, fun mode => ?_, fun mode => ⟨fun full => ?_, fun room dry => ?_, fun room free => ?_⟩,
    fun mode muted => ?_, fun mode unmuted below k free => ?_, fun mode unmuted shut => ⟨fun full => ?_,
    fun room dry => ?_, fun room free => ?_⟩, fun mode unmuted below full => ?_, fun mode unmuted limit => ?_⟩
  · exact takeKey_turnedDown held (press.trans (micDelegate_chairOnly mode))
  · exact takeKey_turnedDown held (press.trans (micDelegate_request_full mode full))
  · exact takeKey_turnedDown held
      (press.trans ((micDelegate_request_room mode room).trans (pressQueue_empty dry)))
  · exact takeKey_taken held
      (press.trans ((micDelegate_request_room mode room).trans (pressQueue_joins free)))
  · exact takeKey_turnedDown held (press.trans (micDelegate_muted mode muted))
  · exact takeKey_taken held (press.trans (micDelegate_granted mode unmuted below free))
  · exact takeKey_turnedDown held
      (press.trans ((micDelegate_opened_queue mode unmuted shut).trans (if_neg (Nat.not_lt.mpr full))))
  · exact takeKey_turnedDown held (press.trans ((micDelegate_opened_queue mode unmuted shut).trans
      ((if_pos room).trans (pressQueue_empty dry))))
  · exact takeKey_taken held (press.trans ((micDelegate_opened_queue mode unmuted shut).trans
      ((if_pos room).trans (pressQueue_joins free))))
  · exact takeKey_turnedDown held (press.trans (micDelegate_override_noSlot mode unmuted below full))
  · exact takeKey_taken held (press.trans (micDelegate_override_passes mode unmuted limit))

/-- NEXT from a chair on its floor (04 R75). -/
theorem takeKey_next (held : h.seat? n = some r) (ok : h.accepts r.role .next = true) (floor : h.floorOf r = some f) :
    (∀ w, (h.floor f).bank.limit ≤ (h.floor f).delegates → (h.floor f).firstReachable = some w →
      h.takeKey now n .next = (h.passTurn now f w.seat .nextClosed).arbitrate now) ∧
    ((h.floor f).bank.limit ≤ (h.floor f).delegates → (h.floor f).firstReachable = none →
      h.takeKey now n .next = (h.endOldest now f .nextClosed).arbitrate now) ∧
    (∀ w k, (h.floor f).delegates < (h.floor f).bank.limit → (h.floor f).firstReachable = some w →
      h.freeSlot = some k → h.takeKey now n .next = (h.grant now f w.seat k).arbitrate now) ∧
    (∀ w, (h.floor f).delegates < (h.floor f).bank.limit → (h.floor f).firstReachable = some w → h.freeSlot = none →
      h.takeKey now n .next = (h.refuseKey n .noVoiceSlot).arbitrate now) ∧
    ((h.floor f).delegates < (h.floor f).bank.limit → (h.floor f).firstReachable = none →
      h.takeKey now n .next = h.arbitrate now) := by
  have next := (handKey_next (now := now) (n := n) ok).trans (onFloor_live floor _)
  exact ⟨fun w limit first => takeKey_taken held (next.trans (nextKey_passes limit first)),
    fun limit none_ => takeKey_taken held (next.trans (nextKey_ends limit none_)),
    fun w k below first free => takeKey_taken held (next.trans (nextKey_grants below first free)),
    fun w below first full => takeKey_turnedDown held (next.trans (nextKey_noSlot below first full)),
    fun below none_ => takeKey_taken held (next.trans (nextKey_ignored below none_))⟩

/-- DESK_ON (07 R129): checked, and live on the selected output, under HANDOVER taken over from the desk live there. -/
theorem takeKey_deskOn (held : h.seat? n = some r) (press : h.handKey now n r .deskOn = h.deskOn n d) :
    (d.live = true → h.takeKey now n .deskOn = h.arbitrate now) ∧
    (d.live = false → h.assignedBooth n = none →
      h.takeKey now n .deskOn = (h.refuseKey n .noBooth).arbitrate now) ∧
    ∀ b, d.live = false → h.assignedBooth n = some b →
      ((h.output b d.selected).use = none →
        h.takeKey now n .deskOn = (h.refuseKey n .outputUnused).arbitrate now) ∧
      ∀ u, (h.output b d.selected).use = some u →
        (u.state = .held → h.takeKey now n .deskOn = (h.refuseKey n .outputHeld).arbitrate now) ∧
        (∀ m g, u.state = .live m g → m ≠ n → (h.booths.get b).policy = .lockout →
          h.takeKey now n .deskOn = (h.refuseKey n .deskBusy).arbitrate now) ∧
        (∀ m g, u.state = .live m g → m ≠ n → (h.booths.get b).policy = .handover → h.takeKey now n .deskOn =
          ((((h.setDeskLive m false).setLastRelease b d.selected m .takenOver).goLive b d.selected n).arbitrate
            now)) ∧
        (u.state ≠ .held → (∀ m g, u.state ≠ .live m g) →
          h.takeKey now n .deskOn = (h.goLive b d.selected n).arbitrate now) := by
  refine ⟨fun live => takeKey_taken held (press.trans (deskOn_live live)),
    fun off booth => takeKey_turnedDown held (press.trans (deskOn_noBooth off booth)),
    fun b off booth => ?_⟩
  have refused : ∀ c, h.liveRefusal b d.selected n = some c →
      h.takeKey now n .deskOn = (h.refuseKey n c).arbitrate now :=
    fun c no => takeKey_turnedDown held (press.trans (deskOn_refused off booth no))
  have goes : h.liveRefusal b d.selected n = none →
      h.takeKey now n .deskOn = (h.goLiveOver b d.selected n).arbitrate now :=
    fun ok => takeKey_taken held (press.trans (deskOn_goes off booth ok))
  refine ⟨fun use => refused _ (liveRefusal_unused use), fun u use =>
    ⟨fun state => refused _ (liveRefusal_held use state),
      fun m g state other policy => refused _ (liveRefusal_busy use state other policy),
      fun m g state other policy => ?_, fun unheld unlive => ?_⟩⟩
  · rw [goes (liveRefusal_handover use state policy), goLiveOver, takeOff_live use state]
  · rw [goes (liveRefusal_free use unheld unlive), goLiveOver, takeOff_free use unlive]

/-- OUT_A and OUT_B (07 R128). -/
theorem takeKey_outKey (held : h.seat? n = some r) (o : Out)
    (press : h.handKey now n r (outKey o) = h.selectOut n d o) :
    (d.selected = o → h.takeKey now n (outKey o) = h.arbitrate now) ∧
    (d.selected ≠ o → d.live = false →
      h.takeKey now n (outKey o) = (h.setDesk n { d with selected := o }).arbitrate now) ∧
    (d.selected ≠ o → d.live = true → h.assignedBooth n = none →
      h.takeKey now n (outKey o) = (h.refuseKey n .noBooth).arbitrate now) ∧
    ∀ b, d.selected ≠ o → d.live = true → h.assignedBooth n = some b →
      (∀ c, h.liveRefusal b o n = some c → h.takeKey now n (outKey o) = (h.refuseKey n c).arbitrate now) ∧
      (h.liveRefusal b o n = none → h.takeKey now n (outKey o) =
        ((((h.setLastRelease b d.selected n .moved).enterSilent b d.selected).setDesk n
          { d with selected := o }).goLiveOver b o n).arbitrate now) := by
  exact ⟨fun same => takeKey_taken held (press.trans (selectOut_same same)),
    fun other off => takeKey_taken held (press.trans (selectOut_off other off)),
    fun other live booth => takeKey_turnedDown held (press.trans (selectOut_noBooth other live booth)),
    fun b other live booth =>
      ⟨fun c no => takeKey_turnedDown held (press.trans (selectOut_refused other live booth no)),
        fun yes => takeKey_taken held (press.trans (selectOut_moves other live booth yes))⟩⟩

/-- RELAY of an output, by the checks of 07 R131 in order. -/
theorem takeKey_relay_output (held : h.seat? n = some r) {a : Byte} {c : BoothId} {o : Out}
    (press : h.handKey now n r (.relay a) = h.relayKey n d (some (.output c o))) :
    (h.assignedBooth n = none → h.takeKey now n (.relay a) = (h.refuseKey n .noBooth).arbitrate now) ∧
    ∀ b, h.assignedBooth n = some b →
      (h.validSource b c o = false → h.takeKey now n (.relay a) = (h.refuseKey n .sourceInvalid).arbitrate now) ∧
      (h.validSource b c o = true → h.leadsBack b 25 [(c, o)] c o = true →
        h.takeKey now n (.relay a) = (h.refuseKey n .relayLoop).arbitrate now) ∧
      (h.validSource b c o = true → h.leadsBack b 25 [(c, o)] c o = false →
        h.takeKey now n (.relay a) = (h.setDesk n { d with relay := .output c o }).arbitrate now) :=
  ⟨fun booth => takeKey_turnedDown held (press.trans (relayKey_noBooth booth)),
    fun _ booth =>
      ⟨fun invalid => takeKey_turnedDown held (press.trans (relayKey_invalid booth invalid)),
        fun valid back => takeKey_turnedDown held (press.trans (relayKey_loop booth valid back)),
        fun valid away => takeKey_taken held (press.trans (relayKey_taken booth valid away))⟩⟩

end

end Sys2Proof.Hall

namespace Sys2Proof.Machine

/-! ## What a REPLY does (09 R161, R162, 02 R23 to R26) -/

/-- Settles O53: the exchange of each chain, then what the answered seat and each key are handed on as. -/
theorem replyIsTaken : Obligations.ReplyIsTaken := by
  refine ⟨fun p e q r s linear untested running enrol wait entry held kind fits address =>
      reply_accepted ⟨running, enrol, entry⟩ (World.exchangeAt_linear linear wait rfl) untested held kind fits address,
    fun k via e q r s pair untested running enrol wait entry held kind fits address => ?_,
    fun k e q r run pre post row s pair runs rows at_ seat left running enrol wait entry held kind fits address =>
      reply_tested pair runs rows at_ seat left ⟨running, enrol, entry⟩ wait held kind fits address,
    fun now h n r via slot badge keys held => ⟨Hall.seatAnswered_eq held via slot badge keys,
      fun ne => ⟨_, rfl, Hall.setReach_changed held ne⟩, fun left lost => ?_,
      fun gone => by simp only [Hall.restoreLink, gone], fun ne => ?_, fun c bare new => ?_, fun c badged none_ => ?_⟩,
    fun h n c r held => ?_, fun now h n r k held => ⟨fun no => Hall.takeKey_turnedDown held (Hall.handKey_notAccepted no),
      fun ok which => ⟨fun unplaced => ?_, fun placed dark => ?_⟩⟩,
    fun now h n r f fl held ok floor eq => ?_,
    fun now h n r held => ⟨fun ok => ⟨fun g speaks => ?_, fun g silent waits => ?_, fun silent unqueued => ?_⟩,
      fun f fl ok floor eq => ?_, fun f ok floor => ?_, Hall.takeKey_taken held Hall.handKey_priorityUp,
      fun f => Hall.leaveHolders_out h n f⟩,
    fun now h n r d held desk role => ?_⟩
  · rw [← World.endPort_primaryPort]
    obtain ⟨t, step, closed, answered, hall⟩ := reply_accepted (r := r) ⟨running, enrol, entry⟩
      (World.exchangeAt_endPort pair wait) (by rw [World.ringOfPort_primary]; exact untested) held kind fits address
    have other : (if via = .primary then secondaryPort k else primaryPort k) = endPort (primaryPort k) via.other := by
      rw [World.endPort_primaryPort]
      cases via <;> rfl
    rw [other]
    exact ⟨t, step, closed, answered, hall, exec_reply_unpolled (World.exchangeAt_other pair wait) r⟩
  · obtain ⟨q, hq, link, mark, restored⟩ := Hall.restoreLink_lost (now := now) held lost
    exact ⟨_, q, rfl, hq, link, mark, restored⟩
  · obtain ⟨tuned, taken, mark⟩ := Hall.takeSlot_changed held ne
    exact ⟨_, tuned, rfl, taken, mark⟩
  · subst new
    exact ⟨_, rfl, Hall.takeBadge_new held bare c⟩
  · subst none_
    exact Hall.takeBadge_withdrawn held badged
  · obtain ⟨i, mark, floors, seat⟩ := Hall.refuseKey_spec held c
    exact ⟨_, i, rfl, mark, floors, seat⟩
  · exact Hall.takeKey_turnedDown held (Hall.handKey_offFloor ok which (Hall.onFloor_unplaced unplaced))
  · exact Hall.takeKey_turnedDown held (Hall.handKey_offFloor ok which (Hall.onFloor_dark placed dark))
  · subst eq
    have on : h.handKey now n r .mic = h.micKey now n r f := (Hall.handKey_mic ok).trans (Hall.onFloor_live floor _)
    refine ⟨fun required bare => Hall.takeKey_turnedDown held (on.trans (Hall.micKey_unbadged required bare)),
      fun admitted => ?_⟩
    have mic := on.trans (Hall.micKey_admitted admitted)
    refine ⟨fun g speaks => Hall.takeKey_taken held (mic.trans (Hall.mic_withdraws (Hall.withdraw_speaking speaks) _)),
      fun g silent waits =>
        Hall.takeKey_taken held (mic.trans (Hall.mic_withdraws (Hall.withdraw_waiting silent waits) _)),
      fun silent unqueued => ⟨fun chair => ?_, fun delegate => ?_⟩⟩
    · have press := mic.trans (chair ▸ Hall.mic_idle_chair (Hall.withdraw_idle silent unqueued))
      exact ⟨fun k free => Hall.takeKey_taken held (press.trans (Hall.micChair_slot free)),
        fun full => Hall.takeKey_turnedDown held (press.trans (Hall.micChair_noSlot full))⟩
    · have press := mic.trans (delegate ▸ Hall.mic_idle_delegate (Hall.withdraw_idle silent unqueued))
      exact Hall.takeKey_mic_delegate held press
  · exact Hall.takeKey_taken held
      ((Hall.handKey_cancel ok).trans (Hall.cancel_withdraws (Hall.withdraw_speaking speaks)))
  · exact Hall.takeKey_taken held
      ((Hall.handKey_cancel ok).trans (Hall.cancel_withdraws (Hall.withdraw_waiting silent waits)))
  · exact Hall.takeKey_taken held
      ((Hall.handKey_cancel ok).trans (Hall.cancel_idle (Hall.withdraw_idle silent unqueued)))
  · subst eq
    exact Hall.takeKey_next held ok floor
  · refine ⟨_, rfl, fun m => ?_,
      Hall.takeKey_taken held ((Hall.handKey_priorityDown ok).trans (Hall.onFloor_live floor _))⟩
    rw [Hall.floor_updFloor, if_pos rfl]
    exact Hall.mem_insertSeat
  · refine ⟨fun ok => Hall.takeKey_taken held (Hall.handKey_deskOff role desk ok), fun ok => ?_, fun o ok => ?_,
      fun ok => ?_⟩
    · exact Hall.takeKey_deskOn held (Hall.handKey_deskOn role desk ok)
    · exact ⟨Hall.outKey o, rfl, Hall.takeKey_outKey held o (Hall.handKey_outKey role desk ok)⟩
    · have press := Hall.handKey_relay (now := now) (n := n) role desk ok
      refine ⟨Hall.takeKey_taken held (press 0#8), fun a unnamed => ?_, fun c o => ⟨_, rfl, ?_⟩⟩
      · exact Hall.takeKey_turnedDown held ((press a).trans (by rw [unnamed, Hall.relayKey]))
      · exact Hall.takeKey_relay_output held ((press _).trans (congrArg (h.relayKey n d) (Hall.relayArgOf_output c o)))

end Sys2Proof.Machine

/-! PROOFS. The family of chapter 3: floors and setup banks. First the requests that read or write one floor's record. -/

namespace Sys2Proof.Machine

/-! ## The requests of the Floor Table on one record (03 R46, R47, R55) -/

/-- A BAD_ARGUMENT for the floor number, whatever else the request names. -/
theorem execFloorSet_bad {fb pb : Byte} {s : State} (h : s.takes) (bad : fb.toNat = 0 ∨ 6 < fb.toNat ∨ 7 < pb.toNat) :
    exec (.floorSet fb pb) s = .next (s.answered 5 0x32#8 ⟨s.world, .badArgument, .empty⟩) := by
  show execFloorSet fb pb s = _
  refine request_answers h ?_
  by_cases range : 7 < pb.toNat
  · rw [within_none (.inr range)]
    rfl
  · rw [within_eq (Nat.zero_le _) (Nat.le_of_not_lt range)]
    exact withSession_bad (by omega) _

/-- Settles O38: the checks in the order of 03 R46, then the precedence replaced. -/
theorem floorSet : Obligations.FloorSet := by
  refine ⟨fun fb pb s h bad => execFloorSet_bad h bad, fun fb pb f s h hf hp closed => ?_,
    fun fb pb f x s h hf hp opened sess => ?_⟩
  · show execFloorSet fb pb s = _
    refine request_answers h ?_
    rw [within_eq (Nat.zero_le _) hp]
    exact withSession_closed hf closed _
  · show execFloorSet fb pb s = _
    refine request_answers h ?_
    rw [within_eq (Nat.zero_le _) hp]
    exact withSession_eq hf opened sess _

/-- Settles O42: out of range and CLOSED by the argument's rules, then by the pending swap (03 R55). -/
theorem bankCancel : Obligations.BankCancel := by
  refine ⟨fun fb s h bad => ?_, fun fb f s h hf none_ => ?_, fun fb f x s h hf opened sess pending => ?_⟩ <;>
    show execBankCancel fb s = _ <;> refine request_answers h ?_
  · exact withSession_bad bad _
  · by_cases closed : (s.world.hall.floor f).state = .closed
    · exact withSession_closed hf closed _
    · have unpending : (s.world.hall.floor f).swapPending = false := none_.resolve_left closed
      cases sess : (s.world.hall.floor f).sess with
      | none => simp [withSession, withFloor_eq hf, session?_open closed, sess, refusal]
      | some x => simp [withSession_eq hf closed sess, unpending, refusal]
  · rw [withSession_eq hf opened sess, if_pos pending]
    rfl

theorem floorPayload_live {h : Hall} {f : FloorId} {x : Session} (live : (h.floor f).state = .live)
    (sess : (h.floor f).sess = some x) :
    h.floorPayload f = .floor f .live x.anchor x.precedence (h.floor f).members (h.foldedInto f) x.original x.current
      (h.floor f).swapPending (h.floor f).holders (h.floor f).requestHolds (h.floor f).adopted (h.floor f).delegates
      (h.floor f).chairs (h.floor f).queue.length := by
  simp [Hall.floorPayload, Floor.session?, Floor.isLive, live, sess]

theorem floorPayload_closed {h : Hall} {f : FloorId} (closed : (h.floor f).state = .closed) :
    h.floorPayload f = .floorClosed := by
  simp [Hall.floorPayload, Floor.session?, closed]

/-- The first sixteen entries of a queue of at most sixteen are all of them, and none follows. -/
theorem queuePayload_whole {q : List Waiting} (short : q.length ≤ 16) (h : Hall) (f : FloorId) :
    queuePayload h f 1 none q = .queue none q false (h.floor f).firstReachablePos q.length (h.floor f).bank.cap
      h.poolFree (h.floor f).lastRemoval := by
  simp [queuePayload, List.take_of_length_le short, short]

/-- Settles O39: each read carries the floor's record or list as it stands (03 R47, 04 R83). -/
theorem floorAndSpeechReads : Obligations.FloorAndSpeechReads := by
  refine ⟨fun fb f x s h hf live sess => ⟨_, rfl, ?_⟩, fun fb f s h hf closed => ?_, fun fb f s h hf live => ?_,
    fun fb f c s h hf folded => ?_, fun fb f s h hf live short => ?_⟩
  · show execFloorRead fb s = _
    refine request_answers h ?_
    rw [withFloor_eq hf, floorPayload_live live sess]
    rfl
  · show execFloorRead fb s = _
    refine request_answers h ?_
    rw [withFloor_eq hf, floorPayload_closed closed]
  · show execSpeakersRead fb s = _
    refine request_answers h ?_
    simp [withFloor_eq hf, live]
  · show execSpeakersRead fb s = _
    refine request_answers h ?_
    simp [withFloor_eq hf, folded]
  · show execQueueRead fb 1#8 s = _
    refine request_answers h ?_
    simp [withFloor_eq hf, live, queuePayload_whole short]

/-! ## Setup banks (03 R50 to R53, R56) -/

theorem other_ne (i : BankId) : i.other ≠ i := by
  cases i <;> simp [BankId.other]

theorem bank_setBank_ne (x : Session) {i j : BankId} (ne : i ≠ j) (b : Bank) : (x.setBank i b).bank j = x.bank j := by
  cases i <;> cases j <;> first | rfl | exact absurd rfl ne

/-- A request leaves the world as it was, where its bytes are discarded, or as its meaning leaves it. -/
theorem request_world {n : Nat} {code : Byte} {f : World → Handled} {s t : State} (e : request n code f s = .next t) :
    t.world = s.world ∨ t.world = (f s.world).world := by
  by_cases h : s.takes
  · rw [request_taken h] at e
    cases e
    exact .inr rfl
  · rw [request_untaken h] at e
    cases e
    exact .inl rfl

/-- What BANK_WRITE can do to the world: nothing, or the non-current bank of the floor it names is replaced whole. -/
theorem bankWrite_cases (w : World) (fb : Byte) (items : List BankItem) {s t : State}
    (world : s.world = w) (e : exec (.bankWrite fb items) s = .next t) :
    t.world = w ∨ ∃ f x b, fb.toNat = f.val + 1 ∧ (w.hall.floor f).sess = some x ∧
      t.world = inHall w (w.hall.updFloor f fun y => { y with sess := some (x.setBank x.current.other b) }) := by
  subst world
  obtain same | world := request_world (show execBankWrite fb items s = .next t from e)
  · exact .inl same
  rw [world]
  by_cases bad : fb.toNat = 0 ∨ 6 < fb.toNat
  · rw [withFloor_bad bad]
    exact .inl rfl
  obtain ⟨f, -, hf⟩ := numbered_some (n := 6) (k := fb.toNat) (by omega) (by omega)
  rw [withFloor_eq hf]
  split
  · exact .inl rfl
  split
  · exact .inl rfl
  next x open_ =>
  have sess : (s.world.hall.floor f).sess = some x := by
    unfold Floor.session? at open_
    split at open_
    · cases open_
    · exact open_
  split
  · exact .inl rfl
  split
  · exact .inl rfl
  next b _ =>
  split
  · exact .inr ⟨f, x, b, hf, sess, rfl⟩
  · exact .inl rfl

/-- The current bank of a floor whose other bank is written stands. -/
theorem bank_writeOther {y : Floor} {x : Session} (sess : y.sess = some x) (b : Bank) :
    Floor.bank { y with sess := some (x.setBank x.current.other b) } = y.bank := by
  simp [Floor.bank, sess, Swaps.setBank_current, bank_setBank_ne x (other_ne x.current)]

/-- The non-current bank replaced, by which bank that is. -/
theorem setBank_other (x : Session) (b : Bank) :
    x.setBank x.current.other b = match x.current with
      | .a => { x with bankB := b }
      | .b => { x with bankA := b } := by
  obtain ⟨_, _, _, _, _, current⟩ := x
  cases current <;> rfl

/-- A session is itself with its non-current bank as it stands. -/
theorem setBank_other_same (x : Session) : x.setBank x.current.other (x.bank x.current.other) = x := by
  obtain ⟨_, _, _, _, _, current⟩ := x
  cases current <;> rfl

theorem otherBank_stands {o : Option Session} {x : Session} (sess : o = some x) :
    ∃ b, o = some (match x.current with
      | .a => { x with bankB := b }
      | .b => { x with bankA := b }) :=
  ⟨x.bank x.current.other, by rw [← setBank_other, setBank_other_same, sess]⟩

/-- Settles O40: the one field by the checks of 03 R51; the read by 03 R50; the frame by `bankWrite_cases`. -/
theorem bankWriteAndRead : Obligations.BankWriteAndRead := by
  refine ⟨fun fb v f x s h hf opened sess unpending lo hi valid => ?_, fun fb f x s h hf opened sess whole => ?_,
    fun fb items s t e => ?_⟩
  · show execBankWrite fb [⟨1#8, v⟩] s = _
    refine request_answers (n := 7) h ?_
    have fields : itemFields [⟨1#8, v⟩] = some [(.limit, v.toNat)] := rfl
    have merged : ∀ b : Bank, b.merge [(.limit, v.toNat)] = some { b with limit := v.toNat } := fun b => by
      simp [Bank.merge, Bank.withField, within_eq lo hi]
    have stays : Bank.valid { x.bank x.current.other with limit := v.toNat } = true := valid
    simp only [withFloor_eq hf, fields, session?_open opened, sess]
    rw [if_neg (by simp [unpending])]
    simp only [merged, stays]
    rfl
  · show execBankRead fb 2#8 s = _
    refine request_answers h ?_
    have named : bankNameOf 2#8 = some .current := rfl
    simp [named, withSession_eq hf opened sess, adoptedSlots, whole]
  · obtain same | ⟨f, x, b, hf, sess, world⟩ := bankWrite_cases s.world fb items rfl e
    · rw [same]
      exact ⟨fun g => ⟨rfl, rfl, id, fun x k => otherBank_stands k, fun _ => rfl⟩, rfl⟩
    · rw [world]
      refine ⟨fun g => ?_, rfl⟩
      simp only [inHall_hall, Hall.floor_updFloor]
      by_cases c : f = g
      · subst c
        simp only [if_true]
        refine ⟨bank_writeOther sess b, trivial, fun none_ => ?_, fun y k => ⟨b, ?_⟩, fun ne => absurd hf ne⟩
        · rw [sess] at none_
          cases none_
        · rw [sess] at k
          cases k
          exact congrArg some (setBank_other x b)
      · simp only [c, if_false]
        exact ⟨trivial, trivial, id, fun x k => otherBank_stands k, fun _ => trivial⟩

/-- The world with a swap completed at once and the arbiter run (03 R53). -/
def swapped (w : World) (f : FloorId) : World :=
  inHall w ((w.hall.completeSwap w.clock f).arbitrate w.clock)

@[simp] theorem done_world (w : World) : (done w).world = w := rfl

/-- A swap completed at once: the other bank is current and nothing is pending, also after the arbiter's run (03 R56). -/
theorem swapped_flips {w : World} {f : FloorId} {x : Session} (sess : (w.hall.floor f).sess = some x) :
    ∃ y, ((swapped w f).hall.floor f).sess = some y ∧ y.current = x.current.other ∧
      ((swapped w f).hall.floor f).swapPending = false := by
  have swaps : (swapped w f).hall.swaps = (w.hall.updFloor f Floor.flip).swaps := by
    rw [swapped, inHall_hall, Swaps.arbitrate, Swaps.completeSwap]
  obtain ⟨-, current, pending⟩ := Hall.swaps_floor swaps f
  rw [Hall.floor_updFloor, if_pos rfl] at current pending
  simp only [Floor.flip_sess, sess, Option.map_some] at current
  obtain ⟨y, hy, flipped⟩ := Option.map_eq_some_iff.mp current
  exact ⟨y, hy, flipped, pending⟩

theorem exec_bankSwapForce {fb : Byte} {f : FloorId} {x : Session} {s : State} (h : s.takes)
    (hf : fb.toNat = f.val + 1) (opened : (s.world.hall.floor f).state ≠ .closed)
    (sess : (s.world.hall.floor f).sess = some x) :
    exec (.bankSwapForce fb) s = .next (s.answered 5 0x36#8 (done (swapped s.world f))) := by
  show execBankSwapForce fb s = _
  exact request_answers h (withSession_eq hf opened sess _)

theorem exec_bankSwapNormal_quiet {fb : Byte} {f : FloorId} {x : Session} {s : State} (h : s.takes)
    (hf : fb.toNat = f.val + 1) (opened : (s.world.hall.floor f).state ≠ .closed)
    (sess : (s.world.hall.floor f).sess = some x) (unpending : (s.world.hall.floor f).swapPending = false)
    (quiet : (s.world.hall.floor f).delegates = 0) :
    exec (.bankSwapNormal fb) s = .next (s.answered 5 0x36#8 (done (swapped s.world f))) := by
  show execBankSwapNormal fb s = _
  refine request_answers h ?_
  rw [withSession_eq hf opened sess, if_neg (by simp [unpending]), if_pos (by simp [quiet])]
  rfl

/-- Settles O41: on a floor with delegates the swap waits; on a quiet one, and under FORCE, it completes
(`swapped_flips`). -/
theorem bankSwap : Obligations.BankSwap := by
  refine ⟨fun fb f x s h hf live sess unpending busy => ?_, fun fb f x s h hf opened sess unpending quiet => ?_,
    fun fb f x s h hf opened sess => ?_⟩
  · show execBankSwapNormal fb s = _
    refine request_answers h ?_
    have opened : (s.world.hall.floor f).state ≠ .closed := by simp [live]
    have busy : ¬ (s.world.hall.floor f).delegates = 0 := by omega
    rw [withSession_eq hf opened sess, if_neg (by simp [unpending]), if_neg (by simp [Floor.isLive, live, busy])]
    rfl
  · obtain ⟨y, flipped, current, unpending'⟩ := swapped_flips sess
    refine ⟨_, y, exec_bankSwapNormal_quiet h hf opened sess unpending quiet, ?_, current, ?_, (answered_port _ _ _ _).1⟩
    · rw [State.answered_world, done_world]
      exact flipped
    · rw [State.answered_world, done_world]
      exact unpending'
  · obtain ⟨y, flipped, current, unpending⟩ := swapped_flips sess
    refine ⟨_, y, exec_bankSwapForce h hf opened sess, ?_, current, ?_, (answered_port _ _ _ _).1⟩
    · rw [State.answered_world, done_world]
      exact flipped
    · rw [State.answered_world, done_world]
      exact unpending

/-! ## FLOOR_OPEN (03 R42, R43) -/

/-- An original channel allocated to a CLOSED floor: no map changes, so that none is reported (06 R102). -/
theorem allocate_original {h : Hall} {f : FloorId} {c : ChannelId} (closed : (h.floor f).state = .closed)
    (free : (h.channels.get c).use = none) (lowest : ∀ d, d < c → (h.channels.get d).use ≠ none) :
    h.allocate none f .original 0 = some (h.fillChannel c f .original 0, c) := by
  have at_ : h.freeChannel none = some c := by
    rw [Hall.freeChannel]
    exact Tbl.lowest_eq (by simp [free]) fun d k => by simpa [Option.isSome_iff_ne_none] using lowest d k
  have dark : ((h.fillChannel c f .original 0).floor f).isLive = false := by
    rw [Hall.floor, Hall.floors_of_talk (Talk.fillChannel h c f .original 0)]
    show decide ((h.floor f).state = .live) = false
    simp [closed]
  have map : ((h.fillChannel c f .original 0).channels.get c).mapFloor = some f := by
    simp [Hall.fillChannel, closed, Channel.mapFloor]
  simp [Hall.allocate, at_, map, Hall.mapReportOf, Hall.mapReport, dark]

/-- The hall after FLOOR_OPEN has taken a channel. -/
def openedHall (w : World) (f : FloorId) (a : SectionId) (p : Nat) (c : ChannelId) : Hall :=
  (w.hall.fillChannel c f .original 0).openFloor w.layout.walls f a p c

section

variable (w : World) (f : FloorId) (a : SectionId) (p : Nat) (c : ChannelId)

theorem openedHall_floor (g : FloorId) : (openedHall w f a p c).floor g =
    if f = g then Floor.opened a p c (component w.layout.walls a) else w.hall.floor g := by
  have floors := Hall.floors_of_talk (Talk.fillChannel w.hall c f .original 0)
  have same : (openedHall w f a p c).floor g = ((w.hall.fillChannel c f .original 0).updFloor f fun _ =>
      Floor.opened a p c (component w.layout.walls a)).floor g :=
    congrArg (fun t => t.get g) (Hall.retune_floors _ _)
  rw [same, Hall.floor_updFloor, Hall.floor, Hall.floor, floors]

theorem openedHall_channels (closed : (w.hall.floor f).state = .closed) : (openedHall w f a p c).channels =
    w.hall.channels.set c ⟨some ⟨.owned, f, some 0, .original⟩, .floorMix f⟩ := by
  simp [openedHall, Hall.openFloor, Hall.membersReport, Hall.fillChannel, closed]

theorem openedHall_rest :
    (openedHall w f a p c).booths = w.hall.booths ∧ (openedHall w f a p c).slots = w.hall.slots := by
  simp [openedHall, Hall.openFloor, Hall.membersReport, Hall.fillChannel]

end

/-- Settles O35: the checks pass in the order of 03 R42, the lowest FREE channel is taken (`allocate_original`), and the
record is filled (03 R43). -/
theorem floorOpen : Obligations.FloorOpen := by
  intro fb ab pb f a c s h hf ha hp closed active dark free lowest
  have run : exec (.floorOpen fb ab pb) s = .next (s.answered 6 0x30#8
      ⟨inHall s.world (openedHall s.world f a pb.toNat c), .ok,
        .floorOpened c (component s.world.layout.walls a)⟩) := by
    show execFloorOpen fb ab pb s = _
    refine request_answers h ?_
    simp only [numbered_eq hf, numbered_eq ha, within_eq (Nat.zero_le _) hp]
    rw [openRequest, if_neg (by simp [closed]), if_neg (by simp [active]), if_neg (by simp [dark]),
      allocate_original closed free lowest]
    rfl
  obtain ⟨booths, slots⟩ := openedHall_rest s.world f a pb.toNat c
  refine ⟨_, _, rfl, run, ?_, fun g ne => ?_, openedHall_channels s.world f a pb.toNat c closed, booths, slots,
    (answered_port _ _ _ _).1⟩
  · exact (openedHall_floor s.world f a pb.toNat c f).trans (if_pos rfl)
  · exact (openedHall_floor s.world f a pb.toNat c g).trans (if_neg (Ne.symm ne))

end Sys2Proof.Machine

/-! PROOFS. What the operations of the Speech Arbiter on one floor leave as it was: every other floor, what the channel and
booth blocks hold, the desk fields of every seat, and the last turn of every seat that does not speak on the floor. -/

namespace Sys2Proof

/-! ## Desk fields -/

def SeatPos.deskFields : SeatPos → Option DeskFields
  | .held r => r.desk
  | _ => none

/-- The desk fields of every position. -/
def Hall.desks (h : Hall) : Tbl (Option DeskFields) 256 :=
  h.seats.imap fun _ p => p.deskFields

theorem Hall.desk?_eq (h : Hall) (n : SeatId) : h.desk? n = h.desks.get n := by
  unfold Hall.desk? Hall.seat? Hall.desks
  rw [Tbl.get_imap]
  cases h.seats.get n <;> rfl

theorem Hall.desk?_of_desks {h g : Hall} (k : g.desks = h.desks) (n : SeatId) : g.desk? n = h.desk? n := by
  rw [Hall.desk?_eq, Hall.desk?_eq, k]

namespace Desks

theorem same {h g : Hall} (k : g.seats = h.seats) : g.desks = h.desks := by
  unfold Hall.desks
  rw [k]

theorem updSeat (h : Hall) (n : SeatId) (f : Seat → Seat) (k : ∀ r, (f r).desk = r.desk) :
    (h.updSeat n f).desks = h.desks := by
  unfold Hall.updSeat
  cases hp : h.seats.get n with
  | held r =>
    refine Tbl.ext_get fun i => ?_
    by_cases e : n = i
    · subst e
      simp [Hall.desks, hp, SeatPos.deskFields, k r]
    · simp [Hall.desks, Tbl.get_set, e]
  | free => rfl
  | reserved => rfl

theorem recompose (h : Hall) (n : SeatId) : (h.recompose n).desks = h.desks := updSeat h n _ fun _ => rfl

theorem recomposeAll (h : Hall) (ns : List SeatId) : (h.recomposeAll ns).desks = h.desks :=
  foldl_keeps recompose ns h

theorem retune (h : Hall) (p : SeatId → Seat → Bool) : (h.retune p).desks = h.desks := by
  refine Tbl.ext_get fun i => ?_
  simp only [Hall.desks, Hall.retune, Tbl.get_imap]
  cases h.seats.get i with
  | held r =>
    simp only [Hall.retuned]
    split <;> rfl
  | free => rfl
  | reserved => rfl

theorem setGate (h : Hall) (k : SlotId) (b : Bool) : (h.setGate k b).desks = h.desks := by
  refine same ?_
  unfold Hall.setGate
  repeat' split
  all_goals simp

theorem setMutes (h : Hall) (f : FloorId) (e : Speaker) (p l : Bool) : (h.setMutes f e p l).desks = h.desks := by
  unfold Hall.setMutes
  split
  · rfl
  · exact (recompose _ _).trans (setGate _ _ _)

theorem removeEntry (h : Hall) (f : FloorId) (n : SeatId) (c : RemovalCause) :
    (h.removeEntry f n c).desks = h.desks :=
  (recompose _ n).trans (recomposeAll _ _)

theorem joinQueue (h : Hall) (f : FloorId) (k : Nat) (e : Waiting) : (h.joinQueue f k e).desks = h.desks :=
  (recompose _ _).trans (recomposeAll _ _)

theorem grant (now : Clock) (h : Hall) (f : FloorId) (n : SeatId) (k : SlotId) :
    (h.grant now f n k).desks = h.desks := by
  unfold Hall.grant
  exact (recomposeAll _ _).trans ((recompose _ n).trans (same (by simp [Hall.unqueue])))

theorem writeLastTurn (h : Hall) (n : SeatId) (t : LastTurn) : (h.writeLastTurn n t).desks = h.desks := by
  unfold Hall.writeLastTurn
  split
  · exact (same (Hall.mark_seats _ n)).trans (updSeat h n _ fun _ => rfl)
  · rfl

theorem releaseSlot (h : Hall) (k : SlotId) (b : Bool) : (h.releaseSlot k b).desks = h.desks := by
  refine same ?_
  unfold Hall.releaseSlot
  split <;> simp

theorem closeTurn (now : Clock) (h : Hall) (f : FloorId) (n : SeatId) (c : TurnCause) (b : Bool) :
    (h.closeTurn now f n c b).desks = h.desks := by
  unfold Hall.closeTurn
  split
  · exact (recompose _ n).trans ((releaseSlot _ _ b).trans (writeLastTurn _ n _))
  · rfl

end Desks

/-! ## Last turns -/

namespace Turns

theorem updSeat_ne (h : Hall) {m n : SeatId} (ne : m ≠ n) (f : Seat → Seat) :
    (h.updSeat m f).turns.get n = h.turns.get n := by
  unfold Hall.updSeat
  cases hp : h.seats.get m with
  | held r => simp [Hall.turns, Tbl.get_set, ne]
  | free => rfl
  | reserved => rfl

theorem setMutes (h : Hall) (f : FloorId) (e : Speaker) (p l : Bool) : (h.setMutes f e p l).turns = h.turns := by
  unfold Hall.setMutes
  split
  · rfl
  · refine (recompose _ _).trans (same ?_)
    unfold Hall.setGate
    (repeat' split) <;> simp

theorem removeEntry (h : Hall) (f : FloorId) (n : SeatId) (c : RemovalCause) :
    (h.removeEntry f n c).turns = h.turns :=
  (recompose _ n).trans (recomposeAll _ _)

theorem joinQueue (h : Hall) (f : FloorId) (k : Nat) (e : Waiting) : (h.joinQueue f k e).turns = h.turns :=
  (recompose _ _).trans (recomposeAll _ _)

end Turns

/-! ## Voice slots of the primitive steps -/

theorem Hall.removeEntry_slots (h : Hall) (f : FloorId) (n : SeatId) (c : RemovalCause) :
    (h.removeEntry f n c).slots = h.slots := by
  simp [Hall.removeEntry, Hall.queueReport, Hall.recomposeQueue, Hall.unqueue]

theorem Hall.joinQueue_slots (h : Hall) (f : FloorId) (k : Nat) (e : Waiting) :
    (h.joinQueue f k e).slots = h.slots := by
  simp [Hall.joinQueue, Hall.queueReport, Hall.recomposeQueue]

theorem Hall.setGate_slots (h : Hall) (k j : SlotId) (b : Bool) : (h.setGate k b).slots.get j =
    if k = j then (h.slots.get j).map fun v => { v with gateOpen := b } else h.slots.get j := by
  by_cases c : k = j
  · subst c
    unfold Hall.setGate
    cases hv : h.slots.get k with
    | none => simp [hv]
    | some v =>
      simp only []
      split
      next same => simp [hv, ← same]
      · simp
  · rw [if_neg c]
    unfold Hall.setGate
    (repeat' split) <;> simp [Tbl.get_set, c]

theorem Hall.setMutes_slots (h : Hall) (f : FloorId) (e : Speaker) (p l : Bool) (j : SlotId) :
    (h.setMutes f e p l).slots.get j =
      if e.priorityMute = p ∧ e.linkMute = l then h.slots.get j
      else if e.slot = j then (h.slots.get j).map fun v => { v with gateOpen := !(p || l) } else h.slots.get j := by
  unfold Hall.setMutes
  split
  · rfl
  · simp [Hall.setGate_slots]

/-- A turn end leaves every slot but the speaker's, which falls FREE unless it is passed on (04 R66 step 4). -/
theorem Hall.closeTurn_slots (now : Clock) (h : Hall) (f : FloorId) (n : SeatId) (c : TurnCause) (b : Bool) :
    (h.closeTurn now f n c b).slots =
      match (h.floor f).speakers.find? fun e => e.seat = n with
      | some e => if b then h.slots else h.slots.set e.slot none
      | none => h.slots := by
  have last : ∀ g t, (Hall.writeLastTurn g n t).slots = g.slots := by
    intro g t
    unfold Hall.writeLastTurn
    split <;> simp
  unfold Hall.closeTurn
  cases (h.floor f).speakers.find? fun e => e.seat = n with
  | some e => cases b <;> simp [Hall.releaseSlot, last]
  | none => rfl

/-- The seat whose turn ends has it written as its last turn, and no other seat's changes (04 R66 step 3). -/
theorem Hall.closeTurn_turns (now : Clock) (h : Hall) (f : FloorId) {m n : SeatId} (c : TurnCause) (b : Bool)
    (still : m ≠ n ∨ ∀ e ∈ (h.floor f).speakers, e.seat ≠ n) :
    (h.closeTurn now f n c b).turns.get m = h.turns.get m := by
  unfold Hall.closeTurn
  split
  next e found =>
    have ne : n ≠ m := by
      rintro rfl
      exact still.elim (fun k => k rfl) fun k => k e (List.mem_of_find?_eq_some found) (by
        simpa using List.find?_some found)
    have last : ∀ g t, (Hall.writeLastTurn g n t).turns.get m = g.turns.get m := by
      intro g t
      unfold Hall.writeLastTurn
      split
      · exact (congrArg (fun t => t.get m) (Turns.same (Hall.mark_seats _ n))).trans (Turns.updSeat_ne g ne _)
      · rfl
    have slot : ∀ g : Hall, (g.releaseSlot e.slot b).turns = g.turns := fun g => Turns.same (by
      unfold Hall.releaseSlot
      split <;> simp)
    rw [Turns.recompose]
    refine (congrArg (fun t => t.get m) (slot _)).trans (last _ _)
  next none_ => rfl

/-! ## Operations local to one floor -/

theorem Hall.floor_of_upd {h g : Hall} {f : FloorId} {k : Floor → Floor} (e : g.floors = h.floors.upd f k)
    (i : FloorId) : g.floor i = if f = i then k (h.floor f) else h.floor i := by
  have same : g.floor i = (h.updFloor f k).floor i := congrArg (fun t => t.get i) e
  rw [same, Hall.floor_updFloor]

theorem Hall.floor_of_floors {h g : Hall} (e : g.floors = h.floors) (i : FloorId) : g.floor i = h.floor i :=
  congrArg (fun t => t.get i) e

/-- What the ends of turns, queue changes and mutes on floor x can do: they write the lists of x and its last queue removal,
and no seat begins to speak. -/
structure LocalTo (x : FloorId) (h g : Hall) : Prop where
  others : ∀ f, f ≠ x → g.floor f = h.floor f
  lists : ∃ s q l, g.floor x = { h.floor x with speakers := s, queue := q, lastRemoval := l }
  fewer : ∀ e ∈ (g.floor x).speakers, ∃ d ∈ (h.floor x).speakers, d.seat = e.seat
  still : ∀ n, (∀ e ∈ (h.floor x).speakers, e.seat ≠ n) → g.turns.get n = h.turns.get n
  sound : g.sound = h.sound
  desks : g.desks = h.desks

namespace LocalTo

variable {x : FloorId} {h g : Hall}

theorem refl (x : FloorId) (h : Hall) : LocalTo x h h :=
  ⟨fun _ _ => rfl, ⟨_, _, _, rfl⟩, fun e m => ⟨e, m, rfl⟩, fun _ _ => rfl, rfl, rfl⟩

theorem trans {a b c : Hall} (p : LocalTo x a b) (q : LocalTo x b c) : LocalTo x a c where
  others f ne := (q.others f ne).trans (p.others f ne)
  lists := by
    obtain ⟨s, r, l, e⟩ := p.lists
    obtain ⟨s', r', l', e'⟩ := q.lists
    exact ⟨s', r', l', by rw [e', e]⟩
  fewer e m := by
    obtain ⟨d, m', same⟩ := q.fewer e m
    obtain ⟨d', m'', same'⟩ := p.fewer d m'
    exact ⟨d', m'', same'.trans same⟩
  still n silent := by
    refine (q.still n fun e m k => ?_).trans (p.still n silent)
    obtain ⟨d, m', same⟩ := p.fewer e m
    exact silent d m' (same.trans k)
  sound := q.sound.trans p.sound
  desks := q.desks.trans p.desks

theorem foldl {β : Type} {f : Hall → β → Hall} (step : ∀ h b, LocalTo x h (f h b)) (l : List β) (h : Hall) :
    LocalTo x h (l.foldl f h) :=
  foldl_rel (refl x) (fun _ _ _ => trans) step l h

/-- An operation that rewrites the record of x. -/
theorem of_upd {k : Floor → Floor} (floors : g.floors = h.floors.upd x k)
    (lists : ∃ s q l, k (h.floor x) = { h.floor x with speakers := s, queue := q, lastRemoval := l })
    (fewer : ∀ e ∈ (k (h.floor x)).speakers, ∃ d ∈ (h.floor x).speakers, d.seat = e.seat)
    (still : ∀ n, (∀ e ∈ (h.floor x).speakers, e.seat ≠ n) → g.turns.get n = h.turns.get n)
    (sound : g.sound = h.sound) (desks : g.desks = h.desks) : LocalTo x h g where
  others f ne := by rw [Hall.floor_of_upd floors, if_neg (Ne.symm ne)]
  lists := by rwa [Hall.floor_of_upd floors, if_pos rfl]
  fewer := by rwa [Hall.floor_of_upd floors, if_pos rfl]
  still := still
  sound := sound
  desks := desks

theorem raiseIf (x : FloorId) (h : Hall) (b : Bool) (i : AttnItem) : LocalTo x h (h.raiseIf b i) where
  others _ _ := Hall.floor_of_floors (Hall.raiseIf_floors h b i) _
  lists := ⟨_, _, _, Hall.floor_of_floors (Hall.raiseIf_floors h b i) x⟩
  fewer e m := ⟨e, by rwa [Hall.floor_of_floors (Hall.raiseIf_floors h b i)] at m, rfl⟩
  still n _ := by rw [Turns.same (Hall.raiseIf_seats h b i)]
  sound := Sound.raiseIf h b i
  desks := Desks.same (Hall.raiseIf_seats h b i)

theorem closeTurn (now : Clock) (h : Hall) (x : FloorId) (n : SeatId) (c : TurnCause) (b : Bool) :
    LocalTo x h (h.closeTurn now x n c b) :=
  of_upd (Hall.closeTurn_floors now h x n c b) ⟨_, _, _, rfl⟩ (fun e m => ⟨e, List.mem_of_mem_filter m, rfl⟩)
    (fun m silent => Hall.closeTurn_turns now h x c b (by
      by_cases e : m = n
      · exact .inr (e ▸ silent)
      · exact .inl e))
    (Sound.closeTurn now h x n c b) (Desks.closeTurn now h x n c b)

theorem closeTurns (now : Clock) (h : Hall) (x : FloorId) (ns : List SeatId) (c : TurnCause) :
    LocalTo x h (h.closeTurns now x ns c) :=
  foldl (fun g n => closeTurn now g x n c false) ns h

theorem removeEntry (h : Hall) (x : FloorId) (n : SeatId) (c : RemovalCause) : LocalTo x h (h.removeEntry x n c) :=
  of_upd (Hall.removeEntry_floors h x n c) ⟨_, _, _, rfl⟩ (fun e m => ⟨e, m, rfl⟩)
    (fun m _ => by rw [Turns.removeEntry]) (Sound.removeEntry h x n c) (Desks.removeEntry h x n c)

theorem removeEntries (h : Hall) (x : FloorId) (ns : List SeatId) (c : RemovalCause) :
    LocalTo x h (h.removeEntries x ns c) :=
  foldl (fun g n => removeEntry g x n c) ns h

theorem trimQueue (h : Hall) (x : FloorId) (c : RemovalCause) : LocalTo x h (h.trimQueue x c) := removeEntries h x _ c

theorem joinQueue (h : Hall) (x : FloorId) (k : Nat) (e : Waiting) : LocalTo x h (h.joinQueue x k e) :=
  of_upd (Hall.joinQueue_floors h x k e) ⟨_, _, _, rfl⟩ (fun e m => ⟨e, m, rfl⟩) (fun m _ => by rw [Turns.joinQueue])
    (Sound.joinQueue h x k e) (Desks.joinQueue h x k e)

theorem setMutes (h : Hall) (x : FloorId) (e : Speaker) (p l : Bool) : LocalTo x h (h.setMutes x e p l) := by
  by_cases c : e.priorityMute = p ∧ e.linkMute = l
  · have same : h.setMutes x e p l = h := if_pos c
    rw [same]
    exact refl x h
  · refine of_upd ((Hall.setMutes_floors h x e p l).trans (if_neg c)) ⟨_, _, _, rfl⟩ (fun d m => ?_)
      (fun m _ => by rw [Turns.setMutes]) (Sound.setMutes h x e p l) (Desks.setMutes h x e p l)
    obtain ⟨d', m', rfl⟩ := List.mem_map.mp m
    refine ⟨d', m', ?_⟩
    split <;> rfl

theorem remute (h : Hall) (x : FloorId) : LocalTo x h (h.remute x) := foldl (fun g _ => setMutes g x _ _ _) _ h

theorem closeExcessOne (now : Clock) (x : FloorId) (c : TurnCause) (h : Hall) (e : Speaker) :
    LocalTo x h (h.closeExcessOne now x c e) := by
  unfold Hall.closeExcessOne
  simp only []
  split
  · exact (closeTurn now h x _ c false).trans (joinQueue _ x 0 _)
  · exact closeTurn now h x _ c false

theorem closeExcess (now : Clock) (h : Hall) (x : FloorId) (c : TurnCause) : LocalTo x h (h.closeExcess now x c) :=
  foldl (closeExcessOne now x c) _ h

theorem requireBadges (now : Clock) (h : Hall) (x : FloorId) : LocalTo x h (h.requireBadges now x) := by
  unfold Hall.requireBadges
  split
  · exact (closeTurns now h x _ _).trans (removeEntries _ x _ _)
  · exact refl x h

/-! ### What such an operation keeps of the floor's record -/

theorem floor_eq (k : LocalTo x h g) : g.floor x = { h.floor x with
    speakers := (g.floor x).speakers, queue := (g.floor x).queue, lastRemoval := (g.floor x).lastRemoval } := by
  obtain ⟨s, q, l, e⟩ := k.lists
  rw [e]

theorem state (k : LocalTo x h g) (f : FloorId) : (g.floor f).state = (h.floor f).state := by
  by_cases e : f = x
  · rw [e, k.floor_eq]
  · rw [k.others f e]

theorem sess (k : LocalTo x h g) (f : FloorId) : (g.floor f).sess = (h.floor f).sess := by
  by_cases e : f = x
  · rw [e, k.floor_eq]
  · rw [k.others f e]

theorem bank (k : LocalTo x h g) (f : FloorId) : (g.floor f).bank = (h.floor f).bank := by
  unfold Floor.bank
  rw [k.sess]

theorem members (k : LocalTo x h g) (f : FloorId) : (g.floor f).members = (h.floor f).members := by
  by_cases e : f = x
  · rw [e, k.floor_eq]
  · rw [k.others f e]

theorem holders (k : LocalTo x h g) (f : FloorId) : (g.floor f).holders = (h.floor f).holders := by
  by_cases e : f = x
  · rw [e, k.floor_eq]
  · rw [k.others f e]

end LocalTo

end Sys2Proof

/-! PROOFS. Speaker lists, queues and voice slots by floor. The invariant of the Speech Arbiter is cut in two: what holds of
all the lists and slots together, and what each floor's record holds by itself. Each step of an event keeps the first, and
the second of every floor but its own. -/

namespace Sys2Proof

/-! ## Lists of numbers and sums over the floors -/

/-- Of a list without repeated keys, the entries whose key is not among those beyond the first k are the first k. -/
theorem filter_notMem_drop {α β : Type} [DecidableEq β] {key : α → β} {l : List α} (nodup : (l.map key).Nodup) (k : Nat) :
    l.filter (fun a => key a ∉ (l.drop k).map key) = l.take k := by
  conv_lhs => rw [← List.take_append_drop k l]
  have split : ((l.take k).map key ++ (l.drop k).map key).Nodup := by
    rwa [← List.map_append, List.take_append_drop]
  rw [List.filter_append]
  have first : (l.take k).filter (fun a => key a ∉ ((l.take k ++ l.drop k).drop k).map key) = l.take k := by
    rw [List.take_append_drop, List.filter_eq_self]
    intro a m
    have apart : key a ∉ (l.drop k).map key := fun again =>
      (List.nodup_append.mp split).2.2 (key a) (List.mem_map_of_mem m) _ again rfl
    exact decide_eq_true apart
  have rest : (l.drop k).filter (fun a => key a ∉ ((l.take k ++ l.drop k).drop k).map key) = [] := by
    rw [List.take_append_drop, List.filter_eq_nil_iff]
    exact fun a m => not_not_intro (List.mem_map_of_mem m) ∘ of_decide_eq_true
  rw [first, rest, List.append_nil]

theorem Tbl.rows_eq {α : Type} {n : Nat} (t : Tbl α n) : t.rows = (List.finRange n).map t.get := by
  refine List.ext_getElem (by simp [t.size]) fun i _ _ => ?_
  simp [Tbl.get]

/-- The entries that wait, over all floors (04 R63). -/
def Hall.waiting (h : Hall) : Nat :=
  ∑ f, (h.floor f).queue.length

theorem Hall.waiting_eq (h : Hall) : (h.floors.rows.map fun f => f.queue.length).sum = h.waiting := by
  rw [Tbl.rows_eq, List.map_map, Hall.waiting, Fin.sum_univ_def]
  rfl

/-- One queue longer by one makes one entry more in all. -/
theorem Hall.waiting_join {h g : Hall} {x : FloorId} (at_ : (g.floor x).queue.length ≤ (h.floor x).queue.length + 1)
    (others : ∀ f, f ≠ x → (g.floor f).queue = (h.floor f).queue) : g.waiting ≤ h.waiting + 1 := by
  have each : ∀ f, (g.floor f).queue.length ≤ (h.floor f).queue.length + if f = x then 1 else 0 := by
    intro f
    by_cases e : f = x
    · rw [e, if_pos rfl]
      exact at_
    · rw [others f e, if_neg e, Nat.add_zero]
  calc g.waiting ≤ ∑ f, ((h.floor f).queue.length + if f = x then 1 else 0) := Finset.sum_le_sum fun f _ => each f
    _ = h.waiting + 1 := by rw [Finset.sum_add_distrib]; simp [Hall.waiting]

/-- Entries moved from one queue to another leave as many in all. -/
theorem Hall.waiting_move {h g : Hall} {x y : FloorId} {k : Nat} (ne : x ≠ y)
    (from_ : (g.floor y).queue.length + k = (h.floor y).queue.length)
    (onto : (g.floor x).queue.length = (h.floor x).queue.length + k)
    (others : ∀ f, f ≠ x → f ≠ y → (g.floor f).queue = (h.floor f).queue) : g.waiting = h.waiting := by
  have each : ∀ f, (g.floor f).queue.length + (if f = y then k else 0) =
      (h.floor f).queue.length + if f = x then k else 0 := by
    intro f
    by_cases ex : f = x
    · subst ex
      rw [if_pos rfl, if_neg ne, onto, Nat.add_zero]
    · by_cases ey : f = y
      · subst ey
        rw [if_pos rfl, if_neg ex, from_, Nat.add_zero]
      · rw [others f ex ey, if_neg ex, if_neg ey]
  have sums := Finset.sum_congr (rfl : (Finset.univ : Finset FloorId) = _) fun f _ => each f
  rw [Finset.sum_add_distrib, Finset.sum_add_distrib] at sums
  simpa [Hall.waiting] using sums

/-! ## The invariant, of all lists together and of each floor -/

/-- The seats of a floor's speaker list and queue. -/
def Floor.seats (x : Floor) : List SeatId :=
  x.speakers.map (·.seat) ++ x.queue.map (·.seat)

/-- What holds of the lists and the voice slots together (04 R61 to R64). -/
structure Hall.Listed (h : Hall) : Prop where
  nodup : ∀ f, (h.floor f).seats.Nodup
  one : ∀ f g n, n ∈ (h.floor f).seats → n ∈ (h.floor g).seats → f = g
  pool : h.waiting ≤ 96
  held : ∀ f e, e ∈ (h.floor f).speakers → h.slots.get e.slot = some ⟨e.seat, f, !e.muted⟩
  stood : ∀ k v, h.slots.get k = some v → ∃ e ∈ (h.floor v.floor).speakers, e.slot = k ∧ e.seat = v.seat

/-- What a floor's record holds by itself: empty lists unless LIVE, its limit and its cap (03 R57). -/
structure Floor.Fits (x : Floor) : Prop where
  empty : x.state ≠ .live → x.speakers = [] ∧ x.queue = []
  limit : x.delegates ≤ x.bank.limit
  cap : x.queue.length ≤ x.bank.cap

theorem Hall.listed_nodup_iff (h : Hall) : h.listed.Nodup ↔
    (∀ f, (h.floor f).seats.Nodup) ∧ ∀ f g n, n ∈ (h.floor f).seats → n ∈ (h.floor g).seats → f = g := by
  unfold Hall.listed
  rw [List.nodup_flatMap]
  refine and_congr ⟨fun k f => k f (List.mem_finRange f), fun k f _ => k f⟩ ⟨fun k f g n mf mg => ?_, fun k => ?_⟩
  · by_contra ne
    have : Std.Symm (Function.onFun List.Disjoint fun f : FloorId =>
      (h.floor f).speakers.map (·.seat) ++ (h.floor f).queue.map (·.seat)) := ⟨fun _ _ d => List.Disjoint.symm d⟩
    exact k.forall (List.mem_finRange f) (List.mem_finRange g) ne mf mg
  · refine (List.nodup_finRange 6).imp fun ne n mf mg => ne (k _ _ n mf mg)

theorem Machine.speechInv_iff {h : Hall} : Machine.SpeechInv h ↔ h.Listed ∧ ∀ f, (h.floor f).Fits := by
  constructor
  · rintro ⟨nodup, empty, bounds, pool, held, stood⟩
    obtain ⟨each, one⟩ := h.listed_nodup_iff.mp nodup
    exact ⟨⟨each, one, by rwa [← Hall.waiting_eq], held, stood⟩,
      fun f => ⟨empty f, (bounds f).1, (bounds f).2⟩⟩
  · rintro ⟨⟨each, one, pool, held, stood⟩, fits⟩
    exact ⟨h.listed_nodup_iff.mpr ⟨each, one⟩, fun f => (fits f).empty, fun f => ⟨(fits f).limit, (fits f).cap⟩,
      by rwa [Hall.waiting_eq], held, stood⟩

/-! ## What the invariant reads -/

/-- What the invariant reads of a speaker entry. -/
def Speaker.key (e : Speaker) : SeatId × SpeakerKind × SlotId × Bool :=
  (e.seat, e.kind, e.slot, e.muted)

/-- What the invariant reads of a floor. -/
def Floor.lists (x : Floor) : List (SeatId × SpeakerKind × SlotId × Bool) × List SeatId :=
  (x.speakers.map Speaker.key, x.queue.map (·.seat))

theorem map_of_key {a b : List Speaker} (k : a.map Speaker.key = b.map Speaker.key) {γ : Type}
    (p : SeatId × SpeakerKind × SlotId × Bool → γ) : a.map (fun e => p e.key) = b.map fun e => p e.key := by
  have := congrArg (List.map p) k
  rwa [List.map_map, List.map_map] at this

theorem mem_of_key {a b : List Speaker} (k : a.map Speaker.key = b.map Speaker.key) {e : Speaker} (m : e ∈ a) :
    ∃ d ∈ b, d.seat = e.seat ∧ d.kind = e.kind ∧ d.slot = e.slot ∧ d.muted = e.muted := by
  have : e.key ∈ b.map Speaker.key := k ▸ List.mem_map_of_mem m
  obtain ⟨d, md, same⟩ := List.mem_map.mp this
  simp only [Speaker.key, Prod.mk.injEq] at same
  exact ⟨d, md, same⟩

theorem seats_of_lists {x y : Floor} (k : y.lists = x.lists) : y.seats = x.seats := by
  obtain ⟨speakers, queue⟩ := Prod.mk.inj k
  have seats : y.speakers.map (·.seat) = x.speakers.map (·.seat) := map_of_key speakers (·.1)
  rw [Floor.seats, Floor.seats, seats, queue]

theorem length_of_lists {x y : Floor} (k : y.lists = x.lists) : y.queue.length = x.queue.length := by
  have := congrArg List.length (Prod.mk.inj k).2
  simpa using this

theorem delegates_eq (x : Floor) : x.delegates = (x.speakers.map (·.kind)).countP (· = .delegate) := by
  simp [Floor.delegates, List.countP_map, Function.comp_def]

theorem delegates_of_lists {x y : Floor} (k : y.lists = x.lists) : y.delegates = x.delegates := by
  have kinds : y.speakers.map (·.kind) = x.speakers.map (·.kind) := map_of_key (Prod.mk.inj k).1 (·.2.1)
  rw [delegates_eq, delegates_eq, kinds]

theorem Hall.Listed.of_lists {h g : Hall} (l : h.Listed) (lists : ∀ f, (g.floor f).lists = (h.floor f).lists)
    (slots : g.slots = h.slots) : g.Listed where
  nodup f := by rw [seats_of_lists (lists f)]; exact l.nodup f
  one f k n := by rw [seats_of_lists (lists f), seats_of_lists (lists k)]; exact l.one f k n
  pool := by
    have same : g.waiting = h.waiting := Finset.sum_congr rfl fun f _ => length_of_lists (lists f)
    rw [same]
    exact l.pool
  held f e m := by
    obtain ⟨d, md, seat, -, slot, muted⟩ := mem_of_key (Prod.mk.inj (lists f)).1 m
    rw [slots, ← seat, ← slot, ← muted]
    exact l.held f d md
  stood k v at_ := by
    rw [slots] at at_
    obtain ⟨e, m, slot, seat⟩ := l.stood k v at_
    obtain ⟨d, md, seat', -, slot', -⟩ := mem_of_key (Prod.mk.inj (lists v.floor)).1.symm m
    exact ⟨d, md, slot'.trans slot, seat'.trans seat⟩

theorem Floor.Fits.of_lists {x y : Floor} (fits : x.Fits) (lists : y.lists = x.lists) (state : y.state = x.state)
    (limit : y.bank.limit = x.bank.limit) (cap : y.bank.cap = x.bank.cap) : y.Fits where
  empty k := by
    rw [state] at k
    obtain ⟨speakers, queue⟩ := fits.empty k
    have none_ : y.lists = ([], []) := by rw [lists]; simp [Floor.lists, speakers, queue]
    simpa [Floor.lists] using none_
  limit := by rw [delegates_of_lists lists, limit]; exact fits.limit
  cap := by rw [length_of_lists lists, cap]; exact fits.cap

/-- What the invariant reads of the hall. -/
structure SameSpeech (h g : Hall) : Prop where
  lists : ∀ f, (g.floor f).lists = (h.floor f).lists
  state : ∀ f, (g.floor f).state = (h.floor f).state
  limit : ∀ f, (g.floor f).bank.limit = (h.floor f).bank.limit
  cap : ∀ f, (g.floor f).bank.cap = (h.floor f).bank.cap
  slots : g.slots = h.slots

namespace SameSpeech

theorem refl (h : Hall) : SameSpeech h h := ⟨fun _ => rfl, fun _ => rfl, fun _ => rfl, fun _ => rfl, rfl⟩

theorem trans {a b c : Hall} (p : SameSpeech a b) (q : SameSpeech b c) : SameSpeech a c :=
  ⟨fun f => (q.lists f).trans (p.lists f), fun f => (q.state f).trans (p.state f),
    fun f => (q.limit f).trans (p.limit f), fun f => (q.cap f).trans (p.cap f), q.slots.trans p.slots⟩

theorem foldl {β : Type} {f : Hall → β → Hall} (step : ∀ h b, SameSpeech h (f h b)) (l : List β) (h : Hall) :
    SameSpeech h (l.foldl f h) :=
  foldl_rel refl (fun _ _ _ => trans) step l h

theorem of_floors {h g : Hall} (floors : g.floors = h.floors) (slots : g.slots = h.slots) : SameSpeech h g := by
  have same := Hall.floor_of_floors floors
  exact ⟨fun f => by rw [same], fun f => by rw [same], fun f => by rw [same], fun f => by rw [same], slots⟩

theorem of_talk {h g : Hall} (k : g.talk = h.talk) : SameSpeech h g :=
  of_floors (Hall.floors_of_talk k) (Hall.slots_of_talk k)

/-- One floor's record rewritten but for what the invariant reads of it. -/
theorem of_upd {h g : Hall} {x : FloorId} {k : Floor → Floor} (floors : g.floors = h.floors.upd x k)
    (slots : g.slots = h.slots) (lists : (k (h.floor x)).lists = (h.floor x).lists)
    (state : (k (h.floor x)).state = (h.floor x).state)
    (limit : (k (h.floor x)).bank.limit = (h.floor x).bank.limit)
    (cap : (k (h.floor x)).bank.cap = (h.floor x).bank.cap) : SameSpeech h g := by
  have each := Hall.floor_of_upd floors
  refine ⟨fun f => ?_, fun f => ?_, fun f => ?_, fun f => ?_, slots⟩ <;>
  · rw [each]
    split
    next e => subst e; assumption
    · rfl

theorem listed {h g : Hall} (k : SameSpeech h g) (l : h.Listed) : g.Listed := l.of_lists k.lists k.slots

theorem fits {h g : Hall} (k : SameSpeech h g) {f : FloorId} (fits : (h.floor f).Fits) : (g.floor f).Fits :=
  fits.of_lists (k.lists f) (k.state f) (k.limit f) (k.cap f)

theorem inv {h g : Hall} (k : SameSpeech h g) (i : Machine.SpeechInv h) : Machine.SpeechInv g := by
  obtain ⟨l, fits⟩ := Machine.speechInv_iff.mp i
  exact Machine.speechInv_iff.mpr ⟨k.listed l, fun f => k.fits (fits f)⟩

end SameSpeech

namespace Hall.Listed

variable {h g : Hall}

/-! ## Entries found by their seat and by their slot -/

theorem speaker_unique (l : h.Listed) {f : FloorId} {e d : Speaker} (me : e ∈ (h.floor f).speakers)
    (md : d ∈ (h.floor f).speakers) (seat : e.seat = d.seat) : e = d :=
  List.inj_on_of_nodup_map (List.nodup_append.mp (l.nodup f)).1 me md seat

theorem slot_unique (l : h.Listed) {f k : FloorId} {e d : Speaker} (me : e ∈ (h.floor f).speakers)
    (md : d ∈ (h.floor k).speakers) (slot : e.slot = d.slot) : f = k ∧ e = d := by
  have same := (l.held f e me).symm.trans ((congrArg h.slots.get slot).trans (l.held k d md))
  simp only [Option.some.injEq, HeldSlot.mk.injEq] at same
  obtain ⟨seat, rfl, -⟩ := same
  exact ⟨rfl, l.speaker_unique me md seat⟩

theorem mem_seats_speaker {x : Floor} {e : Speaker} (m : e ∈ x.speakers) : e.seat ∈ x.seats :=
  List.mem_append_left _ (List.mem_map_of_mem m)

theorem mem_seats_queue {x : Floor} {w : Waiting} (m : w ∈ x.queue) : w.seat ∈ x.seats :=
  List.mem_append_right _ (List.mem_map_of_mem m)

theorem not_speaks_of_queued (l : h.Listed) {f : FloorId} {w : Waiting} (m : w ∈ (h.floor f).queue) {e : Speaker}
    (me : e ∈ (h.floor f).speakers) : e.seat ≠ w.seat :=
  (List.nodup_append.mp (l.nodup f)).2.2 _ (List.mem_map_of_mem me) _ (List.mem_map_of_mem m)

/-- The speaker entry of a seat is found by its seat. -/
theorem find_speaker (l : h.Listed) {f : FloorId} {e : Speaker} (m : e ∈ (h.floor f).speakers) :
    (h.floor f).speakers.find? (fun d => d.seat = e.seat) = some e := by
  obtain ⟨d, found⟩ := Option.isSome_iff_exists.mp
    (List.find?_isSome.mpr ⟨e, m, by simp⟩ : ((h.floor f).speakers.find? fun d => d.seat = e.seat).isSome)
  rw [found, l.speaker_unique (List.mem_of_find?_eq_some found) m (by simpa using List.find?_some found)]

/-! ## Lists that lose entries -/

theorem seats_sublist {x y : Floor} (speakers : List.Sublist y.speakers x.speakers)
    (queue : List.Sublist y.queue x.queue) : List.Sublist y.seats x.seats :=
  (speakers.map _).append (queue.map _)

theorem shrink (l : h.Listed) (speakers : ∀ f, List.Sublist (g.floor f).speakers (h.floor f).speakers)
    (queue : ∀ f, List.Sublist (g.floor f).queue (h.floor f).queue)
    (held : ∀ f e, e ∈ (g.floor f).speakers → g.slots.get e.slot = h.slots.get e.slot)
    (stood : ∀ k v, g.slots.get k = some v → h.slots.get k = some v ∧
      ∀ e ∈ (h.floor v.floor).speakers, e.slot = k → e ∈ (g.floor v.floor).speakers) : g.Listed where
  nodup f := (l.nodup f).sublist (seats_sublist (speakers f) (queue f))
  one f k n mf mk := l.one f k n ((seats_sublist (speakers f) (queue f)).subset mf)
    ((seats_sublist (speakers k) (queue k)).subset mk)
  pool := (Finset.sum_le_sum fun f _ => (queue f).length_le).trans l.pool
  held f e m := (held f e m).trans (l.held f e ((speakers f).subset m))
  stood k v at_ := by
    obtain ⟨before, stays⟩ := stood k v at_
    obtain ⟨e, m, slot, seat⟩ := l.stood k v before
    exact ⟨e, stays e m slot, slot, seat⟩

/-- Queues that lose entries, with the speakers and slots as they were. -/
theorem shrinkQueue (l : h.Listed) (speakers : ∀ f, (g.floor f).speakers = (h.floor f).speakers)
    (queue : ∀ f, List.Sublist (g.floor f).queue (h.floor f).queue) (slots : g.slots = h.slots) : g.Listed :=
  l.shrink (fun f => by rw [speakers]) queue (fun _ _ _ => by rw [slots])
    fun k v at_ => ⟨slots ▸ at_, fun e m _ => by rwa [speakers]⟩

theorem closeTurn (l : h.Listed) (now : Clock) (f : FloorId) (n : SeatId) (c : TurnCause) :
    (h.closeTurn now f n c false).Listed := by
  have floors := Hall.floor_of_upd (Hall.closeTurn_floors now h f n c false)
  have slots := Hall.closeTurn_slots now h f n c false
  have speakers : ∀ i, ((h.closeTurn now f n c false).floor i).speakers =
      if f = i then (h.floor i).speakers.filter (fun y => y.seat ≠ n) else (h.floor i).speakers := by
    intro i
    rw [floors]
    split
    next e => subst e; rfl
    · rfl
  have queue : ∀ i, ((h.closeTurn now f n c false).floor i).queue = (h.floor i).queue := by
    intro i
    rw [floors]
    split
    next e => subst e; rfl
    · rfl
  have fewer : ∀ i, List.Sublist ((h.closeTurn now f n c false).floor i).speakers (h.floor i).speakers := by
    intro i
    rw [speakers]
    split
    · exact List.filter_sublist
    · exact List.Sublist.refl _
  cases found : (h.floor f).speakers.find? fun e => e.seat = n with
  | none =>
    rw [found] at slots
    have all : ∀ i, ((h.closeTurn now f n c false).floor i).speakers = (h.floor i).speakers := by
      intro i
      rw [speakers]
      split
      next e =>
        subst e
        rw [List.filter_eq_self]
        intro y m
        simpa using List.find?_eq_none.mp found y m
      · rfl
    exact l.shrinkQueue all (fun i => by rw [queue]) slots
  | some e =>
    rw [found] at slots
    have me := List.mem_of_find?_eq_some found
    have seat : e.seat = n := by simpa using List.find?_some found
    -- no speaker that stays stands on the slot that falls free
    have apart : ∀ i d, d ∈ ((h.closeTurn now f n c false).floor i).speakers → e.slot ≠ d.slot := by
      intro i d md same
      obtain ⟨rfl, rfl⟩ := l.slot_unique me ((fewer i).subset md) same
      rw [speakers, if_pos rfl] at md
      simp [seat] at md
    refine l.shrink fewer (fun i => by rw [queue]) (fun i d md => ?_) fun k v at_ => ?_
    · rw [slots]
      exact Tbl.get_set_ne _ _ (apart i d md)
    · rw [slots] at at_
      have ne : e.slot ≠ k := by
        rintro rfl
        simp at at_
      refine ⟨(Tbl.get_set_ne _ _ ne).symm.trans at_, fun d md slot => ?_⟩
      rw [speakers]
      split
      next same =>
        refine List.mem_filter.mpr ⟨md, ?_⟩
        have other : d.seat ≠ n := fun k' => ne (by
          rw [← slot, l.speaker_unique (same ▸ md) me (k'.trans seat.symm)])
        simpa using other
      · exact md

theorem closeTurns (l : h.Listed) (now : Clock) (f : FloorId) (ns : List SeatId) (c : TurnCause) :
    (h.closeTurns now f ns c).Listed := by
  unfold Hall.closeTurns
  induction ns generalizing h with
  | nil => exact l
  | cons n ns ih => exact ih (l.closeTurn now f n c)

theorem removeEntry (l : h.Listed) (f : FloorId) (n : SeatId) (c : RemovalCause) : (h.removeEntry f n c).Listed := by
  have floors := Hall.floor_of_upd (Hall.removeEntry_floors h f n c)
  refine l.shrinkQueue (fun i => ?_) (fun i => ?_) (Hall.removeEntry_slots h f n c)
  · rw [floors]
    split
    next e => subst e; rfl
    · rfl
  · rw [floors]
    split
    next e => subst e; exact List.filter_sublist
    · exact List.Sublist.refl _

theorem removeEntries (l : h.Listed) (f : FloorId) (ns : List SeatId) (c : RemovalCause) :
    (h.removeEntries f ns c).Listed := by
  unfold Hall.removeEntries
  induction ns generalizing h with
  | nil => exact l
  | cons n ns ih => exact ih (l.removeEntry f n c)

theorem trimQueue (l : h.Listed) (f : FloorId) (c : RemovalCause) : (h.trimQueue f c).Listed := l.removeEntries f _ c

end Hall.Listed

end Sys2Proof

/-! PROOFS. Lists that gain entries: queue entries joining, grants and slots passed on, mutes, and entries moved between
floors. -/

namespace Sys2Proof

namespace Hall.Listed

variable {h g : Hall}

/-- A floor whose seats are rearranged, one new seat among them, and the others as they were. -/
theorem seats_new (l : h.Listed) {x : FloorId} {n : SeatId} (new : ∀ f, n ∉ (h.floor f).seats)
    (at_ : List.Perm (g.floor x).seats (n :: (h.floor x).seats))
    (others : ∀ f, f ≠ x → (g.floor f).seats = (h.floor f).seats) :
    (∀ f, (g.floor f).seats.Nodup) ∧ ∀ f k m, m ∈ (g.floor f).seats → m ∈ (g.floor k).seats → f = k := by
  have mem : ∀ f m, m ∈ (g.floor f).seats → m ∈ (h.floor f).seats ∨ f = x ∧ m = n := by
    intro f m k
    by_cases e : f = x
    · subst e
      obtain rfl | old := List.mem_cons.mp (at_.mem_iff.mp k)
      · exact .inr ⟨rfl, rfl⟩
      · exact .inl old
    · rw [others f e] at k
      exact .inl k
  refine ⟨fun f => ?_, fun f k m mf mk => ?_⟩
  · by_cases e : f = x
    · subst e
      exact at_.nodup_iff.mpr (List.nodup_cons.mpr ⟨new f, l.nodup f⟩)
    · rw [others f e]
      exact l.nodup f
  · obtain old | ⟨hf, hm⟩ := mem f m mf <;> obtain old' | ⟨hk, hm'⟩ := mem k m mk
    · exact l.one f k m old old'
    · exact absurd (hm' ▸ old) (new f)
    · exact absurd (hm ▸ old') (new k)
    · rw [hf, hk]

/-- A seat that stands in no list joins a queue, a pool entry being free (04 R62, R63). -/
theorem joinQueue (l : h.Listed) (x : FloorId) (k : Nat) (e : Waiting) (new : ∀ f, e.seat ∉ (h.floor f).seats)
    (room : h.waiting < 96) : (h.joinQueue x k e).Listed := by
  have floors := Hall.floor_of_upd (Hall.joinQueue_floors h x k e)
  have other : ∀ f, f ≠ x → (h.joinQueue x k e).floor f = h.floor f := fun f ne => by
    rw [floors, if_neg (Ne.symm ne)]
  have speakers : ∀ f, ((h.joinQueue x k e).floor f).speakers = (h.floor f).speakers := by
    intro f
    rw [floors]
    split
    next e => subst e; rfl
    · rfl
  have queue : ((h.joinQueue x k e).floor x).queue = (h.floor x).queue.insertIdx k e := by
    rw [floors, if_pos rfl]
  by_cases fits : k ≤ (h.floor x).queue.length
  · have perm := List.perm_insertIdx e (h.floor x).queue fits
    obtain ⟨nodup, one⟩ := l.seats_new (g := h.joinQueue x k e) (n := e.seat) new
      (by
        rw [Floor.seats, Floor.seats, speakers, queue]
        exact ((perm.map _).append_left _).trans List.perm_middle)
      fun f ne => by rw [other f ne]
    refine ⟨nodup, one, ?_, fun f d m => ?_, fun j v at_ => ?_⟩
    · have more := Hall.waiting_join (h := h) (g := h.joinQueue x k e) (x := x)
        (by rw [queue, perm.length_eq, List.length_cons]) fun f ne => by rw [other f ne]
      omega
    · rw [Hall.joinQueue_slots]
      exact l.held f d (by rwa [speakers] at m)
    · rw [Hall.joinQueue_slots] at at_
      rw [speakers]
      exact l.stood j v at_
  · refine l.shrinkQueue speakers (fun f => ?_) (Hall.joinQueue_slots h x k e)
    by_cases c : f = x
    · rw [c, queue, List.insertIdx_of_length_lt (by omega)]
    · rw [other f c]

/-! ## Grants -/

theorem perm_filter_ne {q : List Waiting} {n : SeatId} (out : n ∉ q.map (·.seat)) :
    q.filter (fun e => e.seat ≠ n) = q := by
  rw [List.filter_eq_self]
  intro e m
  have : e.seat ≠ n := fun k => out (k ▸ List.mem_map_of_mem m)
  simpa using this

/-- A grant on a FREE slot to a seat that stands in no list, but for the queue of the floor itself (04 R65). -/
theorem grant (l : h.Listed) (now : Clock) {x : FloorId} {n : SeatId} {k : SlotId} (free : h.slots.get k = none)
    (alone : ∀ f, n ∈ (h.floor f).seats → f = x ∧ ∀ e ∈ (h.floor x).speakers, e.seat ≠ n) :
    (h.grant now x n k).Listed := by
  have unqueued : (h.unqueue x n).Listed := by
    refine l.shrinkQueue (fun f => ?_) (fun f => ?_) rfl <;> rw [Hall.unqueue, Hall.floor_updFloor]
    · split
      next e => subst e; rfl
      · rfl
    · split
      next e => subst e; exact List.filter_sublist
      · exact List.Sublist.refl _
  have at_x : (h.unqueue x n).floor x = { h.floor x with queue := (h.floor x).queue.filter fun e => e.seat ≠ n } := by
    rw [Hall.unqueue, Hall.floor_updFloor, if_pos rfl]
  have other : ∀ f, f ≠ x → (h.unqueue x n).floor f = h.floor f := fun f ne => by
    rw [Hall.unqueue, Hall.floor_updFloor, if_neg (Ne.symm ne)]
  have new : ∀ f, n ∉ ((h.unqueue x n).floor f).seats := by
    intro f m
    by_cases e : f = x
    · subst e
      rw [at_x, Floor.seats, List.mem_append] at m
      obtain m | m := m
      · obtain ⟨d, md, seat⟩ := List.mem_map.mp m
        exact (alone f (by rw [← seat]; exact mem_seats_speaker md)).2 d md seat
      · obtain ⟨w, mw, seat⟩ := List.mem_map.mp m
        simp [seat] at mw
    · rw [other f e] at m
      exact e (alone f m).1
  have granted : ∀ f, (h.grant now x n k).floor f = if x = f then { (h.unqueue x n).floor x with
      speakers := (h.floor x).speakers ++ [h.begun now x n k] } else (h.unqueue x n).floor f := by
    intro f
    rw [Hall.floor_of_upd (Hall.grant_floors now h x n k)]
    split
    · rw [at_x]
    next ne => rw [other f (Ne.symm ne)]
  have speakers : ∀ f, ((h.grant now x n k).floor f).speakers =
      (h.floor f).speakers ++ if x = f then [h.begun now x n k] else [] := by
    intro f
    rw [granted]
    split
    next e => subst e; rfl
    next ne => rw [other f (Ne.symm ne), List.append_nil]
  have queue : ∀ f, ((h.grant now x n k).floor f).queue = ((h.unqueue x n).floor f).queue := by
    intro f
    rw [granted]
    split
    next e => subst e; rfl
    · rfl
  obtain ⟨nodup, one⟩ := unqueued.seats_new (g := h.grant now x n k) (x := x) (n := n) new
    (by
      rw [Floor.seats, Floor.seats, speakers, queue, if_pos rfl, List.map_append, at_x]
      simp only [List.map_cons, List.map_nil, List.append_assoc]
      exact List.perm_middle)
    fun f ne => by rw [granted, if_neg (Ne.symm ne)]
  have slots := Hall.grant_slots now h x n k
  refine ⟨nodup, one, ?_, fun f e m => ?_, fun j v at_ => ?_⟩
  · have same : (h.grant now x n k).waiting = (h.unqueue x n).waiting :=
      Finset.sum_congr rfl fun f _ => by rw [queue]
    rw [same]
    exact unqueued.pool
  · rw [speakers] at m
    rw [slots]
    obtain old | fresh := List.mem_append.mp m
    · have before := l.held f e old
      rw [Tbl.get_set_ne, before]
      intro same
      rw [same, before] at free
      cases free
    · split at fresh
      next same =>
        subst same
        obtain rfl := List.mem_singleton.mp fresh
        show (h.slots.set k _).get k = _
        simp [Hall.begun, Speaker.muted]
      · cases fresh
  · rw [slots, Tbl.get_set] at at_
    rw [speakers]
    split at at_
    next same =>
      obtain rfl := Option.some.inj at_
      exact ⟨h.begun now x n k, by simp, same, rfl⟩
    · obtain ⟨e, m, slot, seat⟩ := l.stood j v at_
      exact ⟨e, List.mem_append_left _ m, slot, seat⟩

end Hall.Listed

/-- A slot passed on ends as if it had fallen free and been granted anew: only its route updates differ. -/
theorem Hall.grant_passed_talk (now : Clock) (h : Hall) (x : FloorId) (m n : SeatId) (c : TurnCause) {e : Speaker}
    (found : (h.floor x).speakers.find? (fun d => d.seat = m) = some e) :
    ((h.closeTurn now x m c true).grant now x n e.slot).talk =
      ((h.closeTurn now x m c false).grant now x n e.slot).talk := by
  have floors : (h.closeTurn now x m c true).floors = (h.closeTurn now x m c false).floors := by
    rw [Hall.closeTurn_floors, Hall.closeTurn_floors]
  have kind : ∀ b, ((h.closeTurn now x m c b).seat? n).elim .delegate Seat.speakerKind =
      (h.seat? n).elim .delegate Seat.speakerKind := by
    intro b
    cases held : h.seat? n with
    | none =>
      have cores := congrArg (fun t => t.get n) (Steady.closeTurn now h x m c b).cores
      simp only [Hall.cores, Tbl.get_imap] at cores
      unfold Hall.seat? at held ⊢
      cases p : h.seats.get n <;> cases q : (h.closeTurn now x m c b).seats.get n <;>
        simp_all [SeatPos.core]
    | some r =>
      obtain ⟨q, hq, core⟩ := (Steady.closeTurn now h x m c b).seat held
      obtain ⟨-, -, role, -⟩ := Seat.eq_of_core core
      simp [hq, Seat.speakerKind, role]
  have begun : (h.closeTurn now x m c true).begun now x n e.slot = (h.closeTurn now x m c false).begun now x n e.slot := by
    unfold Hall.begun
    rw [kind, kind, Hall.floor_of_floors floors]
  unfold Hall.talk
  rw [Hall.grant_floors, Hall.grant_floors, Hall.grant_slots, Hall.grant_slots, begun, floors, Hall.closeTurn_slots,
    Hall.closeTurn_slots, found]
  simp [Tbl.set_set]

namespace Hall.Listed

variable {h g : Hall}

/-- A speaker's turn ended and its slot granted to a seat that stands in no list, but for the queue of the floor itself. -/
theorem passOn (l : h.Listed) (now : Clock) {x : FloorId} {n : SeatId} {e : Speaker} (c : TurnCause)
    (m : e ∈ (h.floor x).speakers)
    (alone : ∀ f, n ∈ (h.floor f).seats → f = x ∧ ∀ d ∈ (h.floor x).speakers, d.seat ≠ n) :
    ((h.closeTurn now x e.seat c true).grant now x n e.slot).Listed := by
  have found := l.find_speaker m
  refine (SameSpeech.of_talk (Hall.grant_passed_talk now h x e.seat n c found)).listed ?_
  have floors := Hall.floor_of_upd (Hall.closeTurn_floors now h x e.seat c false)
  refine (l.closeTurn now x e.seat c).grant now ?_ fun f k => ?_
  · rw [Hall.closeTurn_slots, found]
    simp
  · rw [floors] at k
    split at k
    next same =>
      subst same
      have sub := seats_sublist (x := h.floor x) (y := { h.floor x with
        speakers := (h.floor x).speakers.filter fun y => y.seat ≠ e.seat }) List.filter_sublist (List.Sublist.refl _)
      refine ⟨rfl, fun d md => (alone x (sub.subset k)).2 d ?_⟩
      rw [floors, if_pos rfl] at md
      exact List.mem_of_mem_filter md
    next ne => exact absurd (alone f k).1 (Ne.symm ne)

/-! ## Mutes -/

/-- Mute flags set on one entry, and its gate with them (04 R64). -/
theorem setMutes (l : h.Listed) {x : FloorId} {e d : Speaker} (m : d ∈ (h.floor x).speakers) (seat : d.seat = e.seat)
    (slot : d.slot = e.slot) (p q : Bool) : (h.setMutes x e p q).Listed := by
  by_cases same : e.priorityMute = p ∧ e.linkMute = q
  · have stay : h.setMutes x e p q = h := if_pos same
    rwa [stay]
  have floors := Hall.floor_of_upd ((Hall.setMutes_floors h x e p q).trans (if_neg same))
  have slots : ∀ j, (h.setMutes x e p q).slots.get j =
      if e.slot = j then (h.slots.get j).map fun v => { v with gateOpen := !(p || q) } else h.slots.get j :=
    fun j => (Hall.setMutes_slots h x e p q j).trans (if_neg same)
  have speakers : ∀ f, ((h.setMutes x e p q).floor f).speakers =
      (h.floor f).speakers.map fun y => if x = f ∧ y.seat = e.seat then y.withMutes p q else y := by
    intro f
    rw [floors]
    split
    next k => subst k; simp
    next k => simp [k]
  have queue : ∀ f, ((h.setMutes x e p q).floor f).queue = (h.floor f).queue := by
    intro f
    rw [floors]
    split
    next k => subst k; rfl
    · rfl
  have seats : ∀ f, ((h.setMutes x e p q).floor f).seats = (h.floor f).seats := by
    intro f
    rw [Floor.seats, Floor.seats, speakers, queue, List.map_map]
    refine congrArg (· ++ _) (List.map_congr_left fun y _ => ?_)
    simp only [Function.comp]
    split <;> rfl
  refine ⟨fun f => by rw [seats]; exact l.nodup f, fun f k n => by rw [seats, seats]; exact l.one f k n, ?_,
    fun f y my => ?_, fun j v at_ => ?_⟩
  · have waiting : (h.setMutes x e p q).waiting = h.waiting := Finset.sum_congr rfl fun f _ => by rw [queue]
    rw [waiting]
    exact l.pool
  · rw [speakers] at my
    obtain ⟨z, mz, rfl⟩ := List.mem_map.mp my
    split
    next k =>
      obtain ⟨rfl, zs⟩ := k
      obtain rfl := l.speaker_unique mz m (zs.trans seat.symm)
      rw [slots, if_pos (by exact slot.symm)]
      show (h.slots.get z.slot).map _ = _
      rw [l.held x z mz]
      rfl
    next k =>
      rw [slots, if_neg, l.held f z mz]
      intro again
      obtain ⟨rfl, rfl⟩ := l.slot_unique m mz (slot.trans again)
      exact k ⟨rfl, seat⟩
  · have before : ∃ v', h.slots.get j = some v' ∧ v'.floor = v.floor ∧ v'.seat = v.seat := by
      rw [slots] at at_
      split at at_
      · obtain ⟨v', k, rfl⟩ := Option.map_eq_some_iff.mp at_
        exact ⟨v', k, rfl, rfl⟩
      · exact ⟨v, at_, rfl, rfl⟩
    obtain ⟨v', k, floor, vs⟩ := before
    obtain ⟨z, mz, zslot, zseat⟩ := l.stood j v' k
    rw [← floor, speakers]
    refine ⟨_, List.mem_map_of_mem mz, ?_⟩
    split <;> exact ⟨zslot, zseat.trans vs⟩

end Hall.Listed

theorem Hall.setMutes_floor (h : Hall) (x f : FloorId) (e : Speaker) (p q : Bool) :
    (h.setMutes x e p q).floor f = if x = f ∧ ¬ (e.priorityMute = p ∧ e.linkMute = q) then
      { h.floor f with speakers := (h.floor f).speakers.map fun y => if y.seat = e.seat then y.withMutes p q else y }
    else h.floor f := by
  by_cases same : e.priorityMute = p ∧ e.linkMute = q
  · rw [if_neg (fun k => k.2 same), show h.setMutes x e p q = h from if_pos same]
  · rw [Hall.floor_of_upd ((Hall.setMutes_floors h x e p q).trans (if_neg same))]
    by_cases k : x = f
    · subst k
      rw [if_pos rfl, if_pos ⟨rfl, same⟩]
    · rw [if_neg k, if_neg fun c => k c.1]

/-- Mutes keep of each entry all but its flags and its timer. -/
theorem Hall.setMutes_speakers (h : Hall) (x f : FloorId) (e : Speaker) (p q : Bool) {γ : Type} (part : Speaker → γ)
    (keep : ∀ y : Speaker, part (y.withMutes p q) = part y) :
    ((h.setMutes x e p q).floor f).speakers.map part = (h.floor f).speakers.map part := by
  rw [Hall.setMutes_floor]
  split
  next k =>
    obtain ⟨rfl, -⟩ := k
    rw [List.map_map]
    refine List.map_congr_left fun y _ => ?_
    simp only [Function.comp]
    split
    · exact keep y
    · rfl
  · rfl

theorem Hall.setMutes_queue (h : Hall) (x f : FloorId) (e : Speaker) (p q : Bool) :
    ((h.setMutes x e p q).floor f).queue = (h.floor f).queue := by
  rw [Hall.setMutes_floor]
  split
  next k =>
    obtain ⟨rfl, -⟩ := k
    rfl
  · rfl

theorem Hall.remute_speakers (h : Hall) (x f : FloorId) {γ : Type} (part : Speaker → γ)
    (keep : ∀ (y : Speaker) p q, part (y.withMutes p q) = part y) :
    ((h.remute x).floor f).speakers.map part = (h.floor f).speakers.map part :=
  foldl_keeps (part := fun g : Hall => (g.floor f).speakers.map part)
    (fun g e => Hall.setMutes_speakers g x f e _ _ part fun y => keep y _ _) _ h

theorem Hall.remute_queue (h : Hall) (x f : FloorId) : ((h.remute x).floor f).queue = (h.floor f).queue :=
  foldl_keeps (part := fun g : Hall => (g.floor f).queue) (fun g e => Hall.setMutes_queue g x f e _ _) _ h

theorem Hall.Listed.remute {h : Hall} (l : h.Listed) (x : FloorId) : (h.remute x).Listed := by
  unfold Hall.remute
  have all : ∀ (es : List Speaker) (g : Hall) (mute : Speaker → Bool), g.Listed →
      (∀ e ∈ es, ∃ d ∈ (g.floor x).speakers, d.seat = e.seat ∧ d.slot = e.slot) →
      (es.foldl (fun g e => g.setMutes x e (mute e) e.linkMute) g).Listed := by
    intro es
    induction es with
    | nil => exact fun _ _ l _ => l
    | cons e es ih =>
      intro g mute l stand
      obtain ⟨d, m, seat, slot⟩ := stand e List.mem_cons_self
      refine ih _ mute (l.setMutes m seat slot _ _) fun y my => ?_
      obtain ⟨z, mz, same⟩ := stand y (List.mem_cons_of_mem e my)
      have keys := Hall.setMutes_speakers g x x e (mute e) e.linkMute (fun y => (y.seat, y.slot)) fun _ => rfl
      obtain ⟨z', mz', k⟩ := List.mem_map.mp (keys ▸ List.mem_map_of_mem mz :
        (z.seat, z.slot) ∈ ((g.setMutes x e (mute e) e.linkMute).floor x).speakers.map fun y => (y.seat, y.slot))
      obtain ⟨k1, k2⟩ := Prod.mk.inj k
      exact ⟨z', mz', k1.trans same.1, k2.trans same.2⟩
  exact all _ h _ l fun e m => ⟨e, m, rfl, rfl⟩

end Sys2Proof

/-! PROOFS. Listen tables: what the adoption pass, the carrying across of adopted entries and their removal leave of a floor's
record. Then the lists under the ends of several turns, the removal of several entries, and the closing of an excess. -/

namespace Sys2Proof

/-! ## Operations that write listen tables and adopted entries alone -/

/-- A bank without its listen table. -/
def Bank.bare (b : Bank) : Bank := { b with listen := Tbl.fill 16 none }

/-- A session without its listen tables. -/
def Session.bare (s : Session) : Session := { s with bankA := s.bankA.bare, bankB := s.bankB.bare }

theorem Session.bare_bank (s : Session) (i : BankId) : s.bare.bank i = (s.bank i).bare := by
  cases i <;> rfl

theorem Session.bare_setBank (s : Session) (i : BankId) {x : Bank} (k : x.bare = (s.bank i).bare) :
    (s.setBank i x).bare = s.bare := by
  cases i <;> simp_all [Session.bare, Session.setBank, Session.bank]

/-- A floor's record with other listen tables and other adopted entries. -/
structure Relisted (a b : Floor) : Prop where
  rest : b = { a with sess := b.sess, adopted := b.adopted }
  sess : b.sess.map Session.bare = a.sess.map Session.bare

namespace Relisted

theorem refl (a : Floor) : Relisted a a := ⟨rfl, rfl⟩

theorem trans {a b c : Floor} (p : Relisted a b) (q : Relisted b c) : Relisted a c :=
  ⟨by rw [q.rest, p.rest], q.sess.trans p.sess⟩

variable {a b : Floor}

theorem state (k : Relisted a b) : b.state = a.state := by rw [k.rest]

theorem lists (k : Relisted a b) : b.lists = a.lists := by rw [k.rest]; rfl

theorem bank (k : Relisted a b) : b.bank.bare = a.bank.bare := by
  have s := k.sess
  unfold Floor.bank
  cases ha : a.sess <;> cases hb : b.sess <;> simp only [ha, hb, Option.map_some, Option.map_none, reduceCtorEq,
    Option.some.injEq] at s ⊢
  next x y =>
    have current : y.bare.current = x.bare.current := by rw [s]
    have same : y.current = x.current := current
    rw [← Session.bare_bank, ← Session.bare_bank, s, same]

theorem limit (k : Relisted a b) : b.bank.limit = a.bank.limit := by
  have bare : b.bank.bare.limit = a.bank.bare.limit := by rw [k.bank]
  exact bare

theorem cap (k : Relisted a b) : b.bank.cap = a.bank.cap := by
  have bare : b.bank.bare.cap = a.bank.bare.cap := by rw [k.bank]
  exact bare

theorem original (k : Relisted a b) : b.original? = a.original? := by
  have s := congrArg (Option.map Session.original) k.sess
  simpa [Option.map_map, Function.comp_def, Session.bare, Floor.original?] using s

theorem setListen (f : Floor) (k : ListenSlot) (l : Option Lang) : Relisted f (f.setListen k l) := by
  refine ⟨rfl, ?_⟩
  cases e : f.sess with
  | none => simp [e]
  | some s =>
    simp only [Floor.setListen_sess, e, Option.map_some, Option.some.injEq]
    exact s.bare_setBank _ rfl

theorem withAdopted {f g : Floor} (k : Relisted f g) (as : Option (List Adopted)) :
    Relisted f { g with adopted := as } :=
  k.trans ⟨rfl, rfl⟩

theorem adopt (src : FloorId) (f : Floor) (entry : Option Lang) : Relisted f (f.adopt src entry) := by
  unfold Floor.adopt
  split
  · exact refl f
  · split
    · exact refl f
    · split
      · exact (setListen f _ _).withAdopted _
      · exact (refl f).withAdopted _

theorem adoptAll (h : Hall) (x : FloorId) (ys : List FloorId) : Relisted (h.floor x) (h.adoptAll x ys) :=
  foldl_rel refl (fun _ _ _ => trans) (fun a y => foldl_rel refl (fun _ _ _ => trans) (adopt y) _ a) ys _

theorem bare_carryAdopted (acc : Bank × Bank × List Adopted) (a : Adopted) :
    (carryAdopted acc a).1.bare = acc.1.bare ∧ (carryAdopted acc a).2.1.bare = acc.2.1.bare := by
  unfold carryAdopted
  simp only []
  constructor
  · cases a.place <;> (repeat' split) <;> rfl
  · (repeat' split) <;> rfl

theorem bare_carryAll (as : List Adopted) (acc : Bank × Bank × List Adopted) :
    (as.foldl carryAdopted acc).1.bare = acc.1.bare ∧ (as.foldl carryAdopted acc).2.1.bare = acc.2.1.bare := by
  induction as generalizing acc with
  | nil => exact ⟨rfl, rfl⟩
  | cons a as ih =>
    obtain ⟨out, into⟩ := ih (carryAdopted acc a)
    obtain ⟨out', into'⟩ := bare_carryAdopted acc a
    exact ⟨out.trans out', into.trans into'⟩

theorem carryAll (f : Floor) : Relisted f f.carryAll := by
  unfold Floor.carryAll
  split
  next s e =>
    refine ⟨rfl, ?_⟩
    obtain ⟨out, into⟩ := bare_carryAll (f.adopted.getD []) (s.bank s.current.other, s.bank s.current, [])
    simp only [e, Option.map_some, Option.some.injEq]
    refine (Session.bare_setBank _ _ (into.trans ?_)).trans (s.bare_setBank _ out)
    exact congrArg Bank.bare (Machine.bank_setBank_ne s (Machine.other_ne s.current) _).symm
  · exact refl f

theorem dropAdopted (f : Floor) (gone : FloorId → Bool) : Relisted f (f.dropAdopted gone) := by
  unfold Floor.dropAdopted
  split
  · exact refl f
  next as _ =>
    refine withAdopted ?_ _
    refine foldl_rel refl (fun _ _ _ => trans) (fun f a => ?_) as f
    split
    · split
      · exact setListen f _ _
      · exact refl f
    · exact refl f

end Relisted

/-- What the adoption pass and the removal of adopted entries on floor x can do. -/
structure Relists (x : FloorId) (h g : Hall) : Prop where
  others : ∀ f, f ≠ x → g.floor f = h.floor f
  record : Relisted (h.floor x) (g.floor x)
  slots : g.slots = h.slots
  turns : g.turns = h.turns
  sound : g.sound = h.sound
  desks : g.desks = h.desks

namespace Relists

variable {x : FloorId} {h g : Hall}

theorem refl (x : FloorId) (h : Hall) : Relists x h h := ⟨fun _ _ => rfl, .refl _, rfl, rfl, rfl, rfl⟩

theorem trans {a b c : Hall} (p : Relists x a b) (q : Relists x b c) : Relists x a c :=
  ⟨fun f ne => (q.others f ne).trans (p.others f ne), p.record.trans q.record, q.slots.trans p.slots,
    q.turns.trans p.turns, q.sound.trans p.sound, q.desks.trans p.desks⟩

theorem each (k : Relists x h g) (f : FloorId) : Relisted (h.floor f) (g.floor f) := by
  by_cases e : f = x
  · rw [e]
    exact k.record
  · rw [k.others f e]
    exact .refl _

theorem sameSpeech (k : Relists x h g) : SameSpeech h g :=
  ⟨fun f => (k.each f).lists, fun f => (k.each f).state, fun f => (k.each f).limit, fun f => (k.each f).cap, k.slots⟩

theorem updFloor (h : Hall) (x : FloorId) {k : Floor → Floor} (record : ∀ f, Relisted f (k f)) :
    Relists x h (h.updFloor x k) where
  others f ne := by rw [Hall.floor_updFloor, if_neg (Ne.symm ne)]
  record := by
    rw [Hall.floor_updFloor, if_pos rfl]
    exact record _
  slots := rfl
  turns := rfl
  sound := rfl
  desks := rfl

/-- An operation that reaches neither floors nor slots, channels, booths, desk fields and last turns. -/
theorem same {x : FloorId} {h g : Hall} (floors : g.floors = h.floors) (slots : g.slots = h.slots)
    (turns : g.turns = h.turns) (sound : g.sound = h.sound) (desks : g.desks = h.desks) : Relists x h g where
  others f _ := Hall.floor_of_floors floors f
  record := by
    rw [Hall.floor_of_floors floors]
    exact .refl _
  slots := slots
  turns := turns
  sound := sound
  desks := desks

theorem raise (x : FloorId) (h : Hall) (i : AttnItem) : Relists x h (h.raise i) := same rfl rfl rfl rfl rfl

theorem raiseIf (x : FloorId) (h : Hall) (b : Bool) (i : AttnItem) : Relists x h (h.raiseIf b i) := by
  unfold Hall.raiseIf
  split
  · exact raise x h i
  · exact refl x h

theorem retune (x : FloorId) (h : Hall) (p : SeatId → Seat → Bool) : Relists x h (h.retune p) :=
  same (Hall.retune_floors h p) (Hall.retune_slots h p) (Turns.retune h p) (Sound.retune h p) (Desks.retune h p)

theorem recomposeAll (x : FloorId) (h : Hall) (ns : List SeatId) : Relists x h (h.recomposeAll ns) :=
  same (Hall.recomposeAll_floors h ns) (Hall.recomposeAll_slots h ns) (Turns.recomposeAll h ns)
    (Sound.recomposeAll h ns) (Desks.recomposeAll h ns)

theorem adoptionPassOver (h : Hall) (x : FloorId) (ys : List FloorId) : Relists x h (h.adoptionPassOver x ys) := by
  have write : Relists x h (h.updFloor x fun _ => h.adoptAll x ys) := by
    refine ⟨fun f ne => by rw [Hall.floor_updFloor, if_neg (Ne.symm ne)], ?_, rfl, rfl, rfl, rfl⟩
    rw [Hall.floor_updFloor, if_pos rfl]
    exact .adoptAll h x ys
  unfold Hall.adoptionPassOver
  simp only []
  split
  · exact (write.trans (raiseIf x _ _ _)).trans (retune x _ _)
  · exact write.trans (raiseIf x _ _ _)

theorem adoptionPass (h : Hall) (x : FloorId) : Relists x h (h.adoptionPass x) := adoptionPassOver h x _

theorem swapListen (h : Hall) (x : FloorId) : Relists x h (h.swapListen x) := by
  unfold Hall.swapListen
  split
  · split
    · exact retune x h _
    · exact (((updFloor h x .carryAll).trans (adoptionPass _ x)).trans (raiseIf x _ _ _)).trans (retune x _ _)
  · exact refl x h

theorem removeAdopted (h : Hall) (x : FloorId) (gone : FloorId → Bool) : Relists x h (h.removeAdopted x gone) := by
  have write := updFloor h x fun f => Relisted.dropAdopted f gone
  unfold Hall.removeAdopted
  simp only []
  split
  · exact write.trans (retune x _ _)
  · exact write

theorem endAdopted (h : Hall) (x : FloorId) : Relists x h (h.endAdopted x) :=
  updFloor h x fun f => (Relisted.refl f).withAdopted none

end Relists

/-! ## Several turns ended, several entries removed -/

theorem Hall.closeTurn_speakers (now : Clock) (h : Hall) (x : FloorId) (n : SeatId) (c : TurnCause) (b : Bool) :
    ((h.closeTurn now x n c b).floor x).speakers = (h.floor x).speakers.filter fun y => y.seat ≠ n := by
  rw [Hall.floor_of_upd (Hall.closeTurn_floors now h x n c b), if_pos rfl]

theorem Hall.closeTurn_queue (now : Clock) (h : Hall) (x : FloorId) (n : SeatId) (c : TurnCause) (b : Bool) :
    ((h.closeTurn now x n c b).floor x).queue = (h.floor x).queue := by
  rw [Hall.floor_of_upd (Hall.closeTurn_floors now h x n c b), if_pos rfl]

theorem filter_filter_notMem {α : Type} (key : α → SeatId) (l : List α) (n : SeatId) (ns : List SeatId) :
    (l.filter fun a => key a ≠ n).filter (fun a => key a ∉ ns) = l.filter fun a => key a ∉ n :: ns := by
  rw [List.filter_filter]
  refine List.filter_congr fun a _ => ?_
  simp [List.mem_cons, not_or, Bool.and_comm]

theorem Hall.closeTurns_lists (now : Clock) (h : Hall) (x : FloorId) (ns : List SeatId) (c : TurnCause) :
    ((h.closeTurns now x ns c).floor x).speakers = (h.floor x).speakers.filter (fun y => y.seat ∉ ns) ∧
      ((h.closeTurns now x ns c).floor x).queue = (h.floor x).queue := by
  unfold Hall.closeTurns
  induction ns generalizing h with
  | nil => exact ⟨(List.filter_eq_self.mpr fun _ _ => by simp).symm, rfl⟩
  | cons n ns ih =>
    obtain ⟨speakers, queue⟩ := ih (h.closeTurn now x n c false)
    exact ⟨speakers.trans (by rw [Hall.closeTurn_speakers, filter_filter_notMem]),
      queue.trans (Hall.closeTurn_queue now h x n c false)⟩

theorem Hall.removeEntry_speakers (h : Hall) (x : FloorId) (n : SeatId) (c : RemovalCause) :
    ((h.removeEntry x n c).floor x).speakers = (h.floor x).speakers := by
  rw [Hall.floor_of_upd (Hall.removeEntry_floors h x n c), if_pos rfl]

theorem Hall.removeEntry_queue (h : Hall) (x : FloorId) (n : SeatId) (c : RemovalCause) :
    ((h.removeEntry x n c).floor x).queue = (h.floor x).queue.filter fun e => e.seat ≠ n := by
  rw [Hall.floor_of_upd (Hall.removeEntry_floors h x n c), if_pos rfl]

theorem Hall.removeEntries_lists (h : Hall) (x : FloorId) (ns : List SeatId) (c : RemovalCause) :
    ((h.removeEntries x ns c).floor x).speakers = (h.floor x).speakers ∧
      ((h.removeEntries x ns c).floor x).queue = (h.floor x).queue.filter fun y => y.seat ∉ ns := by
  unfold Hall.removeEntries
  induction ns generalizing h with
  | nil => exact ⟨rfl, (List.filter_eq_self.mpr fun _ _ => by simp).symm⟩
  | cons n ns ih =>
    obtain ⟨speakers, queue⟩ := ih (h.removeEntry x n c)
    exact ⟨speakers.trans (Hall.removeEntry_speakers h x n c),
      queue.trans (by rw [Hall.removeEntry_queue, filter_filter_notMem])⟩

/-- The last of several entries removed is the floor's last queue removal (04 R62). -/
theorem Hall.removeEntries_lastRemoval (h : Hall) (x : FloorId) (ns : List SeatId) (c : RemovalCause) {n : SeatId}
    (last : ns.getLast? = some n) : ((h.removeEntries x ns c).floor x).lastRemoval = some (n, c) := by
  obtain ⟨ms, rfl⟩ := List.getLast?_eq_some_iff.mp last
  unfold Hall.removeEntries
  rw [List.foldl_append, List.foldl_cons, List.foldl_nil,
    Hall.floor_of_upd (Hall.removeEntry_floors _ x n c), if_pos rfl]

theorem Hall.Listed.queue_nodup {h : Hall} (l : h.Listed) (x : FloorId) : ((h.floor x).queue.map (·.seat)).Nodup :=
  (List.nodup_append.mp (l.nodup x)).2.1

theorem Hall.Listed.speakers_nodup {h : Hall} (l : h.Listed) (x : FloorId) :
    ((h.floor x).speakers.map (·.seat)).Nodup :=
  (List.nodup_append.mp (l.nodup x)).1

/-- A queue trimmed is cut to its cap (03 R57, 08 R141). -/
theorem Hall.Listed.trimQueue_lists {h : Hall} (l : h.Listed) (x : FloorId) (c : RemovalCause) :
    ((h.trimQueue x c).floor x).speakers = (h.floor x).speakers ∧
      ((h.trimQueue x c).floor x).queue = (h.floor x).queue.take (h.floor x).bank.cap := by
  obtain ⟨speakers, queue⟩ := h.removeEntries_lists x (((h.floor x).queue.drop (h.floor x).bank.cap).reverse.map (·.seat)) c
  refine ⟨speakers, queue.trans ?_⟩
  rw [← filter_notMem_drop (l.queue_nodup x) (h.floor x).bank.cap]
  exact List.filter_congr fun w _ => by simp

/-! ## The turn of a seat ended, as it is written -/

theorem Hall.turns_get {h : Hall} {n : SeatId} {r : Seat} (k : h.seat? n = some r) : h.turns.get n = r.lastTurn := by
  rw [Hall.turns, Tbl.get_imap, Hall.seat?_held.mp k]
  rfl

/-- The last turn that the end of a speaker entry writes (04 R66 step 3, 05 R90). -/
def Speaker.ended (e : Speaker) (now : Clock) (f : FloorId) (c : TurnCause) : LastTurn :=
  ⟨c, f, turnSeconds now e.start, e.timer.elim 0 (·.overrun)⟩

/-- A seat that goes on standing, with a last turn known by position. -/
theorem Steady.lastTurn {h g : Hall} (k : Steady h g) {n : SeatId} {r : Seat} (held : h.seat? n = some r)
    {t : Option LastTurn} (turn : g.turns.get n = t) : ∃ q, g.seat? n = some q ∧ q.lastTurn = t := by
  obtain ⟨q, hq, -⟩ := k.seat held
  exact ⟨q, hq, (Hall.turns_get hq).symm.trans turn⟩

theorem Turns.releaseSlot (h : Hall) (m : SlotId) (b : Bool) : (h.releaseSlot m b).turns = h.turns :=
  Turns.same (by
    unfold Hall.releaseSlot
    split <;> simp)

theorem Hall.writeLastTurn_writes {h : Hall} {n : SeatId} (t : LastTurn) (held : (h.seat? n).isSome = true) :
    (h.writeLastTurn n t).turns.get n = some t := by
  obtain ⟨r, hr⟩ := Option.isSome_iff_exists.mp held
  rw [Hall.writeLastTurn, if_pos held, Turns.same (Hall.mark_seats _ _), Hall.turns_get (Hall.seat?_updSeat _ hr)]

theorem Hall.closeTurn_writes (now : Clock) {h : Hall} {x : FloorId} {e : Speaker} (c : TurnCause) (b : Bool)
    (found : (h.floor x).speakers.find? (fun d => d.seat = e.seat) = some e) (held : (h.seat? e.seat).isSome = true) :
    (h.closeTurn now x e.seat c b).turns.get e.seat = some (e.ended now x c) := by
  unfold Hall.closeTurn
  rw [found]
  simp only []
  rw [Turns.recompose, Turns.same (Hall.raise_seats _ _), Turns.releaseSlot, Hall.writeLastTurn_writes]
  · rfl
  · rw [Hall.seat?_of_seats (Hall.updFloor_seats _ _ _)]
    exact held

/-! ## An excess of delegates closed -/

theorem Hall.closeExcessOne_speakers (now : Clock) (x : FloorId) (c : TurnCause) (h : Hall) (e : Speaker) :
    ((h.closeExcessOne now x c e).floor x).speakers = (h.floor x).speakers.filter fun y => y.seat ≠ e.seat := by
  unfold Hall.closeExcessOne
  simp only []
  split
  · rw [Hall.floor_of_upd (Hall.joinQueue_floors _ x 0 _), if_pos rfl]
    exact Hall.closeTurn_speakers now h x e.seat c false
  · exact Hall.closeTurn_speakers now h x e.seat c false

theorem Hall.Listed.closeExcessOne {h : Hall} (l : h.Listed) (now : Clock) {x : FloorId} (c : TurnCause) {e : Speaker}
    (m : e ∈ (h.floor x).speakers) : (h.closeExcessOne now x c e).Listed := by
  have closed := l.closeTurn now x e.seat c
  unfold Hall.closeExcessOne
  simp only []
  split
  next room =>
    refine closed.joinQueue x 0 _ (fun f k => ?_) (by
      have := room.2
      rw [Hall.poolFree, Hall.waiting_eq] at this
      omega)
    have floors := Hall.floor_of_upd (Hall.closeTurn_floors now h x e.seat c false) f
    rw [floors] at k
    split at k
    next same =>
      subst same
      obtain k | k := List.mem_append.mp k
      · obtain ⟨d, md, seat⟩ := List.mem_map.mp k
        simp [seat] at md
      · obtain ⟨w, mw, seat⟩ := List.mem_map.mp k
        exact l.not_speaks_of_queued mw m seat.symm
    next ne => exact ne (l.one x f e.seat (mem_seats_speaker m) k)
  · exact closed

theorem Hall.closeExcessOne_writes (now : Clock) {h : Hall} (l : h.Listed) {x : FloorId} {e : Speaker} (c : TurnCause)
    (m : e ∈ (h.floor x).speakers) (held : (h.seat? e.seat).isSome = true) :
    (h.closeExcessOne now x c e).turns.get e.seat = some (e.ended now x c) := by
  have written := Hall.closeTurn_writes now c false (l.find_speaker m) held
  unfold Hall.closeExcessOne
  simp only []
  split
  · rw [Turns.joinQueue]
    exact written
  · exact written

theorem Steady.isSome {h g : Hall} (k : Steady h g) {n : SeatId} (held : (h.seat? n).isSome = true) :
    (g.seat? n).isSome = true := by
  obtain ⟨r, hr⟩ := Option.isSome_iff_exists.mp held
  obtain ⟨q, hq, -⟩ := k.seat hr
  rw [hq]
  rfl

/-- Several speakers of a floor closed as an excess: they leave the list, and each has its turn written. -/
theorem Hall.Listed.closeExcess_fold {h : Hall} (l : h.Listed) (now : Clock) {x : FloorId} (c : TurnCause)
    {es : List Speaker} (speak : ∀ e ∈ es, e ∈ (h.floor x).speakers) (nodup : (es.map (·.seat)).Nodup) :
    (es.foldl (Hall.closeExcessOne now x c) h).Listed ∧
      ((es.foldl (Hall.closeExcessOne now x c) h).floor x).speakers =
        (h.floor x).speakers.filter (fun y => y.seat ∉ es.map (·.seat)) ∧
      ∀ e ∈ es, (h.seat? e.seat).isSome = true →
        (es.foldl (Hall.closeExcessOne now x c) h).turns.get e.seat = some (e.ended now x c) := by
  induction es generalizing h with
  | nil => exact ⟨l, (List.filter_eq_self.mpr fun _ _ => by simp).symm, fun _ m => absurd m List.not_mem_nil⟩
  | cons e es ih =>
    obtain ⟨out, rest⟩ := List.nodup_cons.mp nodup
    have me := speak e List.mem_cons_self
    have left := Hall.closeExcessOne_speakers now x c h e
    obtain ⟨listed, speakers, turns⟩ := ih (l.closeExcessOne now c me) (fun d md => by
      rw [left]
      refine List.mem_filter.mpr ⟨speak d (List.mem_cons_of_mem e md), ?_⟩
      have : d.seat ≠ e.seat := fun k => out (List.mem_map.mpr ⟨d, md, k⟩)
      simpa using this) rest
    refine ⟨listed, speakers.trans ?_, fun d md held => ?_⟩
    · rw [left, filter_filter_notMem]
      rfl
    · obtain rfl | md := List.mem_cons.mp md
      · refine ((LocalTo.foldl (LocalTo.closeExcessOne now x c) es _).still d.seat fun y my => ?_).trans
          (Hall.closeExcessOne_writes now l c me held)
        rw [left] at my
        simpa using List.of_mem_filter my
      · exact turns d md ((Steady.closeExcessOne now x c h e).isSome held)

theorem Floor.mem_excess {x : Floor} {e : Speaker} (m : e ∈ x.excess) : e ∈ x.speakers :=
  List.mem_of_mem_filter (List.mem_of_mem_drop (List.mem_reverse.mp m))

theorem Floor.excess_nil {x : Floor} (k : x.delegates ≤ x.bank.limit) : x.excess = [] := by
  rw [Floor.excess, List.drop_of_length_le, List.reverse_nil]
  rwa [← List.countP_eq_length_filter]

theorem Hall.closeExcess_none (now : Clock) {h : Hall} {x : FloorId} (c : TurnCause)
    (k : (h.floor x).delegates ≤ (h.floor x).bank.limit) : h.closeExcess now x c = h := by
  rw [Hall.closeExcess, Floor.excess_nil k]
  rfl

theorem Hall.Listed.excess_nodup {h : Hall} (l : h.Listed) (x : FloorId) : ((h.floor x).excess.map (·.seat)).Nodup := by
  rw [Floor.excess, List.map_reverse, List.nodup_reverse]
  exact (l.speakers_nodup x).sublist (((List.drop_sublist _ _).trans List.filter_sublist).map _)

/-- The delegates beyond the limit closed: no floor has more than its limit afterwards (03 R56, 08 R140). -/
theorem Hall.Listed.closeExcess {h : Hall} (l : h.Listed) (now : Clock) (x : FloorId) (c : TurnCause) :
    (h.closeExcess now x c).Listed ∧ ((h.closeExcess now x c).floor x).delegates ≤ (h.floor x).bank.limit ∧
      ∀ e ∈ (h.floor x).excess, (h.seat? e.seat).isSome = true →
        (h.closeExcess now x c).turns.get e.seat = some (e.ended now x c) := by
  obtain ⟨listed, speakers, turns⟩ := l.closeExcess_fold now c (fun e m => Floor.mem_excess m) (l.excess_nodup x)
  refine ⟨listed, ?_, turns⟩
  have nodup : (((h.floor x).speakers.filter fun e => e.kind = .delegate).map (·.seat)).Nodup :=
    (l.speakers_nodup x).sublist (List.filter_sublist.map _)
  have kept : (((h.floor x).speakers.filter fun y => y.seat ∉ (h.floor x).excess.map (·.seat)).filter
      fun e => e.kind = .delegate) =
      ((h.floor x).speakers.filter fun e => e.kind = .delegate).take (h.floor x).bank.limit := by
    rw [← filter_notMem_drop nodup (h.floor x).bank.limit, List.filter_filter, List.filter_filter]
    refine List.filter_congr fun y _ => ?_
    rw [Bool.and_comm]
    simp [Floor.excess]
  have count : ((h.closeExcess now x c).floor x).delegates =
      (((h.floor x).speakers.filter fun e => e.kind = .delegate).take (h.floor x).bank.limit).length := by
    rw [Floor.delegates, List.countP_eq_length_filter, ← kept]
    exact congrArg (fun s => (List.filter (fun e : Speaker => decide (e.kind = .delegate)) s).length) speakers
  rw [count, List.length_take]
  exact Nat.min_le_left _ _

end Sys2Proof

/-! PROOFS. The invariant of the Speech Arbiter through the events of one floor: ends of turns, completed swaps, hand-outs,
slots passed on, priority, mutes and queue changes. -/

namespace Sys2Proof

/-! ## The invariant of one floor from its lists -/

/-- A record that keeps its state and bank and loses entries goes on fitting. -/
theorem Floor.Fits.shrink {a b : Floor} (fits : a.Fits) (state : b.state = a.state) (bank : b.bank = a.bank)
    (kinds : List.Sublist (b.speakers.map (·.kind)) (a.speakers.map (·.kind)))
    (queue : List.Sublist b.queue a.queue) : b.Fits where
  empty k := by
    rw [state] at k
    obtain ⟨speakers, waiting⟩ := fits.empty k
    rw [speakers] at kinds
    rw [waiting] at queue
    exact ⟨List.map_eq_nil_iff.mp (List.sublist_nil.mp kinds), List.sublist_nil.mp queue⟩
  limit := by
    rw [bank, delegates_eq]
    have := fits.limit
    rw [delegates_eq] at this
    exact (kinds.countP_le).trans this
  cap := by
    rw [bank]
    exact queue.length_le.trans fits.cap

/-- The delegates of a list, once the turn of one of them has ended. -/
theorem delegates_closed {l : List Speaker} {e : Speaker} (m : e ∈ l) (kind : e.kind = .delegate) :
    (l.filter fun y => y.seat ≠ e.seat).countP (fun y => y.kind = .delegate) < l.countP fun y => y.kind = .delegate := by
  have split := List.countP_eq_countP_filter_add l (fun y => decide (y.kind = .delegate)) fun y => decide (y.seat ≠ e.seat)
  have gone : 0 < (l.filter fun y => !decide (y.seat ≠ e.seat)).countP fun y => y.kind = .delegate := by
    rw [List.countP_pos_iff]
    exact ⟨e, List.mem_filter.mpr ⟨m, by simp⟩, by simpa using kind⟩
  omega

/-! ## The floor of a seat -/

theorem Hall.speakerFloor_some {h : Hall} {n : SeatId} {f : FloorId} (k : h.speakerFloor n = some f) :
    ∃ e ∈ (h.floor f).speakers, e.seat = n := by
  simpa [Hall.floor] using Tbl.lowest_some k

theorem Hall.speakerFloor_none {h : Hall} {n : SeatId} (k : h.speakerFloor n = none) (f : FloorId) {e : Speaker}
    (m : e ∈ (h.floor f).speakers) : e.seat ≠ n := by
  have := Tbl.lowest_none.mp k f
  simp only [List.any_eq_false, decide_eq_true_eq] at this
  exact this e m

theorem Hall.queueFloor_some {h : Hall} {n : SeatId} {f : FloorId} (k : h.queueFloor n = some f) :
    ∃ w ∈ (h.floor f).queue, w.seat = n := by
  simpa [Hall.floor] using Tbl.lowest_some k

theorem Hall.queueFloor_none {h : Hall} {n : SeatId} (k : h.queueFloor n = none) (f : FloorId) {w : Waiting}
    (m : w ∈ (h.floor f).queue) : w.seat ≠ n := by
  have := Tbl.lowest_none.mp k f
  simp only [List.any_eq_false, decide_eq_true_eq] at this
  exact this w m

/-- A seat that neither speaks nor waits stands in no list. -/
theorem Hall.unlisted {h : Hall} {n : SeatId} (silent : h.speakerFloor n = none) (idle : h.queueFloor n = none)
    (f : FloorId) : n ∉ (h.floor f).seats := by
  intro m
  obtain m | m := List.mem_append.mp m
  · obtain ⟨e, me, seat⟩ := List.mem_map.mp m
    exact Hall.speakerFloor_none silent f me seat
  · obtain ⟨w, mw, seat⟩ := List.mem_map.mp m
    exact Hall.queueFloor_none idle f mw seat

theorem Hall.Listed.speakerFloor {h : Hall} (l : h.Listed) {f : FloorId} {e : Speaker}
    (m : e ∈ (h.floor f).speakers) : h.speakerFloor e.seat = some f := by
  cases k : h.speakerFloor e.seat with
  | none => exact absurd rfl (Hall.speakerFloor_none k f m)
  | some g =>
    obtain ⟨d, md, seat⟩ := Hall.speakerFloor_some k
    exact congrArg some (l.one g f e.seat (by rw [← seat]; exact Hall.Listed.mem_seats_speaker md)
      (Hall.Listed.mem_seats_speaker m))

theorem Floor.firstReachable_mem {x : Floor} {w : Waiting} (k : x.firstReachable = some w) : w ∈ x.queue :=
  List.mem_of_find?_eq_some k

theorem Floor.oldestDelegate_mem {x : Floor} {e : Speaker} (k : x.oldestDelegate = some e) :
    e ∈ x.speakers ∧ e.kind = .delegate :=
  ⟨List.mem_of_find?_eq_some k, by simpa using List.find?_some k⟩

theorem Floor.isLive_iff {x : Floor} : x.isLive = true ↔ x.state = .live := by
  simp [Floor.isLive]

/-- A seat that waits on a floor stands in no other list. -/
theorem Hall.Listed.alone_of_queued {h : Hall} (l : h.Listed) {x : FloorId} {w : Waiting} (m : w ∈ (h.floor x).queue) :
    ∀ f, w.seat ∈ (h.floor f).seats → f = x ∧ ∀ e ∈ (h.floor x).speakers, e.seat ≠ w.seat :=
  fun f k => ⟨l.one f x w.seat k (Hall.Listed.mem_seats_queue m), fun _ me => l.not_speaks_of_queued m me⟩

namespace Machine.SpeechInv

variable {h g : Hall}

theorem listed (i : SpeechInv h) : h.Listed := (speechInv_iff.mp i).1

theorem fits (i : SpeechInv h) (f : FloorId) : (h.floor f).Fits := (speechInv_iff.mp i).2 f

/-- An operation that reaches the record of one floor. -/
theorem at_floor (i : SpeechInv h) {x : FloorId} (others : ∀ f, f ≠ x → g.floor f = h.floor f) (listed : g.Listed)
    (fits : (g.floor x).Fits) : SpeechInv g := by
  refine speechInv_iff.mpr ⟨listed, fun f => ?_⟩
  by_cases e : f = x
  · rwa [e]
  · rw [others f e]
    exact i.fits f

theorem foldl {β : Type} {f : Hall → β → Hall} (i : SpeechInv h) (step : ∀ h b, SpeechInv h → SpeechInv (f h b))
    (l : List β) : SpeechInv (l.foldl f h) :=
  List.foldlRecOn l f i fun h i b _ => step h b i

/-- An operation that leaves floors and voice slots. -/
theorem talk (i : SpeechInv h) (k : g.talk = h.talk) : SpeechInv g := (SameSpeech.of_talk k).inv i

/-- An operation local to one floor that keeps the kinds of its speakers, or some of them, and loses queue entries. -/
theorem shrink (i : SpeechInv h) {x : FloorId} (k : LocalTo x h g) (listed : g.Listed)
    (kinds : List.Sublist ((g.floor x).speakers.map (·.kind)) ((h.floor x).speakers.map (·.kind)))
    (queue : List.Sublist (g.floor x).queue (h.floor x).queue) : SpeechInv g :=
  i.at_floor k.others listed ((i.fits x).shrink (k.state x) (k.bank x) kinds queue)

/-! ## Turns ended, entries removed, mutes -/

theorem closeTurn (i : SpeechInv h) (now : Clock) (x : FloorId) (n : SeatId) (c : TurnCause) :
    SpeechInv (h.closeTurn now x n c false) := by
  refine i.shrink (LocalTo.closeTurn now h x n c false) (i.listed.closeTurn now x n c) ?_ ?_
  · rw [Hall.closeTurn_speakers]
    exact List.filter_sublist.map _
  · rw [Hall.closeTurn_queue]

theorem closeTurns (i : SpeechInv h) (now : Clock) (x : FloorId) (ns : List SeatId) (c : TurnCause) :
    SpeechInv (h.closeTurns now x ns c) :=
  i.foldl (fun _ n i => i.closeTurn now x n c) ns

theorem removeEntry (i : SpeechInv h) (x : FloorId) (n : SeatId) (c : RemovalCause) :
    SpeechInv (h.removeEntry x n c) := by
  refine i.shrink (LocalTo.removeEntry h x n c) (i.listed.removeEntry x n c) ?_ ?_
  · rw [Hall.removeEntry_speakers]
  · rw [Hall.removeEntry_queue]
    exact List.filter_sublist

theorem removeEntries (i : SpeechInv h) (x : FloorId) (ns : List SeatId) (c : RemovalCause) :
    SpeechInv (h.removeEntries x ns c) :=
  i.foldl (fun _ n i => i.removeEntry x n c) ns

theorem setMutes (i : SpeechInv h) {x : FloorId} {e : Speaker} (m : e ∈ (h.floor x).speakers) (p q : Bool) :
    SpeechInv (h.setMutes x e p q) := by
  refine i.shrink (LocalTo.setMutes h x e p q) (i.listed.setMutes m rfl rfl p q) ?_ ?_
  · rw [Hall.setMutes_speakers h x x e p q (·.kind) fun _ => rfl]
  · rw [Hall.setMutes_queue]

theorem remute (i : SpeechInv h) (x : FloorId) : SpeechInv (h.remute x) := by
  refine i.shrink (LocalTo.remute h x) (i.listed.remute x) ?_ ?_
  · rw [Hall.remute_speakers h x x (·.kind) fun _ _ _ => rfl]
  · rw [Hall.remute_queue]

theorem raise (i : SpeechInv h) (a : AttnItem) : SpeechInv (h.raise a) := i.talk rfl

theorem recompose (i : SpeechInv h) (n : SeatId) : SpeechInv (h.recompose n) := i.talk (by simp [Hall.talk])

theorem recomposeAll (i : SpeechInv h) (ns : List SeatId) : SpeechInv (h.recomposeAll ns) :=
  i.foldl (fun _ n i => i.recompose n) ns

theorem retune (i : SpeechInv h) (p : SeatId → Seat → Bool) : SpeechInv (h.retune p) := i.talk (Talk.retune h p)

end Machine.SpeechInv

/-! ## The completed swap -/

/-- The badge check of a floor ends turns and removes entries. -/
theorem Hall.requireBadges_lists (now : Clock) (h : Hall) (x : FloorId) :
    List.Sublist ((h.requireBadges now x).floor x).speakers (h.floor x).speakers ∧
      List.Sublist ((h.requireBadges now x).floor x).queue (h.floor x).queue := by
  unfold Hall.requireBadges
  split
  · simp only []
    obtain ⟨speakers, queue⟩ := h.closeTurns_lists now x (h.unbadged ((h.floor x).speakers.map (·.seat))) .noBadge
    obtain ⟨speakers', queue'⟩ := Hall.removeEntries_lists
      (h.closeTurns now x (h.unbadged ((h.floor x).speakers.map (·.seat))) .noBadge) x _ .noBadge
    rw [speakers', queue', speakers, queue]
    exact ⟨List.filter_sublist, List.filter_sublist⟩
  · exact ⟨List.Sublist.refl _, List.Sublist.refl _⟩

theorem Hall.Listed.requireBadges {h : Hall} (l : h.Listed) (now : Clock) (x : FloorId) :
    (h.requireBadges now x).Listed := by
  unfold Hall.requireBadges
  split
  · exact (l.closeTurns now x _ _).removeEntries x _ _
  · exact l

/-- A queue trimmed and a floor's mutes recomputed: the end of every step that lets a queue grow past its cap. -/
theorem Hall.Listed.trimmed {h : Hall} (l : h.Listed) {x : FloorId} (c : RemovalCause)
    (empty : (h.floor x).state ≠ .live → (h.floor x).speakers = [] ∧ (h.floor x).queue = [])
    (limit : (h.floor x).delegates ≤ (h.floor x).bank.limit) : ((h.trimQueue x c).floor x).Fits := by
  obtain ⟨speakers, queue⟩ := l.trimQueue_lists x c
  have k := LocalTo.trimQueue h x c
  refine ⟨fun out => ?_, ?_, ?_⟩
  · rw [k.state] at out
    obtain ⟨silent, idle⟩ := empty out
    rw [speakers, queue, idle, List.take_nil]
    exact ⟨silent, rfl⟩
  · rw [Floor.delegates, speakers, k.bank]
    exact limit
  · rw [queue, k.bank, List.length_take]
    exact Nat.min_le_left _ _

namespace Machine.SpeechInv

variable {h g : Hall}

theorem completeSwap (i : SpeechInv h) (now : Clock) (x : FloorId) : SpeechInv (h.completeSwap now x) := by
  unfold Hall.completeSwap
  simp only []
  have record : (h.updFloor x Floor.flip).floor x = (h.floor x).flip := by rw [Hall.floor_updFloor, if_pos rfl]
  have flipped : (h.updFloor x Floor.flip).Listed := i.listed.of_lists (fun f => by
    rw [Hall.floor_updFloor]
    split
    next e => subst e; rfl
    · rfl) rfl
  obtain ⟨closed, limit, -⟩ := flipped.closeExcess now x .bankForced
  generalize hc : (h.updFloor x Floor.flip).closeExcess now x .bankForced = c at closed limit
  have loc : LocalTo x (h.updFloor x Floor.flip) c := hc ▸ LocalTo.closeExcess now _ x .bankForced
  obtain ⟨speakers, queue⟩ := c.requireBadges_lists now x
  have loc' := LocalTo.requireBadges now c x
  have trimmed : (((c.requireBadges now x).trimQueue x .queueTrimmed).floor x).Fits := by
    refine (closed.requireBadges now x).trimmed .queueTrimmed (fun out => ?_) ?_
    · rw [loc'.state, loc.state, record] at out
      obtain ⟨silent, idle⟩ := (i.fits x).empty out
      have same : c = h.updFloor x Floor.flip := by
        rw [← hc]
        refine Hall.closeExcess_none now .bankForced ?_
        rw [record, Floor.delegates]
        exact (congrArg (List.countP _) silent).le.trans (Nat.zero_le _)
      rw [same, record] at speakers queue
      rw [same]
      exact ⟨List.sublist_nil.mp (silent ▸ speakers), List.sublist_nil.mp (idle ▸ queue)⟩
    · rw [loc'.bank, loc.bank]
      exact (speakers.countP_le).trans limit
  have swapped : SpeechInv ((c.requireBadges now x).trimQueue x .queueTrimmed) :=
    i.at_floor (fun f ne => by
      rw [(LocalTo.trimQueue _ x _).others f ne, loc'.others f ne, loc.others f ne, Hall.floor_updFloor,
        if_neg (Ne.symm ne)]) ((closed.requireBadges now x).trimQueue x _) trimmed
  exact (Relists.swapListen _ x).sameSpeech.inv (swapped.remute x)

theorem quiet (i : SpeechInv h) (now : Clock) (x : FloorId) : SpeechInv (h.quiet now x) := by
  unfold Hall.quiet
  split
  · exact (i.completeSwap now x).raise _
  · exact i

theorem endTurn (i : SpeechInv h) (now : Clock) (x : FloorId) (n : SeatId) (c : TurnCause) :
    SpeechInv (h.endTurn now x n c) := by
  unfold Hall.endTurn
  simp only []
  split
  · exact (i.closeTurn now x n c).quiet now x
  · exact i.closeTurn now x n c

theorem endOldest (i : SpeechInv h) (now : Clock) (x : FloorId) (c : TurnCause) : SpeechInv (h.endOldest now x c) := by
  unfold Hall.endOldest
  split
  · exact i.endTurn now x _ c
  · exact i

/-! ## Grants, hand-outs and slots passed on -/

theorem grant (i : SpeechInv h) (now : Clock) {x : FloorId} {n : SeatId} {k : SlotId} (free : h.slots.get k = none)
    (alone : ∀ f, n ∈ (h.floor f).seats → f = x ∧ ∀ e ∈ (h.floor x).speakers, e.seat ≠ n)
    (live : (h.floor x).state = .live)
    (room : (h.begun now x n k).kind = .delegate → (h.floor x).delegates < (h.floor x).bank.limit) :
    SpeechInv (h.grant now x n k) := by
  have floors := Hall.floor_of_upd (Hall.grant_floors now h x n k)
  refine i.at_floor (fun f ne => by rw [floors, if_neg (Ne.symm ne)]) (i.listed.grant now free alone) ?_
  rw [floors, if_pos rfl]
  refine ⟨fun out => absurd live out, ?_, (List.length_filter_le _ _).trans (i.fits x).cap⟩
  have count : ((h.floor x).speakers ++ [h.begun now x n k]).countP (fun e => e.kind = .delegate) ≤
      (h.floor x).bank.limit := by
    rw [List.countP_append, List.countP_singleton]
    have old := (i.fits x).limit
    split
    next kind => exact room (by simpa using kind)
    · exact old
  exact count

theorem handOut (i : SpeechInv h) {now : Clock} (k : h.handOut now = some g) : SpeechInv g := by
  unfold Hall.handOut at k
  split at k
  next slot f hs hf =>
    obtain ⟨w, first, rfl⟩ := Option.map_eq_some_iff.mp k
    have free : h.slots.get slot = none := by simpa using Tbl.lowest_some hs
    have waits := Hall.nextWaiting_waits hf
    simp only [Floor.waits, Bool.and_eq_true, decide_eq_true_eq] at waits
    obtain ⟨⟨⟨⟨⟨live, -⟩, -⟩, room⟩, -⟩, -⟩ := waits
    exact i.grant now free (i.listed.alone_of_queued (Floor.firstReachable_mem first)) (Floor.isLive_iff.mp live)
      fun _ => room
  · cases k

theorem handOuts (now : Clock) : ∀ (k : Nat) {h : Hall}, SpeechInv h → SpeechInv (h.handOuts now k)
  | 0, _, i => i
  | k + 1, h, i => by
    unfold Hall.handOuts
    split
    next g hg => exact handOuts now k (i.handOut hg)
    · exact i

theorem arbitrate (i : SpeechInv h) (now : Clock) : SpeechInv (h.arbitrate now) := handOuts now 16 i

theorem passTurn (i : SpeechInv h) (now : Clock) {x : FloorId} {n : SeatId} (c : TurnCause)
    (alone : ∀ f, n ∈ (h.floor f).seats → f = x ∧ ∀ e ∈ (h.floor x).speakers, e.seat ≠ n)
    (live : (h.floor x).state = .live) : SpeechInv (h.passTurn now x n c) := by
  unfold Hall.passTurn
  split
  next e oldest =>
    obtain ⟨m, kind⟩ := Floor.oldestDelegate_mem oldest
    have granted := Hall.floor_of_upd (Hall.grant_floors now (h.closeTurn now x e.seat c true) x n e.slot)
    have closed := Hall.floor_of_upd (Hall.closeTurn_floors now h x e.seat c true)
    refine i.at_floor (x := x) (fun f ne => ?_) (i.listed.passOn now c m alone) ?_
    · rw [granted, if_neg (Ne.symm ne), closed, if_neg (Ne.symm ne)]
    · rw [granted, if_pos rfl, closed, if_pos rfl]
      refine ⟨fun out => absurd live out, ?_, (List.length_filter_le _ _).trans (i.fits x).cap⟩
      have fewer := delegates_closed m kind
      have old := (i.fits x).limit
      have count : ∀ d : Speaker, (((h.floor x).speakers.filter fun y => y.seat ≠ e.seat) ++ [d]).countP
          (fun e => e.kind = .delegate) ≤ (h.floor x).bank.limit := by
        intro d
        rw [List.countP_append]
        have one : [d].countP (fun e => decide (e.kind = .delegate)) ≤ 1 := List.countP_le_length
        unfold Floor.delegates at old
        omega
      exact count _
  · exact i

/-! ## Queues -/

theorem joinQueue (i : SpeechInv h) {x : FloorId} (k : Nat) (e : Waiting) (new : ∀ f, e.seat ∉ (h.floor f).seats)
    (pool : h.poolFree ≠ 0) (room : (h.floor x).queue.length < (h.floor x).bank.cap)
    (live : (h.floor x).state = .live) : SpeechInv (h.joinQueue x k e) := by
  have floors := Hall.floor_of_upd (Hall.joinQueue_floors h x k e)
  refine i.at_floor (fun f ne => by rw [floors, if_neg (Ne.symm ne)]) (i.listed.joinQueue x k e new ?_) ?_
  · rw [Hall.poolFree, Hall.waiting_eq] at pool
    omega
  · rw [floors, if_pos rfl]
    refine ⟨fun out => absurd live out, (i.fits x).limit, ?_⟩
    have longer : ((h.floor x).queue.insertIdx k e).length ≤ (h.floor x).queue.length + 1 := by
      rw [List.length_insertIdx]
      split <;> omega
    exact longer.trans room

/-! ## Priority -/

/-- One floor's record rewritten but for its state, its session and its lists. -/
theorem updFloor (i : SpeechInv h) (x : FloorId) {k : Floor → Floor} (lists : (k (h.floor x)).lists = (h.floor x).lists)
    (state : (k (h.floor x)).state = (h.floor x).state) (sess : (k (h.floor x)).sess = (h.floor x).sess) :
    SpeechInv (h.updFloor x k) := by
  have bank : (k (h.floor x)).bank = (h.floor x).bank := by
    unfold Floor.bank
    rw [sess]
  exact (SameSpeech.of_upd rfl rfl lists state (by rw [bank]) (by rw [bank]) : SameSpeech h (h.updFloor x k)).inv i

theorem priorityClose (i : SpeechInv h) (now : Clock) (x : FloorId) : SpeechInv (h.priorityClose now x) :=
  i.foldl (fun _ n i => i.endTurn now x n .priorityClose) _

theorem priorityAct (i : SpeechInv h) (now : Clock) (x : FloorId) : SpeechInv (h.priorityAct now x) := by
  unfold Hall.priorityAct
  split
  · exact i.remute x
  · exact i.priorityClose now x
  · exact (i.priorityClose now x).removeEntries x _ _

theorem priorityDown (i : SpeechInv h) (now : Clock) (x : FloorId) (n : SeatId) :
    SpeechInv (h.priorityDown now x n) :=
  (i.updFloor x rfl rfl rfl).priorityAct now x

theorem liftIfEmpty (i : SpeechInv h) (x : FloorId) : SpeechInv (h.liftIfEmpty x) := by
  unfold Hall.liftIfEmpty
  split
  · exact i
  · exact i.remute x

theorem leaveHolder (i : SpeechInv h) (n : SeatId) (x : FloorId) : SpeechInv (h.leaveHolder n x) := by
  unfold Hall.leaveHolder
  split
  · exact (i.updFloor x rfl rfl rfl).liftIfEmpty x
  · exact i

theorem leaveHolders (i : SpeechInv h) (n : SeatId) : SpeechInv (h.leaveHolders n) :=
  i.foldl (fun _ x i => i.leaveHolder n x) _

end Machine.SpeechInv

end Sys2Proof

/-! PROOFS. Turn ends and their timers (04 R66, R80, 05 R95, R96, R99): a seat whose turn ends stands in no list afterwards,
its last turn is written, and the slot it leaves is the arbiter's to hand on. -/

namespace Sys2Proof

/-! ## Operations that list no new seat on a floor -/

/-- Every seat on a floor's lists stood there before. -/
def Within (h g : Hall) : Prop :=
  ∀ f n, n ∈ (g.floor f).seats → n ∈ (h.floor f).seats

namespace Within

variable {h g : Hall} {x : FloorId}

theorem refl (h : Hall) : Within h h := fun _ _ m => m

theorem trans {a b c : Hall} (p : Within a b) (q : Within b c) : Within a c := fun f n m => p f n (q f n m)

theorem foldl {β : Type} {f : Hall → β → Hall} (step : ∀ h b, Within h (f h b)) (l : List β) (h : Hall) :
    Within h (l.foldl f h) :=
  foldl_rel refl (fun _ _ _ => trans) step l h

theorem of_lists (k : ∀ f, (g.floor f).lists = (h.floor f).lists) : Within h g := fun f n m => by
  rwa [← seats_of_lists (k f)]

theorem of_floors (k : g.floors = h.floors) : Within h g := fun f n m => by
  rwa [← Hall.floor_of_floors k]

theorem of_local (k : LocalTo x h g) (at_ : ∀ n ∈ (g.floor x).seats, n ∈ (h.floor x).seats) : Within h g := by
  intro f n m
  by_cases e : f = x
  · subst e
    exact at_ n m
  · rwa [← k.others f e]

theorem of_sublists (k : LocalTo x h g) (speakers : List.Sublist (g.floor x).speakers (h.floor x).speakers)
    (queue : List.Sublist (g.floor x).queue (h.floor x).queue) : Within h g :=
  of_local k fun _ m => (Hall.Listed.seats_sublist speakers queue).subset m

theorem closeTurn (now : Clock) (h : Hall) (x : FloorId) (n : SeatId) (c : TurnCause) (b : Bool) :
    Within h (h.closeTurn now x n c b) :=
  of_sublists (LocalTo.closeTurn now h x n c b) (by rw [Hall.closeTurn_speakers]; exact List.filter_sublist)
    (by rw [Hall.closeTurn_queue])

theorem trimQueue (h : Hall) (x : FloorId) (c : RemovalCause) : Within h (h.trimQueue x c) := by
  obtain ⟨speakers, queue⟩ := h.removeEntries_lists x
    (((h.floor x).queue.drop (h.floor x).bank.cap).reverse.map (·.seat)) c
  exact of_sublists (LocalTo.trimQueue h x c) (speakers ▸ List.Sublist.refl _) (queue ▸ List.filter_sublist)

theorem requireBadges (now : Clock) (h : Hall) (x : FloorId) : Within h (h.requireBadges now x) := by
  obtain ⟨speakers, queue⟩ := h.requireBadges_lists now x
  exact of_sublists (LocalTo.requireBadges now h x) speakers queue

theorem remute (h : Hall) (x : FloorId) : Within h (h.remute x) :=
  of_local (LocalTo.remute h x) fun n m => by
    rwa [Floor.seats, Hall.remute_speakers h x x (·.seat) fun _ _ _ => rfl, Hall.remute_queue] at m

theorem closeExcessOne (now : Clock) (c : TurnCause) {e : Speaker} {s : List SeatId} (se : e.seat ∈ s)
    (all : ∀ n ∈ (h.floor x).seats, n ∈ s) : ∀ n ∈ ((h.closeExcessOne now x c e).floor x).seats, n ∈ s := by
  have closed : ∀ n ∈ ((h.closeTurn now x e.seat c false).floor x).seats, n ∈ s :=
    fun n m => all n (closeTurn now h x e.seat c false x n m)
  unfold Hall.closeExcessOne
  simp only []
  split
  · intro n m
    rw [Hall.floor_of_upd (Hall.joinQueue_floors _ x 0 _), if_pos rfl, Floor.seats, List.insertIdx_zero, List.map_cons,
      List.mem_append, List.mem_cons] at m
    obtain m | rfl | m := m
    · exact closed n (List.mem_append_left _ m)
    · exact se
    · exact closed n (List.mem_append_right _ m)
  · exact closed

theorem closeExcess (now : Clock) (h : Hall) (x : FloorId) (c : TurnCause) : Within h (h.closeExcess now x c) := by
  refine of_local (LocalTo.closeExcess now h x c) ?_
  have each : ∀ (es : List Speaker) (g : Hall), (∀ e ∈ es, e.seat ∈ (h.floor x).seats) →
      (∀ n ∈ (g.floor x).seats, n ∈ (h.floor x).seats) →
      ∀ n ∈ ((es.foldl (Hall.closeExcessOne now x c) g).floor x).seats, n ∈ (h.floor x).seats := by
    intro es
    induction es with
    | nil => exact fun _ _ k => k
    | cons e es ih =>
      exact fun g m k => ih _ (fun d md => m d (List.mem_cons_of_mem e md))
        (closeExcessOne now c (m e List.mem_cons_self) k)
  exact each _ h (fun e m => Hall.Listed.mem_seats_speaker (Floor.mem_excess m)) fun _ m => m

theorem completeSwap (now : Clock) (h : Hall) (x : FloorId) : Within h (h.completeSwap now x) := by
  have flipped : Within h (h.updFloor x Floor.flip) := of_lists fun f => by
    rw [Hall.floor_updFloor]
    split
    next e => subst e; rfl
    · rfl
  exact ((((flipped.trans (closeExcess now _ x _)).trans (requireBadges now _ x)).trans (trimQueue _ x _)).trans
    (remute _ x)).trans (of_lists (Relists.swapListen _ x).sameSpeech.lists)

theorem quiet (now : Clock) (h : Hall) (x : FloorId) : Within h (h.quiet now x) := by
  unfold Hall.quiet
  split
  · exact (completeSwap now h x).trans (of_floors (Hall.raise_floors _ _))
  · exact refl h

theorem endTurn (now : Clock) (h : Hall) (x : FloorId) (n : SeatId) (c : TurnCause) :
    Within (h.closeTurn now x n c false) (h.endTurn now x n c) := by
  unfold Hall.endTurn
  simp only []
  split
  · exact quiet now _ x
  · exact refl _

theorem handOut {now : Clock} (k : h.handOut now = some g) : Within h g := by
  unfold Hall.handOut at k
  split at k
  next slot x _ _ =>
    obtain ⟨w, first, rfl⟩ := Option.map_eq_some_iff.mp k
    intro f n m
    rw [Hall.floor_of_upd (Hall.grant_floors now h x w.seat slot)] at m
    split at m
    next e =>
      subst e
      rw [Floor.seats, List.map_append, List.mem_append, List.mem_append] at m
      obtain (m | m) | m := m
      · exact List.mem_append_left _ m
      · rw [List.map_singleton, List.mem_singleton] at m
        rw [m]
        exact Hall.Listed.mem_seats_queue (Floor.firstReachable_mem first)
      · exact List.mem_append_right _ ((List.filter_sublist.map _).subset m)
    · exact m
  · cases k

theorem arbitrate (now : Clock) (h : Hall) : Within h (h.arbitrate now) := by
  have many : ∀ (k : Nat) (h : Hall), Within h (h.handOuts now k) := by
    intro k
    induction k with
    | zero => exact refl
    | succ k ih =>
      intro h
      unfold Hall.handOuts
      split
      next g hg => exact (handOut hg).trans (ih g)
      · exact refl h
  exact many 16 h

end Within

/-! ## The arbiter at rest, and its single hand-out -/

theorem Hall.nextWaiting_none {h : Hall} (k : ∀ f, (h.floor f).waits = false) : h.nextWaiting = none := by
  cases e : h.nextWaiting with
  | none => rfl
  | some f => exact absurd (Hall.nextWaiting_waits e) (by simp [k f])

theorem Hall.handOuts_of_none {now : Clock} {h : Hall} (k : h.handOut now = none) (n : Nat) : h.handOuts now n = h := by
  cases n with
  | zero => rfl
  | succ n => rw [Hall.handOuts, k]

/-- With no floor waiting the arbiter hands out nothing (04 R68). -/
theorem Hall.arbitrate_idle (now : Clock) {h : Hall} (k : ∀ f, (h.floor f).waits = false) : h.arbitrate now = h := by
  refine Hall.handOuts_of_none ?_ 16
  rw [Hall.handOut, Hall.nextWaiting_none k]
  split
  next e => cases e
  · rfl

theorem Hall.ranked_isSome (h : Hall) (fs : List FloorId) (best : Option FloorId)
    (k : best.isSome = true ∨ fs ≠ []) : (fs.foldl (fun best f =>
      match best with
      | some g => if (h.floor g).precedence < (h.floor f).precedence then some f else some g
      | none => some f) best).isSome = true := by
  induction fs generalizing best with
  | nil => exact k.resolve_right fun c => c rfl
  | cons f fs ih =>
    refine ih _ (.inl ?_)
    cases best with
    | none => rfl
    | some g =>
      simp only []
      split <;> rfl

/-- Of the floors, one alone waits: the arbiter picks it. -/
theorem Hall.nextWaiting_only {h : Hall} {f : FloorId} (waits : (h.floor f).waits = true)
    (others : ∀ g, g ≠ f → (h.floor g).waits = false) : h.nextWaiting = some f := by
  have some_ : h.nextWaiting.isSome = true := Hall.ranked_isSome h _ none
    (.inr (List.ne_nil_of_mem (Tbl.mem_positions.mpr waits)))
  obtain ⟨g, hg⟩ := Option.isSome_iff_exists.mp some_
  rw [hg]
  by_contra ne
  exact absurd (Hall.nextWaiting_waits hg) (by simp [others g fun e => ne (congrArg some e)])

theorem Floor.waits_iff {x : Floor} : x.waits = true ↔ x.state = .live ∧ x.bank.autoAdvance = true ∧
    (x.bank.mode = .opened ∨ x.bank.mode = .request) ∧ x.delegates < x.bank.limit ∧ x.muteActive = false ∧
      ∃ w, x.firstReachable = some w := by
  simp [Floor.waits, Floor.isLive, Option.isSome_iff_exists, and_assoc]

theorem Floor.waits_of_empty {x : Floor} (k : x.queue = []) : x.waits = false := by
  simp [Floor.waits, Floor.firstReachable, k]

/-! ## A turn end as a whole (04 R66) -/

theorem Hall.closeTurn_reports (now : Clock) {h : Hall} {x : FloorId} {e : Speaker} (c : TurnCause) (b : Bool)
    (found : (h.floor x).speakers.find? (fun d => d.seat = e.seat) = some e) (held : (h.seat? e.seat).isSome = true) :
    (h.closeTurn now x e.seat c b).stands (.speakersChanged x) = true ∧
      (h.closeTurn now x e.seat c b).marks.get e.seat = true := by
  have marked : ∀ (g : Hall) (t : LastTurn), g.seats = h.seats → (g.writeLastTurn e.seat t).marks.get e.seat = true := by
    intro g t same
    rw [Hall.writeLastTurn, if_pos (by rwa [Hall.seat?_of_seats same])]
    simp [Hall.mark]
  unfold Hall.closeTurn
  rw [found]
  simp only []
  refine ⟨(Steady.recompose _ _).stands ?_, (Steady.recompose _ _).marks _ ((Steady.raise _ _).marks _
    ((Steady.releaseSlot _ _ b).marks _ (marked _ _ (Hall.updFloor_seats _ _ _))))⟩
  simp [Hall.stands, Hall.raise]

/-- Once no entry of a seat speaks on floor x, a quiet report leaves its last turn. -/
theorem Hall.quiet_turns (now : Clock) {h : Hall} {x : FloorId} {n : SeatId}
    (silent : ∀ e ∈ (h.floor x).speakers, e.seat ≠ n) : (h.quiet now x).turns.get n = h.turns.get n := by
  unfold Hall.quiet
  split
  · have record : (h.updFloor x Floor.flip).floor x = (h.floor x).flip := by rw [Hall.floor_updFloor, if_pos rfl]
    have loc := (((LocalTo.closeExcess now (h.updFloor x Floor.flip) x .bankForced).trans
      (LocalTo.requireBadges now _ x)).trans (LocalTo.trimQueue _ x .queueTrimmed)).trans (LocalTo.remute _ x)
    rw [Turns.same (Hall.raise_seats _ _), Hall.completeSwap, (Relists.swapListen _ x).turns]
    exact loc.still n fun e m => silent e (by rwa [record] at m)
  · rfl

theorem Hall.endTurn_turns (now : Clock) (h : Hall) (x : FloorId) (n : SeatId) (c : TurnCause) :
    (h.endTurn now x n c).turns.get n = (h.closeTurn now x n c false).turns.get n := by
  unfold Hall.endTurn
  simp only []
  split
  · refine Hall.quiet_turns now fun e m => ?_
    rw [Hall.closeTurn_speakers] at m
    simpa using List.of_mem_filter m
  · rfl

/-- With no swap pending a turn end is its steps 1 to 5. -/
theorem Hall.endTurn_steady (now : Clock) {h : Hall} {x : FloorId} (n : SeatId) (c : TurnCause)
    (k : (h.floor x).swapPending = false) : h.endTurn now x n c = h.closeTurn now x n c false := by
  have pending : ((h.closeTurn now x n c false).floor x).swapPending = false := by
    rw [(LocalTo.closeTurn now h x n c false).floor_eq]
    exact k
  unfold Hall.endTurn
  simp only []
  split
  · rw [Hall.quiet, pending, Bool.and_false]
    rfl
  · rfl

/-- A turn end closed by the arbiter's run. -/
def Hall.turnOver (now : Clock) (h : Hall) (x : FloorId) (n : SeatId) (c : TurnCause) : Hall :=
  (h.endTurn now x n c).arbitrate now

namespace Machine.SpeechInv

variable {h : Hall} {x : FloorId} {e : Speaker} {r : Seat}

theorem turnOver (i : SpeechInv h) (now : Clock) (x : FloorId) (n : SeatId) (c : TurnCause) :
    SpeechInv (h.turnOver now x n c) :=
  (i.endTurn now x n c).arbitrate now

theorem turnOver_writes (i : SpeechInv h) (now : Clock) (c : TurnCause) (m : e ∈ (h.floor x).speakers)
    (held : h.seat? e.seat = some r) :
    ∃ q, (h.turnOver now x e.seat c).seat? e.seat = some q ∧ q.lastTurn = some (e.ended now x c) := by
  refine ((Steady.endTurn now h x e.seat c).trans (Steady.arbitrate now _)).lastTurn held ?_
  rw [Turns.arbitrate, Hall.endTurn_turns]
  exact Hall.closeTurn_writes now c false (i.listed.find_speaker m) (by rw [held]; rfl)

theorem turnOver_unlists (i : SpeechInv h) (now : Clock) (c : TurnCause) (m : e ∈ (h.floor x).speakers) (f : FloorId) :
    e.seat ∉ ((h.turnOver now x e.seat c).floor f).seats := by
  intro k
  have closed := ((Within.endTurn now h x e.seat c).trans (Within.arbitrate now _)) f e.seat k
  have before := Within.closeTurn now h x e.seat c false f e.seat closed
  obtain rfl := i.listed.one f x e.seat before (Hall.Listed.mem_seats_speaker m)
  rw [Floor.seats, Hall.closeTurn_speakers, Hall.closeTurn_queue] at closed
  obtain k | k := List.mem_append.mp closed
  · obtain ⟨d, md, seat⟩ := List.mem_map.mp k
    simp [seat] at md
  · obtain ⟨w, mw, seat⟩ := List.mem_map.mp k
    exact i.listed.not_speaks_of_queued mw m seat.symm

theorem turnOver_slot (i : SpeechInv h) (now : Clock) (c : TurnCause) (m : e ∈ (h.floor x).speakers) :
    (h.turnOver now x e.seat c).slots.get e.slot ≠ h.slots.get e.slot := by
  intro same
  rw [i.listed.held x e m] at same
  obtain ⟨d, md, -, seat⟩ := (i.turnOver now x e.seat c).listed.stood e.slot _ same
  refine i.turnOver_unlists now c m x ?_
  exact List.mem_append_left _ (List.mem_map.mpr ⟨d, md, seat⟩)

theorem turnOver_reports (i : SpeechInv h) (now : Clock) (c : TurnCause) (m : e ∈ (h.floor x).speakers)
    (held : h.seat? e.seat = some r) : (h.turnOver now x e.seat c).stands (.speakersChanged x) = true ∧
      (h.turnOver now x e.seat c).marks.get e.seat = true := by
  obtain ⟨stands, marks⟩ := Hall.closeTurn_reports now c false (i.listed.find_speaker m) (by rw [held]; rfl)
  have steady : Steady (h.closeTurn now x e.seat c false) (h.turnOver now x e.seat c) := by
    refine Steady.trans ?_ (Steady.arbitrate now _)
    unfold Hall.endTurn
    exact Steady.ite (Steady.quiet now _ x) (Steady.refl _)
  exact ⟨steady.stands stands, steady.marks _ marks⟩

/-- With nobody waiting and no swap pending the slot falls FREE, and only the speaker leaves. -/
theorem turnOver_idle (i : SpeechInv h) (now : Clock) (c : TurnCause) (m : e ∈ (h.floor x).speakers)
    (idle : ∀ g, (h.floor g).queue = []) (settled : (h.floor x).swapPending = false) :
    (h.turnOver now x e.seat c).slots = h.slots.set e.slot none ∧
      ((h.turnOver now x e.seat c).floor x).speakers = (h.floor x).speakers.filter fun y => y.seat ≠ e.seat := by
  have closed : h.turnOver now x e.seat c = h.closeTurn now x e.seat c false := by
    rw [Hall.turnOver, Hall.endTurn_steady now e.seat c settled]
    refine Hall.arbitrate_idle now fun f => Floor.waits_of_empty ?_
    rw [Hall.floor_of_upd (Hall.closeTurn_floors now h x e.seat c false)]
    split
    next e => subst e; exact idle x
    · exact idle f
  rw [closed, Hall.closeTurn_speakers, Hall.closeTurn_slots, i.listed.find_speaker m]
  exact ⟨rfl, rfl⟩

theorem find_listed (i : SpeechInv h) (m : e ∈ (h.floor x).speakers) : h.speaker? e.seat = some e := by
  rw [Hall.speaker?, i.listed.speakerFloor m]
  exact i.listed.find_speaker m

/-- The slot of an ended delegate handed on at once: it was the only one that can be free, and one floor waits. -/
theorem turnOver_hands (i : SpeechInv h) (now : Clock) (c : TurnCause) {w : Waiting} (m : e ∈ (h.floor x).speakers)
    (kind : e.kind = .delegate) (settled : (h.floor x).swapPending = false)
    (advance : (h.floor x).bank.autoAdvance = true)
    (mode : (h.floor x).bank.mode = .opened ∨ (h.floor x).bank.mode = .request)
    (unmuted : (h.floor x).muteActive = false) (first : (h.floor x).firstReachable = some w)
    (others : ∀ g, g ≠ x → (h.floor g).queue = []) (full : ∀ k, h.slots.get k ≠ none) :
    h.turnOver now x e.seat c = (h.closeTurn now x e.seat c false).grant now x w.seat e.slot := by
  rw [Hall.turnOver, Hall.endTurn_steady now e.seat c settled]
  have record : ∀ f, (h.closeTurn now x e.seat c false).floor f = if x = f then { h.floor x with
      speakers := (h.floor x).speakers.filter fun y => y.seat ≠ e.seat } else h.floor f :=
    fun f => Hall.floor_of_upd (Hall.closeTurn_floors now h x e.seat c false) f
  have slots : (h.closeTurn now x e.seat c false).slots = h.slots.set e.slot none := by
    rw [Hall.closeTurn_slots, i.listed.find_speaker m]
    rfl
  generalize h.closeTurn now x e.seat c false = g at record slots
  have free : g.freeSlot = some e.slot := by
    refine Tbl.lowest_eq (by simp [slots]) fun k lt => ?_
    rw [slots, Tbl.get_set_ne _ _ (Ne.symm (ne_of_lt lt))]
    simpa [Option.isSome_iff_ne_none] using full k
  have live : (h.floor x).state = .live := by
    by_contra out
    simp [((i.fits x).empty out).1] at m
  have waits : (g.floor x).waits = true := by
    have room : ((h.floor x).speakers.filter fun y => y.seat ≠ e.seat).countP (fun y => y.kind = .delegate) <
        (h.floor x).bank.limit := (delegates_closed m kind).trans_le (i.fits x).limit
    rw [record, if_pos rfl]
    exact Floor.waits_iff.mpr ⟨live, advance, mode, room, unmuted, w, first⟩
  have next : g.nextWaiting = some x := Hall.nextWaiting_only waits fun f ne => Floor.waits_of_empty (by
    rw [record, if_neg (Ne.symm ne)]
    exact others f ne)
  have firstOf : (g.floor x).firstReachable = some w := by
    rw [record, if_pos rfl]
    exact first
  have one : g.handOut now = some (g.grant now x w.seat e.slot) := by
    rw [Hall.handOut, free, next]
    simp only []
    rw [firstOf]
    rfl
  rw [Hall.arbitrate, Hall.handOuts, one]
  refine Hall.handOuts_of_none ?_ 15
  have none_ : (g.grant now x w.seat e.slot).freeSlot = none := by
    refine Tbl.lowest_none.mpr fun k => ?_
    rw [Hall.grant_slots, slots, Tbl.set_set, Tbl.get_set]
    split
    · rfl
    · simpa [Option.isSome_iff_ne_none] using full k
  rw [Hall.handOut, none_]

end Machine.SpeechInv

end Sys2Proof

namespace Sys2Proof.Machine

/-! ## CLOSE_MIC, the timer events and the end of a flash -/

theorem exec_closeMic {seat : Half} {f : FloorId} {n : SeatId} {r : Seat} {s : State} (h : s.takes)
    (hn : seat.toNat = n.val + 1) (held : s.world.hall.seat? n = some r)
    (speaks : s.world.hall.speakerFloor n = some f) :
    exec (.closeMic seat) s = .next (s.answered 5 0x41#8
      (done (inHall s.world (s.world.hall.turnOver s.world.clock f n .revoked)))) := by
  show execCloseMic seat s = _
  refine request_answers h ?_
  rw [withSeat_eq hn held]
  simp only [speaks]
  rfl

theorem exec_turnTimerZeroCut {n : SeatId} {f : FloorId} {s : State} (runs : s.world.hall.timerRuns n .cut = true)
    (speaks : s.world.hall.speakerFloor n = some f) :
    exec (.turnTimerZeroCut n) s = .next (s.after
      (inHall s.world (s.world.hall.turnOver s.world.clock f n .timeUp))) := by
  show execTurnTimerZeroCut n s = _
  rw [execTurnTimerZeroCut, event_next]
  simp only [runs, if_true, Hall.timeUp, speaks]
  rfl

theorem Hall.timerRuns_of {h : Hall} {n : SeatId} {e : Speaker} {tm : Timer} {m : TurnMode}
    (speaks : h.speaker? n = some e) (timer : e.timer = some tm) (running : tm.running = true) (mode : tm.mode = m)
    (phase : tm.phase ≠ .overrun) : h.timerRuns n m = true := by
  simp [Hall.timerRuns, speaks, timer, running, mode, phase]

/-- The end of a floor's last delegate turn completes the swap that waits for it (03 R54). -/
theorem turnOver_swaps (now : Clock) {h : Hall} {f : FloorId} {e : Speaker} {x : Session} (c : TurnCause)
    (live : (h.floor f).state = .live) (speakers : (h.floor f).speakers = [e]) (kind : e.kind = .delegate)
    (pending : (h.floor f).swapPending = true) (sess : (h.floor f).sess = some x) :
    (h.turnOver now f e.seat c).stands (.swapDone f) = true ∧
      ((h.turnOver now f e.seat c).floor f).swapPending = false ∧
      ∃ y, ((h.turnOver now f e.seat c).floor f).sess = some y ∧ y.current = x.current.other := by
  have record : (h.closeTurn now f e.seat c false).floor f = { h.floor f with speakers := [] } := by
    rw [Hall.floor_of_upd (Hall.closeTurn_floors now h f e.seat c false), if_pos rfl, speakers]
    simp
  have ended : h.endTurn now f e.seat c =
      ((h.closeTurn now f e.seat c false).completeSwap now f).raise (.swapDone f) := by
    rw [Hall.endTurn, Hall.quiet]
    simp [speakers, kind, record, Floor.delegates, Floor.isLive, live, pending]
  rw [Hall.turnOver, ended]
  have swaps := (Swaps.arbitrate now (((h.closeTurn now f e.seat c false).completeSwap now f).raise (.swapDone f))).trans
    ((Swaps.same (Hall.raise_floors _ _)).trans (Swaps.completeSwap now _ f))
  obtain ⟨-, current, settled⟩ := Hall.swaps_floor swaps f
  rw [Hall.floor_updFloor, if_pos rfl, record] at current settled
  refine ⟨(Steady.arbitrate now _).stands (by simp [Hall.stands, Hall.raise]), settled, ?_⟩
  simp only [Floor.flip_sess, sess, Option.map_some] at current
  obtain ⟨y, hy, flipped⟩ := Option.map_eq_some_iff.mp current
  exact ⟨y, hy, flipped⟩

theorem exec_turnTimerZeroWarn {n : SeatId} {s : State} (runs : s.world.hall.timerRuns n .warn = true) :
    exec (.turnTimerZeroWarn n) s = .next (s.after (inHall s.world (s.world.hall.warnZero n))) := by
  show execTurnTimerZeroWarn n s = _
  rw [execTurnTimerZeroWarn, event_next, if_pos runs]

theorem warnZero_floor {h : Hall} {n : SeatId} {f : FloorId} (speaks : h.speakerFloor n = some f) :
    (h.warnZero n).floor f = { h.floor f with
      speakers := (h.floor f).speakers.map fun x =>
        if x.seat = n then { x with timer := x.timer.map Timer.overruns } else x } ∧
      (h.warnZero n).slots = h.slots := by
  unfold Hall.warnZero
  rw [speaks]
  simp only []
  refine ⟨?_, by simp⟩
  rw [Hall.floor_of_floors (Hall.recompose_floors _ n), Hall.floor_updFloor, if_pos rfl]

/-- The end of a refused flash recomposes the indicator and writes nothing else (05 R99). -/
theorem endFlash_seat {h : Hall} {n : SeatId} {r : Seat} {k : Nat} (held : h.seat? n = some r)
    (flash : r.flash = some k) : (∃ ind, ind ≠ .refused ∧
      (h.endFlash n).seat? n = some { r with flash := none, indicator := ind }) ∧
      (h.endFlash n).floors = h.floors ∧ (h.endFlash n).marks = h.marks := by
  have ends : h.endFlash n = (h.updSeat n fun s => { s with flash := none }).recompose n := by
    rw [Hall.endFlash, if_pos (by simp [held, flash])]
  rw [ends]
  have quiet := Hall.seat?_updSeat (fun s : Seat => { s with flash := none }) held
  exact ⟨⟨_, Hall.indicate_ne_refused _ n _ rfl, Hall.seat?_recompose quiet⟩, by simp, by simp⟩

/-- Settles O44. A turn end unlists its seat (`turnOver_unlists`), so that the slot it held is another's or FREE by the
invariant; the hand-on is a single grant (`turnOver_hands`). -/
theorem turnEndsAndTimers : Obligations.TurnEndsAndTimers := by
  refine ⟨?_, ?_, ?_, ?_, ?_, ?_⟩
  · rintro seat f n r e s h i hn held m rfl
    obtain ⟨q, hq, turn⟩ := i.turnOver_writes s.world.clock .revoked m held
    obtain ⟨stands, marks⟩ := i.turnOver_reports s.world.clock .revoked m held
    refine ⟨_, q, exec_closeMic h hn held (i.listed.speakerFloor m), ?_⟩
    rw [State.answered_world, done_world, inHall_hall]
    refine ⟨hq, turn, fun g x mx same => ?_, i.turnOver_slot s.world.clock .revoked m,
      i.turnOver_idle s.world.clock .revoked m, stands, marks, (answered_port _ _ _ _).1⟩
    have listed := Hall.Listed.mem_seats_speaker mx
    rw [same] at listed
    exact i.turnOver_unlists s.world.clock .revoked m g listed
  · rintro seat f n r e w s h i hn held m rfl kind settled advance mode unmuted first others full
    have hands := i.turnOver_hands s.world.clock .revoked m kind settled advance mode unmuted first others full
    have record := Hall.floor_of_upd (Hall.closeTurn_floors s.world.clock s.world.hall f e.seat .revoked false) f
    rw [if_pos rfl] at record
    refine ⟨_, (s.world.hall.closeTurn s.world.clock f e.seat .revoked false).begun s.world.clock f w.seat e.slot,
      exec_closeMic h hn held (i.listed.speakerFloor m), ?_⟩
    rw [State.answered_world, done_world, inHall_hall, hands,
      Hall.floor_of_upd (Hall.grant_floors _ _ f w.seat e.slot), if_pos rfl, Hall.grant_slots, record]
    have open_ : (Hall.begun (s.world.hall.closeTurn s.world.clock f e.seat .revoked false) s.world.clock f w.seat
        e.slot).priorityMute = false := by
      have same : ((s.world.hall.closeTurn s.world.clock f e.seat .revoked false).floor f).muteActive = false := by
        rw [record]
        exact unmuted
      simp [Hall.begun, same]
    refine ⟨List.mem_append_right _ List.mem_cons_self, rfl, rfl, rfl, ?_, rfl⟩
    rw [Tbl.get_set_self, open_]
    rfl
  · rintro seat f n r e x s h hn held speaks live speakers rfl kind pending sess
    obtain ⟨stands, settled, y, hy, flipped⟩ := turnOver_swaps s.world.clock .revoked live speakers kind pending sess
    refine ⟨_, y, exec_closeMic h hn held speaks, ?_⟩
    rw [State.answered_world, done_world, inHall_hall]
    exact ⟨stands, settled, hy, flipped⟩
  · rintro n f r e tm s i held m rfl timer running mode phase
    obtain ⟨q, hq, turn⟩ := i.turnOver_writes s.world.clock .timeUp m held
    obtain ⟨stands, -⟩ := i.turnOver_reports s.world.clock .timeUp m held
    refine ⟨_, q, exec_turnTimerZeroCut (Hall.timerRuns_of (i.find_listed m) timer running mode phase)
      (i.listed.speakerFloor m), ?_⟩
    rw [State.after_world, inHall_hall]
    refine ⟨hq, ?_, fun g x mx same => ?_, i.turnOver_slot s.world.clock .timeUp m,
      i.turnOver_idle s.world.clock .timeUp m, stands⟩
    · rw [turn, Speaker.ended, timer]
      rfl
    · have listed := Hall.Listed.mem_seats_speaker mx
      rw [same] at listed
      exact i.turnOver_unlists s.world.clock .timeUp m g listed
  · intro n f e tm s speaks found timer running mode phase
    have at_ : s.world.hall.speaker? n = some e := by
      rw [Hall.speaker?, speaks]
      exact found
    obtain ⟨record, slots⟩ := warnZero_floor speaks
    refine ⟨_, exec_turnTimerZeroWarn (Hall.timerRuns_of at_ timer running mode phase), ?_⟩
    rw [State.after_world, inHall_hall]
    exact ⟨record, slots⟩
  · intro n r k s held flash
    obtain ⟨⟨ind, other, hn⟩, floors, marks⟩ := endFlash_seat held flash
    refine ⟨_, ind, rfl, other, ?_⟩
    exact ⟨hn, floors, marks⟩

end Sys2Proof.Machine

/-! PROOFS. What the Channel Allocator and the Interpretation Unit leave of the records of speech: every floor, every voice
slot, and the last turn of every seat. -/

namespace Sys2Proof

/-- What an operation on channels, booths and desk fields leaves. -/
structure Speechless (h g : Hall) : Prop where
  talk : g.talk = h.talk
  turns : g.turns = h.turns

namespace Speechless

theorem refl (h : Hall) : Speechless h h := ⟨rfl, rfl⟩

theorem trans {a b c : Hall} (p : Speechless a b) (q : Speechless b c) : Speechless a c :=
  ⟨q.talk.trans p.talk, q.turns.trans p.turns⟩

theorem foldl {β : Type} {f : Hall → β → Hall} (step : ∀ h b, Speechless h (f h b)) (l : List β) (h : Hall) :
    Speechless h (l.foldl f h) :=
  foldl_rel refl (fun _ _ _ => trans) step l h

theorem same {h g : Hall} (talk : g.talk = h.talk) (seats : g.seats = h.seats) : Speechless h g :=
  ⟨talk, Turns.same seats⟩

theorem floor {h g : Hall} (k : Speechless h g) (f : FloorId) : g.floor f = h.floor f :=
  Hall.floor_of_floors (Hall.floors_of_talk k.talk) f

/-! ## Seats and routes -/

theorem updSeat (h : Hall) (n : SeatId) (f : Seat → Seat) (k : ∀ r, (f r).lastTurn = r.lastTurn) :
    Speechless h (h.updSeat n f) :=
  ⟨by simp [Hall.talk], Turns.updSeat h n f k⟩

theorem mark (h : Hall) (n : SeatId) : Speechless h (h.mark n) :=
  same (by simp [Hall.talk]) (Hall.mark_seats h n)

theorem raise (h : Hall) (i : AttnItem) : Speechless h (h.raise i) := same rfl rfl

theorem recompose (h : Hall) (n : SeatId) : Speechless h (h.recompose n) := updSeat h n _ fun _ => rfl

theorem recomposeAll (h : Hall) (ns : List SeatId) : Speechless h (h.recomposeAll ns) := foldl recompose ns h

theorem retune (h : Hall) (p : SeatId → Seat → Bool) : Speechless h (h.retune p) :=
  ⟨Talk.retune h p, Turns.retune h p⟩

theorem route (h : Hall) (u : RouteUpdate) : Speechless h (h.route u) := same (by simp [Hall.talk]) (by simp)

theorem raiseFold (h : Hall) (fs : List FloorId) : Speechless h (h.raiseFold fs) := foldl (fun g _ => raise g _) fs h

theorem recomposeFloor (h : Hall) (f : FloorId) : Speechless h (h.recomposeFloor f) :=
  (recomposeAll h _).trans (recomposeAll _ _)

/-! ## Channel Allocator -/

theorem setDesk (h : Hall) (n : SeatId) (d : DeskFields) : Speechless h (h.setDesk n d) := by
  unfold Hall.setDesk
  split
  · split
    · exact refl h
    · exact (((updSeat h n (fun s => { s with desk := some d }) fun _ => rfl).trans (mark _ n)).trans
        (retune _ _)).trans (recompose _ n)
  · exact refl h

theorem recheckDesk (b : BoothId) (h : Hall) (n : SeatId) : Speechless h (h.recheckDesk b n) := by
  unfold Hall.recheckDesk
  split
  · split
    · split
      · exact refl h
      · exact setDesk h n _
    · exact refl h
  · exact refl h

theorem relayRecheck (h : Hall) : Speechless h h.relayRecheck :=
  foldl (fun g b => foldl (recheckDesk b) _ g) _ h

theorem mapReport (h : Hall) (f : FloorId) : Speechless h (h.mapReport f) := by
  unfold Hall.mapReport
  split
  · exact (retune h _).trans (relayRecheck _)
  · exact refl h

theorem mapReportOf (h : Hall) (f : Option FloorId) : Speechless h (h.mapReportOf f) := by
  cases f with
  | none => exact refl h
  | some f => exact mapReport h f

theorem setContent (h : Hall) (c : ChannelId) (x : Content) : Speechless h (h.setContent c x) := by
  unfold Hall.setContent
  split
  · exact (same rfl rfl : Speechless h { h with channels := h.channels.upd c fun r => { r with content := x } }).trans
      (route _ _)
  · exact refl h

theorem freeing (h : Hall) (c : ChannelId) : Speechless h (h.freeing c) := by
  unfold Hall.freeing
  split
  · exact ((same rfl rfl : Speechless h { h with channels := h.channels.set c Channel.reset }).trans
      (route _ _)).trans (mapReportOf _ _)
  · exact refl h

theorem setUse (h : Hall) (c : ChannelId) (u : ChanUse) : Speechless h (h.setUse c u) := same rfl rfl

theorem lend (h : Hall) (c : ChannelId) (x : FloorId) : Speechless h (h.lend c x) := by
  unfold Hall.lend
  split
  · split
    · exact (setUse h c _).trans (mapReport _ x)
    · exact refl h
  · exact refl h

theorem reserveChannel (h : Hall) (c : ChannelId) : Speechless h (h.reserveChannel c) := by
  unfold Hall.reserveChannel
  split
  · split
    · exact refl h
    · exact ((setUse h c _).trans (setContent _ c _)).trans (mapReportOf _ _)
  · exact refl h

theorem giveBack (h : Hall) (c : ChannelId) : Speechless h (h.giveBack c) := by
  unfold Hall.giveBack
  split
  · split
    · exact refl h
    · exact ((setUse h c _).trans (mapReportOf _ _)).trans (mapReport _ _)
  · exact refl h

theorem relend (h : Hall) (c : ChannelId) (z : FloorId) : Speechless h (h.relend c z) := by
  unfold Hall.relend
  split
  · split
    · exact ((setUse h c _).trans (mapReport _ _)).trans (mapReport _ z)
    · exact refl h
  · exact refl h

/-! ## Interpretation Unit -/

theorem setOutput (h : Hall) (b : BoothId) (o : Out) (x : Output) : Speechless h (h.setOutput b o x) := same rfl rfl

theorem setOutState (h : Hall) (b : BoothId) (o : Out) (st : OutState) : Speechless h (h.setOutState b o st) :=
  setOutput h b o _

theorem setLastRelease (h : Hall) (b : BoothId) (o : Out) (n : SeatId) (c : ReleaseCause) :
    Speechless h (h.setLastRelease b o n c) :=
  setOutput h b o _

theorem outContent (h : Hall) (b : BoothId) (o : Out) (x : Content) : Speechless h (h.outContent b o x) := by
  unfold Hall.outContent
  split
  · exact setContent h _ x
  · exact refl h

theorem mixContent (h : Hall) (b : BoothId) (o : Out) : Speechless h (h.mixContent b o) := by
  unfold Hall.mixContent
  split
  · exact outContent h b o _
  · exact refl h

theorem enterFallback (h : Hall) (b : BoothId) (o : Out) : Speechless h (h.enterFallback b o) :=
  ((setOutState h b o _).trans (mixContent _ b o)).trans (raise _ _)

theorem enterSilent (h : Hall) (b : BoothId) (o : Out) : Speechless h (h.enterSilent b o) := by
  have base := (setOutState h b o (.silent ((h.booths.get b).delay * 10))).trans (outContent _ b o .silence)
  unfold Hall.enterSilent
  simp only []
  split
  · exact base.trans (enterFallback _ b o)
  · exact base

theorem setDeskLive (h : Hall) (n : SeatId) (b : Bool) : Speechless h (h.setDeskLive n b) := by
  unfold Hall.setDeskLive
  split
  · exact setDesk h n _
  · exact refl h

theorem takeOff (h : Hall) (b : BoothId) (o : Out) (c : ReleaseCause) : Speechless h (h.takeOff b o c) := by
  unfold Hall.takeOff
  split
  · exact (setDeskLive h _ false).trans (setLastRelease _ b o _ c)
  · exact refl h

theorem deskLeaves (h : Hall) (n : SeatId) (c : ReleaseCause) : Speechless h (h.deskLeaves n c) := by
  unfold Hall.deskLeaves
  split
  · exact ((setDeskLive h n false).trans (setLastRelease _ _ _ n c)).trans (enterSilent _ _ _)
  · exact refl h

theorem clearOutput (h : Hall) (b : BoothId) (o : Out) (c : ReleaseCause) : Speechless h (h.clearOutput b o c) := by
  unfold Hall.clearOutput
  split
  · exact (((takeOff h b o c).trans (setOutput _ b o _)).trans (freeing _ _)).trans (recomposeAll _ _)
  · exact refl h

theorem releaseBooth (h : Hall) (b : BoothId) : Speechless h (h.releaseBooth b) := by
  unfold Hall.releaseBooth
  refine trans ((clearOutput h b .a .boothReleased).trans (clearOutput _ b .b .boothReleased)) ?_
  refine trans (trans ?_ (foldl (fun g n => ?_) _ _)) (retune _ _)
  · exact same rfl rfl
  · split
    · exact setDesk g n _
    · exact refl g

theorem holdOutput (h : Hall) (b : BoothId) (o : Out) : Speechless h (h.holdOutput b o) := by
  unfold Hall.holdOutput
  split
  · exact ((((takeOff h b o _).trans (setOutState _ b o _)).trans (reserveChannel _ _)).trans (relayRecheck _)).trans
      (recomposeAll _ _)
  · exact refl h

theorem restoreOutput (h : Hall) (b : BoothId) (o : Out) : Speechless h (h.restoreOutput b o) :=
  (enterSilent h b o).trans (recomposeAll _ _)

theorem followServing (h : Hall) (b : BoothId) : Speechless h (h.followServing b) := by
  refine foldl (fun g o => ?_) _ h
  split
  · split
    · exact mixContent g b o
    · exact refl g
  · exact refl g

theorem goLive (h : Hall) (b : BoothId) (o : Out) (n : SeatId) : Speechless h (h.goLive b o n) :=
  ((setDeskLive h n true).trans (setOutState _ b o _)).trans (outContent _ b o _)

theorem goLiveOver (h : Hall) (b : BoothId) (o : Out) (n : SeatId) : Speechless h (h.goLiveOver b o n) :=
  (takeOff h b o _).trans (goLive _ b o n)

theorem deskOn (h : Hall) (n : SeatId) (d : DeskFields) : Speechless h (h.deskOn n d).hall := by
  unfold Hall.deskOn
  split
  · exact refl h
  · split
    · exact refl h
    · split
      · exact refl h
      · exact goLiveOver h _ _ n

theorem selectOut (h : Hall) (n : SeatId) (d : DeskFields) (o : Out) : Speechless h (h.selectOut n d o).hall := by
  unfold Hall.selectOut
  split
  · exact refl h
  · split
    · split
      · exact refl h
      · split
        · exact refl h
        · exact (((setLastRelease h _ _ n _).trans (enterSilent _ _ _)).trans (setDesk _ n _)).trans
            (goLiveOver _ _ o n)
    · exact setDesk h n _

theorem relayKey (h : Hall) (n : SeatId) (d : DeskFields) (s : Option RelaySrc) :
    Speechless h (h.relayKey n d s).hall := by
  unfold Hall.relayKey
  split
  · exact setDesk h n _
  · split
    · exact refl h
    · split
      · exact refl h
      · split
        · exact refl h
        · exact setDesk h n _
  · exact refl h

theorem deskLinkLost (h : Hall) (n : SeatId) : Speechless h (h.deskLinkLost n) := by
  unfold Hall.deskLinkLost
  split
  · exact (setOutState h _ _ _).trans (outContent _ _ _ _)
  · exact refl h

theorem deskLinkRegained (h : Hall) (n : SeatId) : Speechless h (h.deskLinkRegained n) := by
  unfold Hall.deskLinkRegained
  split
  · split
    · split
      · exact (setOutState h _ _ _).trans (outContent _ _ _ _)
      · exact refl h
    · exact refl h
  · exact refl h

theorem deskRetired (h : Hall) (n : SeatId) (c : ReleaseCause) : Speechless h (h.deskRetired n c) := by
  unfold Hall.deskRetired
  split
  · exact (deskLeaves h n c).trans (same rfl rfl)
  · exact refl h

/-! ## Folding -/

theorem mixOriginal (h : Hall) (z x : FloorId) {move : Hall → ChannelId → Hall} (k : ∀ g c, Speechless g (move g c)) :
    Speechless h (h.mixOriginal z x move) := by
  unfold Hall.mixOriginal
  split
  · exact (k h _).trans (setContent _ _ _)
  · exact refl h

theorem foldOriginals (h : Hall) (x y : FloorId) (fs : List FloorId) : Speechless h (h.foldOriginals x y fs) :=
  (mixOriginal h y x fun g c => lend g c x).trans
    (foldl (fun g z => mixOriginal g z x fun g c => relend g c x) fs _)

theorem carryChannel (h : Hall) (c : ChannelId) (x : FloorId) : Speechless h (h.carryChannel c x) := by
  unfold Hall.carryChannel
  split
  · split
    · exact lend h c x
    · exact relend h c x
  · exact refl h

theorem placeOutput (x : FloorId) (h : Hall) (p : BoothId × Out) : Speechless h (h.placeOutput x p) := by
  unfold Hall.placeOutput
  split
  · split
    · exact refl h
    · split
      · exact holdOutput h _ _
      · exact carryChannel h _ x
  · exact refl h

theorem servingChanged (h : Hall) (bs : List BoothId) : Speechless h (h.servingChanged bs) :=
  (foldl followServing bs h).trans (relayRecheck _)

theorem foldOutputs (h : Hall) (x : FloorId) (fs : List FloorId) : Speechless h (h.foldOutputs x fs) :=
  (foldl (placeOutput x) _ h).trans (servingChanged _ _)

theorem giveBackOutput (h : Hall) (p : BoothId × Out) : Speechless h (h.giveBackOutput p) := by
  unfold Hall.giveBackOutput
  split
  · split
    · exact (giveBack h _).trans (restoreOutput _ _ _)
    · exact giveBack h _
  · exact refl h

theorem reviveCarried (r : FloorId) (h : Hall) (z : FloorId) : Speechless h (h.reviveCarried r z) :=
  (mixOriginal h z r fun g c => relend g c r).trans (foldl (placeOutput r) _ _)

theorem reviveChannels (h : Hall) (r : FloorId) (fs : List FloorId) : Speechless h (h.reviveChannels r fs) :=
  (((mixOriginal h r r fun g c => giveBack g c).trans (foldl giveBackOutput _ _)).trans
    (foldl (reviveCarried r) fs _)).trans (servingChanged _ _)

/-! ## Closing -/

theorem releaseBooths (h : Hall) (f : FloorId) : Speechless h (h.releaseBooths f) := foldl releaseBooth _ h

theorem freeOriginal (h : Hall) (f : FloorId) : Speechless h (h.freeOriginal f) := by
  unfold Hall.freeOriginal
  split
  · exact freeing h _
  · exact refl h

theorem freeOwned (h : Hall) (f : FloorId) : Speechless h (h.freeOwned f) := foldl freeing _ h

end Speechless

end Sys2Proof

/-! PROOFS. The invariant of the Speech Arbiter through keys, reports of the Seat Table, the tick and the events of timers. -/

namespace Sys2Proof

/-! ## Floors of seats -/

theorem Hall.floorAt_live {h : Hall} {s : SectionId} {f : FloorId} (k : h.floorAt s = some f) :
    (h.floor f).state = .live := by
  have := Tbl.lowest_some k
  rw [Bool.and_eq_true] at this
  exact Floor.isLive_iff.mp this.1

theorem Hall.floorOf_live {h : Hall} {r : Seat} {f : FloorId} (k : h.floorOf r = some f) :
    (h.floor f).state = .live := by
  obtain ⟨s, -, at_⟩ := Option.bind_eq_some_iff.mp k
  exact Hall.floorAt_live at_

theorem Hall.freeSlot_none {h : Hall} {k : SlotId} (free : h.freeSlot = some k) : h.slots.get k = none := by
  simpa using Tbl.lowest_some free

theorem Hall.begun_kind {h : Hall} {n : SeatId} {r : Seat} (held : h.seat? n = some r) (now : Clock) (f : FloorId)
    (k : SlotId) : (h.begun now f n k).kind = r.speakerKind := by
  simp [Hall.begun, held]

theorem taken_hall (h : Hall) : (taken h).hall = h := rfl

/-- A seat that neither speaks nor waits, for a grant or for a slot passed on. -/
theorem Hall.alone_of_unlisted {h : Hall} {n : SeatId} {x : FloorId} (out : ∀ f, n ∉ (h.floor f).seats) :
    ∀ f, n ∈ (h.floor f).seats → f = x ∧ ∀ e ∈ (h.floor x).speakers, e.seat ≠ n :=
  fun f k => absurd k (out f)

namespace Machine.SpeechInv

variable {h g : Hall}

theorem speechless (i : SpeechInv h) (k : Speechless h g) : SpeechInv g := i.talk k.talk

/-! ## Keys -/

theorem withdraw (i : SpeechInv h) {now : Clock} {n : SeatId} (k : h.withdraw now n = some g) : SpeechInv g := by
  cases speaks : h.speakerFloor n with
  | some f =>
    obtain rfl := Option.some.inj ((Hall.withdraw_speaking speaks).symm.trans k)
    exact i.endTurn now f n _
  | none =>
    cases waits : h.queueFloor n with
    | some f =>
      obtain rfl := Option.some.inj ((Hall.withdraw_waiting speaks waits).symm.trans k)
      exact i.removeEntry f n _
    | none => cases (Hall.withdraw_idle speaks waits).symm.trans k

theorem unlisted_of_idle {now : Clock} {n : SeatId} (k : h.withdraw now n = none) (f : FloorId) :
    n ∉ (h.floor f).seats := by
  unfold Hall.withdraw at k
  split at k
  · cases k
  · cases k
  next silent idle => exact Hall.unlisted silent idle f

section

variable {now : Clock} {n : SeatId} {f : FloorId}

theorem pressQueue (i : SpeechInv h) (idle : ∀ f, n ∉ (h.floor f).seats) (live : (h.floor f).state = .live)
    (room : (h.floor f).queue.length < (h.floor f).bank.cap) : SpeechInv (h.pressQueue now f n).hall := by
  by_cases dry : h.poolFree = 0
  · rw [Hall.pressQueue_empty dry]
    exact i
  · rw [Hall.pressQueue_joins (Nat.pos_of_ne_zero dry)]
    exact i.joinQueue _ _ idle dry room live

theorem micOpen (i : SpeechInv h) (idle : ∀ f, n ∉ (h.floor f).seats) (live : (h.floor f).state = .live) :
    SpeechInv (h.micOpen now f n).hall := by
  have queue : SpeechInv (if (h.floor f).queue.length < (h.floor f).bank.cap then h.pressQueue now f n
      else turnedDown h .floorFull).hall := by
    split
    next room => exact i.pressQueue idle live room
    · exact i
  unfold Hall.micOpen
  simp only []
  split
  · exact i
  · split
    next below =>
      split
      next slot free =>
        exact i.grant now (Hall.freeSlot_none free) (Hall.alone_of_unlisted idle) live fun _ => below
      · exact queue
    · exact queue

theorem micRequest (i : SpeechInv h) (idle : ∀ f, n ∉ (h.floor f).seats) (live : (h.floor f).state = .live) :
    SpeechInv (h.micRequest now f n).hall := by
  unfold Hall.micRequest
  split
  next room => exact i.pressQueue idle live room
  · exact i

theorem micOverride (i : SpeechInv h) (idle : ∀ f, n ∉ (h.floor f).seats) (live : (h.floor f).state = .live) :
    SpeechInv (h.micOverride now f n).hall := by
  unfold Hall.micOverride
  simp only []
  split
  · exact i
  · split
    next below =>
      split
      next slot free =>
        exact i.grant now (Hall.freeSlot_none free) (Hall.alone_of_unlisted idle) live fun _ => below
      · exact i
    · exact i.passTurn now _ (Hall.alone_of_unlisted idle) live

theorem micDelegate (i : SpeechInv h) (idle : ∀ f, n ∉ (h.floor f).seats) (live : (h.floor f).state = .live) :
    SpeechInv (h.micDelegate now f n).hall := by
  unfold Hall.micDelegate
  split
  · exact i.micOpen idle live
  · exact i.micRequest idle live
  · exact i.micOverride idle live
  · exact i

theorem micChair (i : SpeechInv h) {r : Seat} (held : h.seat? n = some r) (chair : r.role = .chair)
    (idle : ∀ f, n ∉ (h.floor f).seats) (live : (h.floor f).state = .live) :
    SpeechInv (h.micChair now f n).hall := by
  unfold Hall.micChair
  split
  next slot free =>
    refine i.grant now (Hall.freeSlot_none free) (Hall.alone_of_unlisted idle) live fun kind => ?_
    rw [Hall.begun_kind held, Seat.speakerKind, if_pos chair] at kind
    cases kind
  · exact i

theorem mic (i : SpeechInv h) {r : Seat} (held : h.seat? n = some r) (live : (h.floor f).state = .live) :
    SpeechInv (h.mic now f n r.role).hall := by
  unfold Hall.mic
  split
  next g withdrawn => exact i.withdraw withdrawn
  next idle =>
    split
    next chair => exact i.micChair held chair (unlisted_of_idle idle) live
    · exact i.micDelegate (unlisted_of_idle idle) live

theorem cancel (i : SpeechInv h) : SpeechInv (h.cancel now n).hall := by
  cases k : h.withdraw now n with
  | none =>
    rw [Hall.cancel_idle k]
    exact i
  | some g =>
    rw [Hall.cancel_withdraws k]
    exact i.withdraw k

theorem nextKey (i : SpeechInv h) (live : (h.floor f).state = .live) : SpeechInv (h.nextKey now f).hall := by
  unfold Hall.nextKey
  simp only []
  split
  next w _ first => exact i.passTurn now _ (i.listed.alone_of_queued (Floor.firstReachable_mem first)) live
  · exact i.endOldest now f _
  next w below first =>
    split
    next slot free =>
      refine i.grant now (Hall.freeSlot_none free) (i.listed.alone_of_queued (Floor.firstReachable_mem first)) live
        fun _ => ?_
      simpa using below
    · exact i
  · exact i

end

theorem onFloor (i : SpeechInv h) (r : Seat) {k : FloorId → KeyTaken}
    (step : ∀ f, (h.floor f).state = .live → SpeechInv (k f).hall) : SpeechInv (h.onFloor r k).hall := by
  unfold Hall.onFloor
  split
  · exact i
  · split
    · exact i
    next f at_ => exact step f (Hall.floorOf_live at_)

theorem onDesk (i : SpeechInv h) (r : Seat) {k : DeskFields → KeyTaken} (step : ∀ d, SpeechInv (k d).hall) :
    SpeechInv (h.onDesk r k).hall := by
  unfold Hall.onDesk
  split
  · exact step _
  · exact i

theorem handKey (i : SpeechInv h) (now : Clock) {n : SeatId} {r : Seat} (held : h.seat? n = some r) (k : KeyEvent) :
    SpeechInv (h.handKey now n r k).hall := by
  unfold Hall.handKey
  split
  · exact i
  cases k with
  | mic =>
    show SpeechInv (h.onFloor r (h.micKey now n r)).hall
    refine i.onFloor r fun f live => ?_
    unfold Hall.micKey
    split
    · exact i
    · exact i.mic held live
  | cancel =>
    show SpeechInv (h.cancel now n).hall
    exact i.cancel
  | next =>
    show SpeechInv (h.onFloor r (h.nextKey now)).hall
    exact i.onFloor r fun f live => i.nextKey live
  | priorityDown =>
    show SpeechInv (h.onFloor r fun f => taken (h.priorityDown now f n)).hall
    refine i.onFloor r fun f _ => ?_
    show SpeechInv (taken (h.priorityDown now f n)).hall
    rw [taken_hall]
    exact i.priorityDown now f n
  | priorityUp =>
    show SpeechInv (taken (h.leaveHolders n)).hall
    rw [taken_hall]
    exact i.leaveHolders n
  | deskOn =>
    show SpeechInv (h.onDesk r (h.deskOn n)).hall
    exact i.onDesk r fun d => i.speechless (Speechless.deskOn h n d)
  | deskOff =>
    show SpeechInv (h.onDesk r fun _ => taken (h.deskLeaves n .deskOff)).hall
    refine i.onDesk r fun _ => ?_
    show SpeechInv (taken (h.deskLeaves n .deskOff)).hall
    rw [taken_hall]
    exact i.speechless (Speechless.deskLeaves h n _)
  | outA =>
    show SpeechInv (h.onDesk r fun d => h.selectOut n d .a).hall
    exact i.onDesk r fun d => i.speechless (Speechless.selectOut h n d .a)
  | outB =>
    show SpeechInv (h.onDesk r fun d => h.selectOut n d .b).hall
    exact i.onDesk r fun d => i.speechless (Speechless.selectOut h n d .b)
  | relay a =>
    show SpeechInv (h.onDesk r fun d => h.relayKey n d (relayArgOf a)).hall
    exact i.onDesk r fun d => i.speechless (Speechless.relayKey h n d _)

/-! ## Seat records written -/

theorem updSeat (i : SpeechInv h) (n : SeatId) (f : Seat → Seat) : SpeechInv (h.updSeat n f) :=
  i.talk (by simp [Hall.talk])

theorem mark (i : SpeechInv h) (n : SeatId) : SpeechInv (h.mark n) := i.talk (by simp [Hall.talk])

theorem takeKey (i : SpeechInv h) (now : Clock) (n : SeatId) (k : KeyEvent) : SpeechInv (h.takeKey now n k) := by
  unfold Hall.takeKey
  split
  next r held =>
    simp only []
    split
    · exact ((((i.handKey now held k).updSeat n _).mark n).recompose n).arbitrate now
    · exact (i.handKey now held k).arbitrate now
  · exact i

theorem setReach (i : SpeechInv h) (n : SeatId) (x : Reach) : SpeechInv (h.setReach n x) := by
  unfold Hall.setReach
  split
  · split
    · exact i
    · exact (i.updSeat n _).mark n
  · exact i

/-! ## Reports of the Seat Table (04 section 4.10) -/

theorem setLinkMute (i : SpeechInv h) (n : SeatId) (mute : Bool) : SpeechInv (h.setLinkMute n mute) := by
  unfold Hall.setLinkMute
  split
  next f e floor speaks =>
    rw [Hall.speaker?, floor] at speaks
    exact (i.setMutes (List.mem_of_find?_eq_some speaks) _ _).raise _
  · exact i

theorem setUnreachable (i : SpeechInv h) (n : SeatId) (mark : Bool) : SpeechInv (h.setUnreachable n mark) := by
  unfold Hall.setUnreachable
  split
  next f _ =>
    refine ((i.updFloor f ?_ rfl rfl).raise _).recomposeAll _
    refine Prod.ext rfl ?_
    simp only [Floor.lists, List.map_map]
    refine List.map_congr_left fun w _ => ?_
    simp only [Function.comp]
    split <;> rfl
  · exact i

theorem speechLink (i : SpeechInv h) (now : Clock) (n : SeatId) (lost : Bool) : SpeechInv (h.speechLink now n lost) := by
  unfold Hall.speechLink
  split
  · exact ((i.setLinkMute n lost).setUnreachable n lost).arbitrate now
  · exact i

theorem endRoles (i : SpeechInv h) (now : Clock) (n : SeatId) (t : TurnCause) (c : RemovalCause) :
    SpeechInv (h.endRoles now n t c) := by
  unfold Hall.endRoles
  split
  · exact i.endTurn now _ n t
  · exact i.removeEntry _ n c
  · exact i

theorem speechGone (i : SpeechInv h) (now : Clock) (n : SeatId) (t : TurnCause) (c : RemovalCause) :
    SpeechInv (h.speechGone now n t c) :=
  ((i.endRoles now n t c).leaveHolders n).arbitrate now

theorem badgeRemoved (i : SpeechInv h) (now : Clock) (n : SeatId) : SpeechInv (h.badgeRemoved now n) := by
  unfold Hall.badgeRemoved
  split
  · split
    · exact (i.endRoles now n _ _).arbitrate now
    · exact i
  · exact i

/-! ## Seat answered, missing, gone and retired -/

theorem setLink (i : SpeechInv h) (n : SeatId) (l : Link) : SpeechInv (h.setLink n l) := (i.updSeat n _).mark n

theorem restoreLink (i : SpeechInv h) (now : Clock) (n : SeatId) (r : Seat) : SpeechInv (h.restoreLink now n r) := by
  unfold Hall.restoreLink
  split
  · exact i
  · exact (((i.setLink n _).speechLink now n false).speechless (Speechless.deskLinkRegained _ n)).recompose n
  · exact i.setLink n _

theorem takeSlot (i : SpeechInv h) (n : SeatId) (slot : ListenSlot) : SpeechInv (h.takeSlot n slot) := by
  unfold Hall.takeSlot
  split
  · split
    · exact i
    · exact ((i.updSeat n _).mark n).retune _
  · exact i

theorem setBadge (i : SpeechInv h) (n : SeatId) (b : Option Badge) : SpeechInv (h.setBadge n b) := (i.updSeat n _).mark n

theorem dropBadge (i : SpeechInv h) (now : Clock) (n : SeatId) : SpeechInv (h.dropBadge now n) := by
  unfold Hall.dropBadge
  simp only []
  split
  · exact (i.setBadge n none).badgeRemoved now n
  · exact i.setBadge n none

theorem takeBadge (i : SpeechInv h) (now : Clock) (n : SeatId) (b : Option Badge) : SpeechInv (h.takeBadge now n b) := by
  unfold Hall.takeBadge
  split
  · split
    · exact i
    · exact i.setBadge n _
    · exact i.dropBadge now n
    · split
      · exact i
      · exact (i.dropBadge now n).setBadge n _
  · exact i

theorem seatAnswered (i : SpeechInv h) (now : Clock) (n : SeatId) (via : Reach) (slot : ListenSlot)
    (badge : Option Badge) (keys : List KeyEvent) : SpeechInv (h.seatAnswered now n via slot badge keys) := by
  unfold Hall.seatAnswered
  split
  · exact SpeechInv.foldl ((((i.setReach n via).restoreLink now n _).takeSlot n slot).takeBadge now n badge)
      (fun _ k i => i.takeKey now n k) keys
  · exact i

theorem seatMissing (i : SpeechInv h) (now : Clock) (n : SeatId) : SpeechInv (h.seatMissing now n) := by
  unfold Hall.seatMissing
  split
  · split
    · exact (((i.setLink n _).raise _).speechLink now n true).speechless (Speechless.deskLinkLost _ n)
    · exact i
  · exact i

theorem graceExpires (i : SpeechInv h) (now : Clock) (n : SeatId) : SpeechInv (h.graceExpires now n) := by
  unfold Hall.graceExpires
  split
  · split
    · simp only []
      split
      · exact ((((i.updSeat n _).mark n).speechGone now n _ _).speechless (Speechless.deskLeaves _ n _)).recompose n
      · exact (((i.updSeat n _).mark n).speechless (Speechless.deskLeaves _ n _)).recompose n
    · exact i
  · exact i

theorem setPos (i : SpeechInv h) (n : SeatId) (p : SeatPos) : SpeechInv (h.setPos n p) := i.talk rfl

theorem retire (i : SpeechInv h) (now : Clock) (n : SeatId) (c : RetireCause) : SpeechInv (h.retire now n c) :=
  (((i.speechGone now n _ _).speechless (Speechless.deskRetired _ n _)).setPos n .free).mark n

/-! ## The tick and the timer events -/

theorem Speaker.tick_key (e : Speaker) : e.tick.key = e.key := rfl

theorem count (i : SpeechInv h) : SpeechInv h.count := by
  have floor : ∀ f, h.count.floor f = (h.floor f).tick := fun f => by
    simp [Hall.count, Hall.floor]
  refine (SameSpeech.mk (fun f => ?_) (fun f => ?_) (fun f => ?_) (fun f => ?_) rfl : SameSpeech h h.count).inv i <;>
    rw [floor]
  · refine Prod.ext ?_ rfl
    simp only [Floor.lists, Floor.tick, List.map_map]
    rfl
  all_goals rfl

theorem timeUp (i : SpeechInv h) (now : Clock) (n : SeatId) : SpeechInv (h.timeUp now n) := by
  unfold Hall.timeUp
  split
  · exact i.turnOver now _ n _
  · exact i

theorem tick (i : SpeechInv h) (now : Clock) : SpeechInv (h.tick now) := by
  unfold Hall.tick
  refine ((i.count.recomposeAll _).recomposeAll _).foldl (fun g n i => ?_) _
  unfold Hall.timeUpIfDue
  split
  · exact i.timeUp now n
  · exact i

theorem warnZero (i : SpeechInv h) (n : SeatId) : SpeechInv (h.warnZero n) := by
  unfold Hall.warnZero
  split
  next f _ =>
    refine (i.updFloor f ?_ rfl rfl).recompose n
    refine Prod.ext ?_ rfl
    simp only [Floor.lists, List.map_map]
    refine List.map_congr_left fun e _ => ?_
    simp only [Function.comp]
    split <;> rfl
  · exact i

theorem endFlash (i : SpeechInv h) (n : SeatId) : SpeechInv (h.endFlash n) := by
  unfold Hall.endFlash
  split
  · exact (i.updSeat n _).recompose n
  · exact i

theorem refreshSeats (i : SpeechInv h) : SpeechInv h.refreshSeats := (i.retune _).recomposeAll _

/-! ## Seats named by the host -/

/-- A seat that speaks nowhere waits on no other floor than f afterwards. -/
theorem waitsOnlyOn (i : SpeechInv h) {f : FloorId} {n : SeatId} (silent : h.speaks n = false) :
    SpeechInv (h.waitsOnlyOn f n) ∧ (∀ g, n ∈ ((h.waitsOnlyOn f n).floor g).seats → g = f ∧
      ∀ e ∈ ((h.waitsOnlyOn f n).floor f).speakers, e.seat ≠ n) ∧ (h.waitsOnlyOn f n).floor f = h.floor f := by
  have floor : ∀ g, (h.waitsOnlyOn f n).floor g = if g = f then h.floor g
      else { h.floor g with queue := (h.floor g).queue.filter fun e => e.seat ≠ n } := fun g => by
    simp [Hall.waitsOnlyOn, Hall.floor]
  have none_ : h.speakerFloor n = none := by simpa [Hall.speaks] using silent
  have speakers : ∀ g, ((h.waitsOnlyOn f n).floor g).speakers = (h.floor g).speakers := fun g => by
    rw [floor]
    split <;> rfl
  have queue : ∀ g, List.Sublist ((h.waitsOnlyOn f n).floor g).queue (h.floor g).queue := fun g => by
    rw [floor]
    split
    · exact List.Sublist.refl _
    · exact List.filter_sublist
  refine ⟨speechInv_iff.mpr ⟨i.listed.shrinkQueue speakers queue rfl, fun g => ?_⟩, fun g m => ?_, ?_⟩
  · refine (i.fits g).shrink ?_ ?_ ?_ (queue g)
    · rw [floor]
      split <;> rfl
    · rw [floor]
      split <;> rfl
    · rw [speakers]
  · refine ⟨?_, fun e me => Hall.speakerFloor_none none_ f (by rwa [speakers] at me)⟩
    by_contra ne
    obtain m | m := List.mem_append.mp m
    · obtain ⟨e, me, seat⟩ := List.mem_map.mp m
      exact Hall.speakerFloor_none none_ g (by rwa [speakers] at me) seat
    · rw [floor, if_neg ne] at m
      obtain ⟨w, mw, seat⟩ := List.mem_map.mp m
      simp [seat] at mw
  · rw [floor, if_pos rfl]

end Machine.SpeechInv

end Sys2Proof

/-! PROOFS. Entries moved from one floor to another (08 R140, R141, R150): their lists, their voice slots, the excess closed,
the badge check and the trim of the queue they join. -/

namespace Sys2Proof

/-! ## Seats moved between lists -/

/-- Seats that leave one list for another stand in one list, once, as before. -/
theorem move_seats {s t : FloorId → List SeatId} {x y : FloorId} (ne : x ≠ y) {m : List SeatId}
    (nodup : ∀ f, (s f).Nodup) (one : ∀ f g n, n ∈ s f → n ∈ s g → f = g)
    (left : List.Perm (s y) (t y ++ m)) (joined : List.Perm (t x) (s x ++ m))
    (others : ∀ f, f ≠ x → f ≠ y → t f = s f) :
    (∀ f, (t f).Nodup) ∧ ∀ f g n, n ∈ t f → n ∈ t g → f = g := by
  obtain ⟨nodupLeft, nodupMoved, apart⟩ := List.nodup_append.mp (left.nodup_iff.mp (nodup y))
  have moved : ∀ n ∈ m, n ∈ s y := fun n k => left.mem_iff.mpr (List.mem_append_right _ k)
  have stay : ∀ f n, f ≠ x → n ∈ t f → n ∈ s f := by
    intro f n nx k
    by_cases ny : f = y
    · subst ny
      exact left.mem_iff.mpr (List.mem_append_left _ k)
    · rwa [← others f nx ny]
  have come : ∀ g n, g ≠ x → n ∈ t x → n ∈ t g → False := by
    intro g n nx k k'
    have old := stay g n nx k'
    obtain k | k := List.mem_append.mp (joined.mem_iff.mp k)
    · exact nx (one g x n old k)
    · obtain rfl := one g y n old (moved n k)
      exact apart n k' n k rfl
  refine ⟨fun f => ?_, fun f g n mf mg => ?_⟩
  · by_cases ex : f = x
    · subst ex
      exact joined.nodup_iff.mpr (List.nodup_append.mpr ⟨nodup f, nodupMoved, fun a ma b mb k =>
        ne (one f y a ma (moved a (k ▸ mb)))⟩)
    · by_cases ey : f = y
      · subst ey
        exact nodupLeft
      · rw [others f ex ey]
        exact nodup f
  · by_cases ex : f = x <;> by_cases ey : g = x
    · rw [ex, ey]
    · subst ex
      exact (come g n ey mf mg).elim
    · subst ey
      exact (come f n ex mg mf).elim
    · exact one f g n (stay f n ex mf) (stay g n ey mg)

namespace Hall.Listed

variable {h g : Hall} {x y : FloorId}

/-- Speakers that satisfy a test pass from floor y to floor x, and their slots with them (04 R64). -/
theorem moveSpeakers (l : h.Listed) (ne : x ≠ y) (p : Speaker → Bool)
    (left : (g.floor y).speakers = (h.floor y).speakers.filter fun e => !p e)
    (joined : (g.floor x).speakers = (h.floor x).speakers ++ (h.floor y).speakers.filter p)
    (others : ∀ f, f ≠ x → f ≠ y → (g.floor f).speakers = (h.floor f).speakers)
    (queue : ∀ f, (g.floor f).queue = (h.floor f).queue)
    (slots : ∀ k, g.slots.get k = if k ∈ ((h.floor y).speakers.filter p).map (·.slot) then
      (h.slots.get k).map fun v => { v with floor := x } else h.slots.get k) : g.Listed := by
  have parts : List.Perm ((h.floor y).speakers.map (·.seat))
      (((h.floor y).speakers.filter fun e => !p e).map (·.seat) ++ ((h.floor y).speakers.filter p).map (·.seat)) := by
    rw [← List.map_append]
    exact ((List.perm_append_comm.trans (List.filter_append_perm p _)).map _).symm
  obtain ⟨nodup, one⟩ := move_seats (s := fun f => (h.floor f).seats) (t := fun f => (g.floor f).seats)
    (m := ((h.floor y).speakers.filter p).map (·.seat)) ne l.nodup l.one
    (by
      simp only [Floor.seats, left, queue]
      refine (parts.append_right _).trans ?_
      rw [List.append_assoc, List.append_assoc]
      exact List.perm_append_comm.append_left _)
    (by
      simp only [Floor.seats, joined, queue, List.map_append, List.append_assoc]
      exact List.perm_append_comm.append_left _)
    fun f nx ny => by simp only [Floor.seats, others f nx ny, queue]
  -- where a speaker of g spoke before
  have came : ∀ f e, e ∈ (g.floor f).speakers → (f = x ∧ e ∈ (h.floor y).speakers ∧ p e = true) ∨
      (e ∈ (h.floor f).speakers ∧ (f = y → p e = false)) := by
    intro f e m
    by_cases ex : f = x
    · subst ex
      rw [joined] at m
      obtain m | m := List.mem_append.mp m
      · exact .inr ⟨m, fun k => absurd k ne⟩
      · exact .inl ⟨rfl, List.mem_of_mem_filter m, List.of_mem_filter m⟩
    · by_cases ey : f = y
      · subst ey
        rw [left] at m
        exact .inr ⟨List.mem_of_mem_filter m, fun _ => by simpa using List.of_mem_filter m⟩
      · rw [others f ex ey] at m
        exact .inr ⟨m, fun k => absurd k ey⟩
  have moves : ∀ f e, e ∈ (h.floor f).speakers →
      (e.slot ∈ ((h.floor y).speakers.filter p).map (·.slot) ↔ f = y ∧ p e = true) := by
    intro f e m
    constructor
    · intro k
      obtain ⟨d, md, slot⟩ := List.mem_map.mp k
      obtain ⟨rfl, rfl⟩ := l.slot_unique (List.mem_of_mem_filter md) m slot
      exact ⟨rfl, List.of_mem_filter md⟩
    · rintro ⟨rfl, pe⟩
      exact List.mem_map_of_mem (List.mem_filter.mpr ⟨m, pe⟩)
  refine ⟨nodup, one, ?_, fun f e m => ?_, fun k v at_ => ?_⟩
  · have same : g.waiting = h.waiting := Finset.sum_congr rfl fun f _ => by rw [queue]
    rw [same]
    exact l.pool
  · obtain ⟨rfl, old, pe⟩ | ⟨old, stays⟩ := came f e m
    · rw [slots, if_pos ((moves y e old).mpr ⟨rfl, pe⟩), l.held y e old]
      rfl
    · rw [slots, if_neg, l.held f e old]
      rw [moves f e old]
      rintro ⟨rfl, pe⟩
      rw [stays rfl] at pe
      cases pe
  · rw [slots] at at_
    split at at_
    next moved =>
      obtain ⟨v', before, rfl⟩ := Option.map_eq_some_iff.mp at_
      obtain ⟨e, m, rfl, seat⟩ := l.stood k v' before
      obtain ⟨at_y, pe⟩ := (moves v'.floor e m).mp moved
      refine ⟨e, ?_, rfl, seat⟩
      rw [joined]
      exact List.mem_append_right _ (List.mem_filter.mpr ⟨at_y ▸ m, pe⟩)
    next stays =>
      obtain ⟨e, m, rfl, seat⟩ := l.stood k v at_
      rw [moves v.floor e m] at stays
      refine ⟨e, ?_, rfl, seat⟩
      by_cases ex : v.floor = x
      · rw [ex] at m ⊢
        rw [joined]
        exact List.mem_append_left _ m
      · by_cases ey : v.floor = y
        · rw [ey] at m ⊢
          rw [left]
          refine List.mem_filter.mpr ⟨m, ?_⟩
          simpa using fun pe => stays ⟨ey, pe⟩
        · rw [others _ ex ey]
          exact m

/-- Queue entries that satisfy a test pass from floor y to floor x. -/
theorem moveQueue (l : h.Listed) (ne : x ≠ y) (p : Waiting → Bool)
    (left : (g.floor y).queue = (h.floor y).queue.filter fun e => !p e)
    (joined : (g.floor x).queue = (h.floor x).queue ++ (h.floor y).queue.filter p)
    (others : ∀ f, f ≠ x → f ≠ y → (g.floor f).queue = (h.floor f).queue)
    (speakers : ∀ f, (g.floor f).speakers = (h.floor f).speakers) (slots : g.slots = h.slots) : g.Listed := by
  have parts : List.Perm ((h.floor y).queue.map (·.seat))
      (((h.floor y).queue.filter fun e => !p e).map (·.seat) ++ ((h.floor y).queue.filter p).map (·.seat)) := by
    rw [← List.map_append]
    exact ((List.perm_append_comm.trans (List.filter_append_perm p _)).map _).symm
  obtain ⟨nodup, one⟩ := move_seats (s := fun f => (h.floor f).seats) (t := fun f => (g.floor f).seats)
    (m := ((h.floor y).queue.filter p).map (·.seat)) ne l.nodup l.one
    (by
      simp only [Floor.seats, left, speakers, List.append_assoc]
      exact parts.append_left _)
    (by simp only [Floor.seats, joined, speakers, List.map_append, List.append_assoc, List.Perm.refl])
    fun f nx ny => by simp only [Floor.seats, others f nx ny, speakers]
  refine ⟨nodup, one, ?_, fun f e m => ?_, fun k v at_ => ?_⟩
  · have total := (List.filter_append_perm p (h.floor y).queue).length_eq
    rw [List.length_append] at total
    have same : g.waiting = h.waiting := Hall.waiting_move (k := ((h.floor y).queue.filter p).length) ne
      (by rw [left]; omega) (by rw [joined, List.length_append]) others
    rw [same]
    exact l.pool
  · rw [slots]
    exact l.held f e (by rwa [speakers] at m)
  · rw [slots] at at_
    rw [speakers]
    exact l.stood k v at_

end Hall.Listed

/-! ## The moves of the model -/

theorem Hall.moveSlots_floors (h : Hall) (x : FloorId) (es : List Speaker) : (h.moveSlots x es).floors = h.floors := by
  refine foldl_keeps (part := Hall.floors) (fun g e => ?_) es h
  split
  · simp
  · rfl

theorem Hall.moveSlots_seats (h : Hall) (x : FloorId) (es : List Speaker) : (h.moveSlots x es).seats = h.seats := by
  refine foldl_keeps (part := Hall.seats) (fun g e => ?_) es h
  split
  · simp
  · rfl

theorem Hall.moveSlots_sound (h : Hall) (x : FloorId) (es : List Speaker) : (h.moveSlots x es).sound = h.sound := by
  refine foldl_keeps (part := Hall.sound) (fun g e => ?_) es h
  split
  · simp [Hall.sound]
  · rfl

theorem Hall.moveSlots_slots (h : Hall) (x : FloorId) (es : List Speaker) (k : SlotId) :
    (h.moveSlots x es).slots.get k = if k ∈ es.map (·.slot) then
      (h.slots.get k).map fun v => { v with floor := x } else h.slots.get k := by
  unfold Hall.moveSlots
  induction es generalizing h with
  | nil => rfl
  | cons e es ih =>
    rw [List.foldl_cons, ih]
    cases he : h.slots.get e.slot with
    | none =>
      by_cases same : e.slot = k
      · subst same
        simp [he]
      · simp [Ne.symm same]
    | some v =>
      by_cases same : e.slot = k
      · subst same
        simp [he]
      · simp [Ne.symm same, Tbl.get_set_ne _ _ same]

/-- Speaker entries appended to a floor's list, their slots with them. -/
def Hall.joined (h : Hall) (x : FloorId) (es : List Speaker) : Hall :=
  ((h.updFloor x fun f => { f with speakers := f.speakers ++ es }).moveSlots x es).raiseIf (!es.isEmpty)
    (.speakersChanged x)

/-- The badge check on the entries a floor has taken in (08 R140). -/
def Hall.checkBadges (now : Clock) (h : Hall) (x : FloorId) (seats : List SeatId) : Hall :=
  if (h.floor x).bank.badgeRequired then
    let g := h.closeTurns now x
      (h.unbadged (((h.floor x).speakers.map (·.seat)).filter fun n => seats.contains n)) .noBadge
    g.removeEntries x (g.unbadged (((g.floor x).queue.map (·.seat)).filter fun n => seats.contains n)) .noBadge
  else h

theorem Hall.absorbSpeakers_eq (now : Clock) (h : Hall) (x : FloorId) (es : List Speaker) :
    h.absorbSpeakers now x es =
      ((h.joined x es).closeExcess now x .mergeExcess).checkBadges now x (es.map (·.seat)) := rfl

/-- The badge check on queue entries a floor has taken in, and the trim to its cap (08 R141). -/
def Hall.settleQueue (h : Hall) (x : FloorId) (seats : List SeatId) : Hall :=
  (if (h.floor x).bank.badgeRequired then h.removeEntries x (h.unbadged seats) .noBadge else h).trimQueue x
    .mergeOverflow

/-- Speakers taken from floor y, which is left with another record, and appended to floor x. -/
def Hall.carrySpeakers (h : Hall) (x y : FloorId) (k : Floor → Floor) (es : List Speaker) : Hall :=
  ((h.updFloor y k).raiseIf (!es.isEmpty) (.speakersChanged y)).joined x es

/-- Queue entries taken from floor y, which is left with another record, and appended to floor x. -/
def Hall.carryQueue (h : Hall) (x y : FloorId) (k : Floor → Floor) (es : List Waiting) : Hall :=
  (((h.updFloor y k).raiseIf (!es.isEmpty) (.queueChanged y)).updFloor x fun f =>
    { f with queue := f.queue ++ es }).raiseIf (!es.isEmpty) (.queueChanged x)

theorem Hall.foldSpeakers_eq (now : Clock) (h : Hall) (x y : FloorId) : h.foldSpeakers now x y =
    ((h.carrySpeakers x y (fun f => { f with speakers := [] }) (h.floor y).speakers).closeExcess now x
      .mergeExcess).checkBadges now x ((h.floor y).speakers.map (·.seat)) := rfl

theorem Hall.foldQueue_eq (h : Hall) (x y : FloorId) : h.foldQueue x y =
    (h.carryQueue x y (fun f => { f with queue := [], lastRemoval := none }) (h.floor y).queue).settleQueue x
      ((h.floor y).queue.map (·.seat)) := rfl

/-- What a move between floors x and y leaves of the rest of the hall. -/
structure Moves (x y : FloorId) (h g : Hall) : Prop where
  others : ∀ f, f ≠ x → f ≠ y → g.floor f = h.floor f
  turns : g.turns = h.turns
  sound : g.sound = h.sound
  desks : g.desks = h.desks

section

variable (h : Hall) {x y : FloorId} (k : Floor → Floor)

theorem Hall.carrySpeakers_floors (x y : FloorId) (es : List Speaker) : (h.carrySpeakers x y k es).floors =
    (h.floors.upd y k).upd x fun f => { f with speakers := f.speakers ++ es } := by
  unfold Hall.carrySpeakers Hall.joined
  rw [Hall.raiseIf_floors, Hall.moveSlots_floors, Hall.updFloor_floors, Hall.raiseIf_floors, Hall.updFloor_floors]

theorem Hall.floor_of_upds {h g : Hall} {k j : Floor → Floor} (ne : x ≠ y)
    (e : g.floors = (h.floors.upd y k).upd x j) :
    g.floor x = j (h.floor x) ∧ g.floor y = k (h.floor y) ∧ ∀ f, f ≠ x → f ≠ y → g.floor f = h.floor f := by
  have two : ∀ f, g.floor f = ((h.updFloor y k).updFloor x j).floor f := fun f => congrArg (fun t => t.get f) e
  refine ⟨?_, ?_, fun f nx ny => ?_⟩
  · rw [two, Hall.floor_updFloor, if_pos rfl, Hall.floor_updFloor, if_neg (Ne.symm ne)]
  · rw [two, Hall.floor_updFloor, if_neg ne, Hall.floor_updFloor, if_pos rfl]
  · rw [two, Hall.floor_updFloor, if_neg (Ne.symm nx), Hall.floor_updFloor, if_neg (Ne.symm ny)]

theorem Hall.carrySpeakers_moves (ne : x ≠ y) (es : List Speaker) : Moves x y h (h.carrySpeakers x y k es) := by
  have seats : (h.carrySpeakers x y k es).seats = h.seats := by
    unfold Hall.carrySpeakers Hall.joined
    rw [Hall.raiseIf_seats, Hall.moveSlots_seats, Hall.updFloor_seats, Hall.raiseIf_seats, Hall.updFloor_seats]
  have sound : (h.carrySpeakers x y k es).sound = h.sound := by
    unfold Hall.carrySpeakers Hall.joined
    rw [Sound.raiseIf, Hall.moveSlots_sound]
    exact Sound.raiseIf (h.updFloor y k) _ _
  exact ⟨(Hall.floor_of_upds ne (h.carrySpeakers_floors k x y es)).2.2, Turns.same seats, sound, Desks.same seats⟩

theorem Hall.carrySpeakers_slots (x y : FloorId) (es : List Speaker) (j : SlotId) :
    (h.carrySpeakers x y k es).slots.get j = if j ∈ es.map (·.slot) then
      (h.slots.get j).map fun v => { v with floor := x } else h.slots.get j := by
  unfold Hall.carrySpeakers Hall.joined
  rw [Hall.raiseIf_slots, Hall.moveSlots_slots, Hall.updFloor_slots, Hall.raiseIf_slots, Hall.updFloor_slots]

theorem Hall.carryQueue_floors (x y : FloorId) (es : List Waiting) : (h.carryQueue x y k es).floors =
    (h.floors.upd y k).upd x fun f => { f with queue := f.queue ++ es } := by
  unfold Hall.carryQueue
  rw [Hall.raiseIf_floors, Hall.updFloor_floors, Hall.raiseIf_floors, Hall.updFloor_floors]

theorem Hall.carryQueue_slots (x y : FloorId) (es : List Waiting) : (h.carryQueue x y k es).slots = h.slots := by
  unfold Hall.carryQueue
  rw [Hall.raiseIf_slots, Hall.updFloor_slots, Hall.raiseIf_slots, Hall.updFloor_slots]

theorem Hall.carryQueue_moves (ne : x ≠ y) (es : List Waiting) : Moves x y h (h.carryQueue x y k es) := by
  have seats : (h.carryQueue x y k es).seats = h.seats := by
    unfold Hall.carryQueue
    rw [Hall.raiseIf_seats, Hall.updFloor_seats, Hall.raiseIf_seats, Hall.updFloor_seats]
  have sound : (h.carryQueue x y k es).sound = h.sound := by
    unfold Hall.carryQueue
    rw [Sound.raiseIf]
    exact Sound.raiseIf (h.updFloor y k) _ _
  exact ⟨(Hall.floor_of_upds ne (h.carryQueue_floors k x y es)).2.2, Turns.same seats, sound, Desks.same seats⟩

/-- Speakers that satisfy a test carried over. -/
theorem Hall.Listed.carrySpeakers {h : Hall} (l : h.Listed) (ne : x ≠ y) {k : Floor → Floor} (p : Speaker → Bool)
    (left : (k (h.floor y)).speakers = (h.floor y).speakers.filter fun e => !p e)
    (queue : (k (h.floor y)).queue = (h.floor y).queue) :
    (h.carrySpeakers x y k ((h.floor y).speakers.filter p)).Listed := by
  obtain ⟨at_x, at_y, others⟩ := Hall.floor_of_upds ne (h.carrySpeakers_floors k x y ((h.floor y).speakers.filter p))
  refine l.moveSpeakers ne p (by rw [at_y, left]) (by rw [at_x]) (fun f nx ny => by rw [others f nx ny]) (fun f => ?_)
    (h.carrySpeakers_slots k x y _)
  by_cases ex : f = x
  · rw [ex, at_x]
  · by_cases ey : f = y
    · rw [ey, at_y, queue]
    · rw [others f ex ey]

/-- Queue entries that satisfy a test carried over. -/
theorem Hall.Listed.carryQueue {h : Hall} (l : h.Listed) (ne : x ≠ y) {k : Floor → Floor} (p : Waiting → Bool)
    (left : (k (h.floor y)).queue = (h.floor y).queue.filter fun e => !p e)
    (speakers : (k (h.floor y)).speakers = (h.floor y).speakers) :
    (h.carryQueue x y k ((h.floor y).queue.filter p)).Listed := by
  obtain ⟨at_x, at_y, others⟩ := Hall.floor_of_upds ne (h.carryQueue_floors k x y ((h.floor y).queue.filter p))
  refine l.moveQueue ne p (by rw [at_y, left]) (by rw [at_x]) (fun f nx ny => by rw [others f nx ny]) (fun f => ?_)
    (h.carryQueue_slots k x y _)
  by_cases ex : f = x
  · rw [ex, at_x]
  · by_cases ey : f = y
    · rw [ey, at_y, speakers]
    · rw [others f ex ey]

end

/-! ## The steps that follow a move -/

namespace LocalTo

theorem checkBadges (now : Clock) (h : Hall) (x : FloorId) (ns : List SeatId) :
    LocalTo x h (h.checkBadges now x ns) := by
  unfold Hall.checkBadges
  split
  · exact (closeTurns now h x _ _).trans (removeEntries _ x _ _)
  · exact refl x h

theorem settleQueue (h : Hall) (x : FloorId) (ns : List SeatId) : LocalTo x h (h.settleQueue x ns) := by
  unfold Hall.settleQueue
  split
  · exact (removeEntries h x _ _).trans (trimQueue _ x _)
  · exact trimQueue h x _

end LocalTo

theorem Hall.checkBadges_lists (now : Clock) (h : Hall) (x : FloorId) (ns : List SeatId) :
    List.Sublist ((h.checkBadges now x ns).floor x).speakers (h.floor x).speakers ∧
      List.Sublist ((h.checkBadges now x ns).floor x).queue (h.floor x).queue := by
  unfold Hall.checkBadges
  split
  · simp only []
    generalize hg : h.closeTurns now x _ .noBadge = g
    obtain ⟨speakers, queue⟩ := h.closeTurns_lists now x
      (h.unbadged (((h.floor x).speakers.map (·.seat)).filter fun n => ns.contains n)) .noBadge
    rw [hg] at speakers queue
    obtain ⟨speakers', queue'⟩ := g.removeEntries_lists x
      (g.unbadged (((g.floor x).queue.map (·.seat)).filter fun n => ns.contains n)) .noBadge
    rw [speakers', queue', speakers, queue]
    exact ⟨List.filter_sublist, List.filter_sublist⟩
  · exact ⟨List.Sublist.refl _, List.Sublist.refl _⟩

namespace Hall.Listed

variable {h : Hall}

theorem checkBadges (l : h.Listed) (now : Clock) (x : FloorId) (ns : List SeatId) : (h.checkBadges now x ns).Listed := by
  unfold Hall.checkBadges
  split
  · exact (l.closeTurns now x _ _).removeEntries x _ _
  · exact l

theorem settleQueue (l : h.Listed) (x : FloorId) (ns : List SeatId) : (h.settleQueue x ns).Listed := by
  unfold Hall.settleQueue
  split
  · exact (l.removeEntries x _ _).trimQueue x _
  · exact l.trimQueue x _

/-- After the excess is closed and the badges are checked a floor has no more delegates than its limit. -/
theorem absorbed (l : h.Listed) (now : Clock) (x : FloorId) (c : TurnCause) (ns : List SeatId) :
    ((h.closeExcess now x c).checkBadges now x ns).Listed ∧
      (((h.closeExcess now x c).checkBadges now x ns).floor x).delegates ≤ (h.floor x).bank.limit := by
  obtain ⟨closed, limit, -⟩ := l.closeExcess now x c
  exact ⟨closed.checkBadges now x ns, ((Hall.checkBadges_lists now _ x ns).1.countP_le).trans limit⟩

theorem settleQueue_fits (l : h.Listed) {x : FloorId} (ns : List SeatId) (live : (h.floor x).state = .live)
    (limit : (h.floor x).delegates ≤ (h.floor x).bank.limit) : ((h.settleQueue x ns).floor x).Fits := by
  unfold Hall.settleQueue
  split
  · have k := LocalTo.removeEntries h x (h.unbadged ns) .noBadge
    refine (l.removeEntries x _ _).trimmed .mergeOverflow (fun out => absurd ((k.state x).trans live) out) ?_
    rw [k.bank, Floor.delegates, (h.removeEntries_lists x _ .noBadge).1]
    exact limit
  · exact l.trimmed .mergeOverflow (fun out => absurd live out) limit

end Hall.Listed

end Sys2Proof

/-! PROOFS. The invariant of the Speech Arbiter through combining and splitting rooms (08 R139 to R154), annexing (03 R49),
opening (03 R43) and closing floors (03 R45, 08 R155). -/

namespace Sys2Proof

/-! ## Carriers -/

theorem Hall.setCarriers_floor (h : Hall) (fs : List FloorId) (x f : FloorId) :
    (h.setCarriers fs x).floor f = if f ∈ fs then { h.floor f with state := .folded x } else h.floor f := by
  unfold Hall.setCarriers
  induction fs generalizing h with
  | nil => rfl
  | cons z fs ih =>
    rw [List.foldl_cons, ih, Hall.floor_updFloor]
    by_cases e : z = f
    · subst e
      simp
    · simp [e, Ne.symm e]

theorem Hall.setCarriers_slots (h : Hall) (fs : List FloorId) (x : FloorId) : (h.setCarriers fs x).slots = h.slots := by
  unfold Hall.setCarriers
  refine foldl_keeps (part := Hall.slots) (fun g z => ?_) fs h
  rfl

theorem Hall.mem_foldedInto {h : Hall} {x f : FloorId} : f ∈ h.foldedInto x ↔ (h.floor f).state = .folded x := by
  unfold Hall.foldedInto
  rw [Tbl.mem_positions, decide_eq_true_eq]
  show (h.floor f).carrier? = some x ↔ _
  unfold Floor.carrier?
  cases (h.floor f).state <;> simp

/-- The lists, the state and the bounds of a floor that the fold relation leaves (08 R139). -/
theorem Hall.foldRelation_floor {h : Hall} {x y : FloorId} (ne : x ≠ y) {carried : List FloorId} (outX : x ∉ carried)
    (outY : y ∉ carried) :
    (h.foldRelation x y carried).floor x = { h.floor x with
        members := (h.floor x).members ||| (h.floor y).members, adopted := some ((h.floor x).adopted.getD []) } ∧
      (h.foldRelation x y carried).floor y = { (h.floor y).dropAdopted (fun _ => true) with
        state := .folded x, home := (h.floor y).members, members := 0#12, adopted := none } ∧
      ∀ f, f ≠ x → f ≠ y → (h.foldRelation x y carried).floor f =
        if f ∈ carried then { h.floor f with state := .folded x } else h.floor f := by
  have home : ((h.floor y).dropAdopted fun _ => true).members = (h.floor y).members := by
    rw [(Relisted.dropAdopted (h.floor y) fun _ => true).rest]
  have floors : (h.foldRelation x y carried).floors = ((((h.updFloor y fun f => { f.dropAdopted fun _ => true with
      state := .folded x, home := f.members, members := 0#12, adopted := none }).setCarriers carried x).updFloor x
      fun f => { f with
        members := f.members ||| (h.floor y).members, adopted := some (f.adopted.getD []) })).floors :=
    Hall.retune_floors _ _
  have same := Hall.floor_of_floors floors
  refine ⟨?_, ?_, fun f nx ny => ?_⟩
  · rw [same, Hall.floor_updFloor, if_pos rfl, Hall.setCarriers_floor, if_neg outX, Hall.floor_updFloor,
      if_neg (Ne.symm ne)]
  · rw [same, Hall.floor_updFloor, if_neg ne, Hall.setCarriers_floor, if_neg outY, Hall.floor_updFloor, if_pos rfl]
  · rw [same, Hall.floor_updFloor, if_neg (Ne.symm nx), Hall.setCarriers_floor, Hall.floor_updFloor,
      if_neg (Ne.symm ny)]

theorem Floor.Fits.of_empty {x : Floor} (speakers : x.speakers = []) (queue : x.queue = []) : x.Fits :=
  ⟨fun _ => ⟨speakers, queue⟩, by rw [Floor.delegates, speakers]; exact Nat.zero_le _, by rw [queue]; exact Nat.zero_le _⟩

theorem Hall.Listed.of_records {h g : Hall} (l : h.Listed) (slots : g.slots = h.slots)
    (speakers : ∀ f, (g.floor f).speakers = (h.floor f).speakers)
    (queue : ∀ f, (g.floor f).queue = (h.floor f).queue) : g.Listed :=
  l.of_lists (fun f => by rw [Floor.lists, Floor.lists, speakers, queue]) slots

/-! ## The fold -/

section

variable {h : Hall} {x y : FloorId}

/-- The hall of a fold once the entries of the folded floor have moved (08 R139 to R141). -/
def Hall.foldEntries (now : Clock) (h : Hall) (x y : FloorId) : Hall :=
  ((h.foldRelation x y (h.foldedInto y)).foldSpeakers now x y).foldQueue x y

theorem Hall.foldInto_eq (now : Clock) (h : Hall) (x y : FloorId) : h.foldInto now x y =
    (((((((((h.foldEntries now x y).foldHolders x y).foldOriginals x y (h.foldedInto y)).foldOutputs x
      (y :: h.foldedInto y)).adoptionPass x).settleSwap now y).raiseFold (x :: y :: h.foldedInto y)).recomposeFloor
      x).arbitrate now) := rfl

/-- What the fold relation keeps of every floor's lists. -/
theorem Hall.foldRelation_lists (ne : x ≠ y) (liveX : (h.floor x).state = .live) (liveY : (h.floor y).state = .live)
    (f : FloorId) : ((h.foldRelation x y (h.foldedInto y)).floor f).speakers = (h.floor f).speakers ∧
      ((h.foldRelation x y (h.foldedInto y)).floor f).queue = (h.floor f).queue := by
  have out : ∀ f, (h.floor f).state = .live → f ∉ h.foldedInto y := fun f live k => by
    rw [Hall.mem_foldedInto, live] at k
    cases k
  obtain ⟨at_x, at_y, others⟩ := Hall.foldRelation_floor (h := h) ne (out x liveX) (out y liveY)
  by_cases ex : f = x
  · subst ex
    rw [at_x]
    exact ⟨rfl, rfl⟩
  · by_cases ey : f = y
    · subst ey
      rw [at_y, (Relisted.dropAdopted (h.floor f) fun _ => true).rest]
      exact ⟨rfl, rfl⟩
    · rw [others f ex ey]
      split <;> exact ⟨rfl, rfl⟩

theorem Hall.foldRelation_slots (x y : FloorId) (carried : List FloorId) :
    (h.foldRelation x y carried).slots = h.slots :=
  (Hall.retune_slots _ _).trans (Hall.setCarriers_slots _ carried x)

/-- The entries moved, with what each floor's record is left with. -/
theorem Machine.SpeechInv.foldEntries (i : Machine.SpeechInv h) (now : Clock) (ne : x ≠ y)
    (liveX : (h.floor x).state = .live) (liveY : (h.floor y).state = .live) :
    Machine.SpeechInv (h.foldEntries now x y) := by
  have outX : x ∉ h.foldedInto y := fun k => by
    rw [Hall.mem_foldedInto, liveX] at k
    cases k
  have outY : y ∉ h.foldedInto y := fun k => by
    rw [Hall.mem_foldedInto, liveY] at k
    cases k
  obtain ⟨relX, relY, relOthers⟩ := Hall.foldRelation_floor ne outX outY
  have relLists := Hall.foldRelation_lists ne liveX liveY
  have rel : (h.foldRelation x y (h.foldedInto y)).Listed :=
    i.listed.of_records (Hall.foldRelation_slots x y _) (fun f => (relLists f).1) fun f => (relLists f).2
  unfold Hall.foldEntries
  generalize h.foldRelation x y (h.foldedInto y) = r at relX relY relOthers relLists rel ⊢
  -- the speakers
  have noneOf : ∀ (l : List Speaker), l.filter (fun _ => true) = l := fun l => List.filter_true l
  have moved := rel.carrySpeakers ne (k := fun f => { f with speakers := [] }) (fun _ => true) (by simp) rfl
  rw [noneOf] at moved
  obtain ⟨mX, mY, mOthers⟩ := Hall.floor_of_upds ne
    (r.carrySpeakers_floors (fun f => { f with speakers := [] }) x y (r.floor y).speakers)
  rw [Hall.foldSpeakers_eq]
  generalize r.carrySpeakers x y (fun f => { f with speakers := [] }) (r.floor y).speakers = m at moved mX mY mOthers ⊢
  obtain ⟨spoken, limit⟩ := moved.absorbed now x .mergeExcess ((r.floor y).speakers.map (·.seat))
  have locS := (LocalTo.closeExcess now m x .mergeExcess).trans
    (LocalTo.checkBadges now _ x ((r.floor y).speakers.map (·.seat)))
  generalize (m.closeExcess now x .mergeExcess).checkBadges now x ((r.floor y).speakers.map (·.seat)) = s
    at spoken limit locS ⊢
  -- the queue
  rw [Hall.foldQueue_eq]
  have queued := spoken.carryQueue ne (k := fun f => { f with queue := [], lastRemoval := none }) (fun _ => true)
    (by simp) rfl
  rw [List.filter_true] at queued
  obtain ⟨qX, qY, qOthers⟩ := Hall.floor_of_upds ne
    (s.carryQueue_floors (fun f => { f with queue := [], lastRemoval := none }) x y (s.floor y).queue)
  generalize s.carryQueue x y (fun f => { f with queue := [], lastRemoval := none }) (s.floor y).queue = q
    at queued qX qY qOthers ⊢
  have locQ := LocalTo.settleQueue q x ((s.floor y).queue.map (·.seat))
  have live : (q.floor x).state = .live := by
    rw [qX]
    exact (locS.state x).trans (by rw [mX, relX]; exact liveX)
  have bank : (q.floor x).bank = (m.floor x).bank := by
    rw [qX]
    exact locS.bank x
  have fitsX := queued.settleQueue_fits ((s.floor y).queue.map (·.seat)) live (by
    rw [bank, qX]
    exact limit)
  refine Machine.speechInv_iff.mpr ⟨queued.settleQueue x _, fun f => ?_⟩
  by_cases ex : f = x
  · rwa [ex]
  · rw [locQ.others f ex]
    by_cases ey : f = y
    · rw [ey, qY, locS.others y (Ne.symm ne), mY]
      exact .of_empty rfl rfl
    · rw [qOthers f ex ey, locS.others f ex, mOthers f ex ey, relOthers f ex ey]
      split
      next carried =>
        have out : (h.floor f).state ≠ .live := by
          rw [Hall.mem_foldedInto.mp carried]
          exact FloorState.noConfusion
        obtain ⟨speakers, queue⟩ := (i.fits f).empty out
        exact .of_empty speakers queue
      · exact i.fits f

end

namespace Machine.SpeechInv

variable {h g : Hall} {x y : FloorId}

theorem relists (i : SpeechInv h) {f : FloorId} (k : Relists f h g) : SpeechInv g := k.sameSpeech.inv i

theorem foldHolders (i : SpeechInv h) (x y : FloorId) : SpeechInv (h.foldHolders x y) :=
  ((i.updFloor x rfl rfl rfl).updFloor y rfl rfl rfl).remute x

theorem settleSwap (i : SpeechInv h) (now : Clock) (y : FloorId) : SpeechInv (h.settleSwap now y) := by
  unfold Hall.settleSwap
  split
  · exact (i.completeSwap now y).raise _
  · exact i

theorem foldInto (i : SpeechInv h) (now : Clock) (ne : x ≠ y) (liveX : (h.floor x).state = .live)
    (liveY : (h.floor y).state = .live) : SpeechInv (h.foldInto now x y) := by
  rw [Hall.foldInto_eq]
  have entries := i.foldEntries now ne liveX liveY
  have sounds := ((entries.foldHolders x y).speechless (Speechless.foldOriginals _ x y (h.foldedInto y))).speechless
    (Speechless.foldOutputs _ x (y :: h.foldedInto y))
  exact (((((sounds.relists (Relists.adoptionPass _ x)).settleSwap now y).speechless
    (Speechless.raiseFold _ _)).speechless (Speechless.recomposeFloor _ x)).arbitrate now)

/-! ## Annex, members and adopted entries -/

theorem annex (i : SpeechInv h) (x : FloorId) (s : SecSet) : SpeechInv (h.annex x s) :=
  ((i.updFloor x rfl rfl rfl).retune _).raise _

theorem removeAdopted (i : SpeechInv h) (x : FloorId) (p : FloorId → Bool) : SpeechInv (h.removeAdopted x p) :=
  i.relists (Relists.removeAdopted h x p)

/-! ## The unfold -/

theorem darken (i : SpeechInv h) (now : Clock) (x : FloorId) (c : SecSet) : SpeechInv (h.darken now x c) := by
  unfold Hall.darken
  generalize hg : h.closeTurns now x ((h.speakersIn x c).map (·.seat)) .splitDark = g
  have closed : SpeechInv g := hg ▸ i.closeTurns now x _ .splitDark
  have entries := closed.removeEntries x ((g.queueIn x c).map (·.seat)) .splitDark
  simp only []
  generalize g.removeEntries x ((g.queueIn x c).map (·.seat)) .splitDark = e at entries ⊢
  have left : SpeechInv ((e.holdersIn x c).foldl (fun g n => g.leaveHolder n x) e) :=
    entries.foldl (fun g n i => i.leaveHolder n x) _
  generalize (e.holdersIn x c).foldl (fun g n => g.leaveHolder n x) e = l at left ⊢
  exact (left.updFloor x rfl rfl rfl).retune _

end Machine.SpeechInv

/-- The records that a revival writes (08 R149). -/
theorem Hall.reviveRecords_floor {h : Hall} {x r : FloorId} (ne : x ≠ r) {others : List FloorId} (c : SecSet)
    (outX : x ∉ others) (outR : r ∉ others) :
    (h.reviveRecords x r others c).floor r = { h.floor r with
        state := .live, members := c, home := 0#12, swapPending := false, holders := [], requestHolds := false,
        lastRemoval := none, adopted := if others.isEmpty then none else some [] } ∧
      (h.reviveRecords x r others c).floor x = { h.floor x with members := (h.floor x).members &&& ~~~c } ∧
      ∀ f, f ≠ x → f ≠ r → (h.reviveRecords x r others c).floor f =
        if f ∈ others then { h.floor f with state := .folded r } else h.floor f := by
  unfold Hall.reviveRecords
  refine ⟨?_, ?_, fun f nx nr => ?_⟩
  · rw [Hall.floor_updFloor, if_neg ne, Hall.setCarriers_floor, if_neg outR, Hall.floor_updFloor, if_pos rfl]
  · rw [Hall.floor_updFloor, if_pos rfl, Hall.setCarriers_floor, if_neg outX, Hall.floor_updFloor, if_neg (Ne.symm ne)]
  · rw [Hall.floor_updFloor, if_neg (Ne.symm nx), Hall.setCarriers_floor, Hall.floor_updFloor, if_neg (Ne.symm nr)]

theorem Hall.reviveRecords_slots (h : Hall) (x r : FloorId) (others : List FloorId) (c : SecSet) :
    (h.reviveRecords x r others c).slots = h.slots :=
  Hall.setCarriers_slots _ others r

/-- The hall of a revival once the speakers of the component have moved (08 R150). -/
def Hall.reviveSpeakers (now : Clock) (h : Hall) (x r : FloorId) (c : SecSet) : Hall :=
  ((h.carrySpeakers r x (fun f => { f with speakers := f.speakers.filter fun e => !h.sits c e.seat })
    (h.speakersIn x c)).closeExcess now r .mergeExcess).checkBadges now r ((h.speakersIn x c).map (·.seat))

theorem Hall.reviveEntries_eq (now : Clock) (h : Hall) (x r : FloorId) (c : SecSet) : h.reviveEntries now x r c =
    ((h.reviveSpeakers now x r c).carryQueue r x (fun f => { f with
      queue := f.queue.filter fun e => !(h.reviveSpeakers now x r c).sits c e.seat })
      ((h.reviveSpeakers now x r c).queueIn x c)).settleQueue r
      (((h.reviveSpeakers now x r c).queueIn x c).map (·.seat)) := rfl

namespace Machine.SpeechInv

variable {h g : Hall} {x y r : FloorId}

theorem reviveRecords (i : SpeechInv h) (ne : x ≠ r) {others : List FloorId} (c : SecSet) (outX : x ∉ others)
    (outR : r ∉ others) (folded : ∀ f, f = r ∨ f ∈ others → (h.floor f).state ≠ .live) :
    SpeechInv (h.reviveRecords x r others c) := by
  obtain ⟨atR, atX, rest⟩ := Hall.reviveRecords_floor (h := h) ne c outX outR
  have each : ∀ f, ((h.reviveRecords x r others c).floor f).speakers = (h.floor f).speakers ∧
      ((h.reviveRecords x r others c).floor f).queue = (h.floor f).queue ∧
      ((h.reviveRecords x r others c).floor f).Fits := by
    intro f
    by_cases er : f = r
    · subst er
      obtain ⟨speakers, queue⟩ := (i.fits f).empty (folded f (.inl rfl))
      rw [atR]
      exact ⟨rfl, rfl, .of_empty speakers queue⟩
    · by_cases ex : f = x
      · subst ex
        rw [atX]
        exact ⟨rfl, rfl, (i.fits f).of_lists rfl rfl rfl rfl⟩
      · rw [rest f ex er]
        split
        next other =>
          obtain ⟨speakers, queue⟩ := (i.fits f).empty (folded f (.inr other))
          exact ⟨rfl, rfl, .of_empty speakers queue⟩
        · exact ⟨rfl, rfl, i.fits f⟩
  exact speechInv_iff.mpr ⟨i.listed.of_records (h.reviveRecords_slots x r others c) (fun f => (each f).1)
    fun f => (each f).2.1, fun f => (each f).2.2⟩

theorem reviveEntries (i : SpeechInv h) (now : Clock) (ne : x ≠ r) (c : SecSet) (live : (h.floor r).state = .live) :
    SpeechInv (h.reviveEntries now x r c) := by
  rw [Hall.reviveEntries_eq]
  -- the speakers
  have moved := i.listed.carrySpeakers (x := r) (y := x) (Ne.symm ne)
    (k := fun f => { f with speakers := f.speakers.filter fun e => !h.sits c e.seat }) (fun e => h.sits c e.seat) rfl rfl
  obtain ⟨mR, mX, mOthers⟩ := Hall.floor_of_upds (Ne.symm ne) (h.carrySpeakers_floors
    (fun f => { f with speakers := f.speakers.filter fun e => !h.sits c e.seat }) r x (h.speakersIn x c))
  obtain ⟨spoken, limit⟩ := moved.absorbed now r .mergeExcess ((h.speakersIn x c).map (·.seat))
  have locS := (LocalTo.closeExcess now (h.carrySpeakers r x
    (fun f => { f with speakers := f.speakers.filter fun e => !h.sits c e.seat }) (h.speakersIn x c)) r .mergeExcess).trans
    (LocalTo.checkBadges now _ r ((h.speakersIn x c).map (·.seat)))
  change (h.reviveSpeakers now x r c).Listed at spoken
  change LocalTo r _ (h.reviveSpeakers now x r c) at locS
  change ((h.reviveSpeakers now x r c).floor r).delegates ≤ _ at limit
  generalize h.reviveSpeakers now x r c = s at spoken limit locS ⊢
  -- the queue
  have queued := spoken.carryQueue (x := r) (y := x) (Ne.symm ne)
    (k := fun f => { f with queue := f.queue.filter fun e => !s.sits c e.seat }) (fun e => s.sits c e.seat) rfl rfl
  obtain ⟨qR, qX, qOthers⟩ := Hall.floor_of_upds (Ne.symm ne) (s.carryQueue_floors
    (fun f => { f with queue := f.queue.filter fun e => !s.sits c e.seat }) r x (s.queueIn x c))
  change (s.carryQueue r x (fun f => { f with queue := f.queue.filter fun e => !s.sits c e.seat })
    (s.queueIn x c)).Listed at queued
  generalize s.carryQueue r x (fun f => { f with queue := f.queue.filter fun e => !s.sits c e.seat })
    (s.queueIn x c) = q at queued qR qX qOthers ⊢
  have locQ := LocalTo.settleQueue q r ((s.queueIn x c).map (·.seat))
  have liveR : (q.floor r).state = .live := by
    rw [qR]
    exact (locS.state r).trans (by rw [mR]; exact live)
  have fitsR := queued.settleQueue_fits ((s.queueIn x c).map (·.seat)) liveR (by
    have bank : (q.floor r).bank = _ := (congrArg Floor.bank qR).trans (locS.bank r)
    rw [bank, qR]
    exact limit)
  refine speechInv_iff.mpr ⟨queued.settleQueue r _, fun f => ?_⟩
  by_cases er : f = r
  · rwa [er]
  · rw [locQ.others f er]
    by_cases ex : f = x
    · subst ex
      rw [qX, locS.others f er, mX]
      exact (i.fits f).shrink rfl rfl (List.filter_sublist.map _) List.filter_sublist
    · rw [qOthers f er ex, locS.others f er, mOthers f er ex]
      exact i.fits f

theorem reviveHolders (i : SpeechInv h) (x r : FloorId) (c : SecSet) : SpeechInv (h.reviveHolders x r c) :=
  (((i.updFloor x rfl rfl rfl).updFloor r rfl rfl rfl).remute r).remute x

theorem reviveListen (i : SpeechInv h) (x r : FloorId) (others : List FloorId) (c : SecSet) :
    SpeechInv (h.reviveListen x r others c) := by
  unfold Hall.reviveListen
  simp only []
  split
  · exact (i.removeAdopted x _).retune _
  · exact ((i.removeAdopted x _).relists (Relists.adoptionPass _ r)).retune _

end Machine.SpeechInv

/-- The carried floors of a component: the one revived, and the others (08 R147). -/
theorem Hall.mem_anchoredIn {h : Hall} {x f : FloorId} {c : SecSet} (m : f ∈ h.anchoredIn x c) :
    (h.floor f).state = .folded x :=
  Hall.mem_foldedInto.mp (List.mem_of_mem_filter m)

theorem Hall.ranked_mem {h : Hall} {fs : List FloorId} {r : FloorId} (k : h.ranked fs = some r) : r ∈ fs := by
  have pick : ∀ (fs : List FloorId) (b : Option FloorId), fs.foldl
      (fun best f =>
        match best with
        | some g => if (h.floor g).precedence < (h.floor f).precedence then some f else some g
        | none => some f) b = some r → b = some r ∨ r ∈ fs := by
    intro fs
    induction fs with
    | nil => exact fun _ e => .inl e
    | cons f fs ih =>
      intro b e
      obtain e | e := ih _ e
      · cases b with
        | none =>
          obtain rfl := Option.some.inj e
          exact .inr List.mem_cons_self
        | some g =>
          simp only [] at e
          split at e
          · obtain rfl := Option.some.inj e
            exact .inr List.mem_cons_self
          · exact .inl e
      · exact .inr (List.mem_cons_of_mem f e)
  exact (pick fs none k).resolve_left (by simp)

namespace Machine.SpeechInv

variable {h g : Hall} {x y r : FloorId}

theorem revive (i : SpeechInv h) (now : Clock) (ne : x ≠ r) {others : List FloorId} (c : SecSet) (outX : x ∉ others)
    (outR : r ∉ others) (folded : ∀ f, f = r ∨ f ∈ others → (h.floor f).state ≠ .live) :
    SpeechInv (h.revive now x r others c) := by
  have live : ((h.reviveRecords x r others c).floor r).state = .live := by
    rw [(Hall.reviveRecords_floor ne c outX outR).1]
  exact ((((((i.reviveRecords ne c outX outR folded).reviveEntries now ne c live).reviveHolders x r c).speechless
    (Speechless.reviveChannels _ r others)).reviveListen x r others c).speechless (Speechless.raiseFold _ _)).speechless
    (Speechless.recomposeFloor _ r)

theorem takePart (i : SpeechInv h) (now : Clock) (live : (h.floor x).state = .live) (c : SecSet) :
    SpeechInv (Hall.takePart now x h c) := by
  unfold Hall.takePart
  simp only []
  split
  next r pick =>
    have folded : ∀ f, f ∈ h.anchoredIn x c → (h.floor f).state ≠ .live := fun f m => by
      rw [Hall.mem_anchoredIn m]
      exact FloorState.noConfusion
    have mr := Hall.ranked_mem pick
    refine i.revive now (fun e => folded r mr (by rw [← e]; exact live)) c (fun m => folded x (List.mem_of_mem_filter m) live)
      (fun m => by simp at m) fun f k => folded f ?_
    obtain rfl | m := k
    · exact mr
    · exact List.mem_of_mem_filter m
  · exact i.darken now x c

end Machine.SpeechInv

end Sys2Proof

/-! PROOFS. The records that an unfold leaves (08 R147 to R154), up to mutes, timers and listen tables; and with them the
invariant of the Speech Arbiter through an applied wall event and through opening and closing floors. -/

namespace Sys2Proof

/-! ## What steady operations keep of seats -/

theorem Steady.core? {h g : Hall} (k : Steady h g) (n : SeatId) :
    (g.seat? n).map Seat.core = (h.seat? n).map Seat.core := by
  have c := congrArg (fun t => t.get n) k.cores
  simp only [Hall.cores, Tbl.get_imap] at c
  unfold Hall.seat?
  cases hp : h.seats.get n <;> cases gp : g.seats.get n <;> rw [hp, gp] at c <;>
    simp only [SeatPos.core, SeatPos.held.injEq, reduceCtorEq] at c ⊢
  exact congrArg some c

theorem Hall.sits_core (h : Hall) (c : SecSet) (n : SeatId) : h.sits c n =
    ((h.seat? n).map Seat.core).elim false fun r => r.place.elim false fun p => c.getLsbD p.val := by
  unfold Hall.sits
  cases h.seat? n <;> rfl

theorem Steady.sits {h g : Hall} (k : Steady h g) (c : SecSet) (n : SeatId) : g.sits c n = h.sits c n := by
  rw [Hall.sits_core, Hall.sits_core, k.core?]

theorem Hall.badged_core (h : Hall) (n : SeatId) : h.badged n =
    ((h.seat? n).map Seat.core).elim false fun r => r.badge.isSome := by
  unfold Hall.badged
  cases h.seat? n <;> rfl

theorem Steady.badged {h g : Hall} (k : Steady h g) (n : SeatId) : g.badged n = h.badged n := by
  rw [Hall.badged_core, Hall.badged_core, k.core?]

/-! ## Records up to mutes, timers and listen tables -/

/-- A speaker entry without its mutes and its timer. -/
def Speaker.plain (e : Speaker) : Speaker := { e with priorityMute := false, linkMute := false, timer := none }

/-- A floor's record without its session, its adopted entries, and the mutes and timers of its speakers. -/
def Floor.roll (x : Floor) : Floor := { x with sess := none, adopted := none, speakers := x.speakers.map Speaker.plain }

/-- What two records with the same roll share. -/
theorem Floor.of_roll {a b : Floor} (k : b.roll = a.roll) : b.state = a.state ∧ b.members = a.members ∧ b.home = a.home ∧
    b.swapPending = a.swapPending ∧ b.holders = a.holders ∧ b.requestHolds = a.requestHolds ∧ b.queue = a.queue ∧
    b.lastRemoval = a.lastRemoval ∧ b.speakers.map Speaker.plain = a.speakers.map Speaker.plain := by
  simp only [Floor.roll, Floor.mk.injEq] at k
  tauto

theorem Floor.roll_members {a b : Floor} (k : b.roll = a.roll) (m : SecSet) :
    Floor.roll { b with members := m } = Floor.roll { a with members := m } := by
  simp only [Floor.roll, Floor.mk.injEq] at k ⊢
  tauto

theorem Floor.roll_holders {a b : Floor} (k : b.roll = a.roll) (l : List SeatId) :
    Floor.roll { b with holders := l } = Floor.roll { a with holders := l } := by
  simp only [Floor.roll, Floor.mk.injEq] at k ⊢
  tauto

theorem Floor.seats_of_roll {a b : Floor} (k : b.roll = a.roll) :
    b.speakers.map (·.seat) = a.speakers.map (·.seat) := by
  have plain : b.speakers.map Speaker.plain = a.speakers.map Speaker.plain := congrArg Floor.speakers k
  have seats := congrArg (List.map (·.seat)) plain
  rwa [List.map_map, List.map_map] at seats

theorem Relisted.roll {a b : Floor} (k : Relisted a b) : b.roll = a.roll := by
  rw [k.rest]
  rfl

/-- Mutes, timers and listen tables alone may differ. -/
def SameRoll (h g : Hall) : Prop := ∀ f, (g.floor f).roll = (h.floor f).roll

namespace SameRoll

theorem refl (h : Hall) : SameRoll h h := fun _ => rfl

theorem trans {a b c : Hall} (p : SameRoll a b) (q : SameRoll b c) : SameRoll a c := fun f => (q f).trans (p f)

theorem of_relists {h g : Hall} {x : FloorId} (k : Relists x h g) : SameRoll h g := fun f => (k.each f).roll

theorem of_speechless {h g : Hall} (k : Speechless h g) : SameRoll h g := fun f => by rw [k.floor]

theorem setMutes (h : Hall) (x : FloorId) (e : Speaker) (p q : Bool) : SameRoll h (h.setMutes x e p q) := by
  intro f
  have plain := Hall.setMutes_speakers h x f e p q Speaker.plain fun _ => rfl
  unfold Floor.roll
  rw [plain, Hall.setMutes_floor]
  split <;> rfl

theorem remute (h : Hall) (x : FloorId) : SameRoll h (h.remute x) :=
  foldl_rel refl (fun _ _ _ => trans) (fun g _ => setMutes g x _ _ _) _ h

end SameRoll

theorem Turns.remute (h : Hall) (x : FloorId) : (h.remute x).turns = h.turns :=
  foldl_keeps (part := Hall.turns) (fun g _ => Turns.setMutes g x _ _ _) _ h

/-! ## Holders that leave -/

theorem Hall.leaveHolder_record (n : SeatId) (h : Hall) (x : FloorId) :
    SameRoll (h.updFloor x fun f => { f with holders := f.holders.filter fun m => m ≠ n }) (h.leaveHolder n x) ∧
      (∀ f, f ≠ x → (h.leaveHolder n x).floor f = h.floor f) ∧ (h.leaveHolder n x).turns = h.turns ∧
      (h.leaveHolder n x).sound = h.sound ∧ (h.leaveHolder n x).desks = h.desks := by
  unfold Hall.leaveHolder
  split
  · generalize hu : h.updFloor x (fun f => { f with holders := f.holders.filter fun m => m ≠ n }) = u
    have others : ∀ f, f ≠ x → u.floor f = h.floor f := fun f nx => by
      rw [← hu, Hall.floor_updFloor, if_neg (Ne.symm nx)]
    have rest : u.turns = h.turns ∧ u.sound = h.sound ∧ u.desks = h.desks := by
      rw [← hu]
      exact ⟨Turns.same rfl, rfl, Desks.same rfl⟩
    unfold Hall.liftIfEmpty
    split
    · exact ⟨.refl _, others, rest⟩
    · have loc := LocalTo.remute u x
      exact ⟨.remute u x, fun f nx => (loc.others f nx).trans (others f nx), (Turns.remute u x).trans rest.1,
        loc.sound.trans rest.2.1, loc.desks.trans rest.2.2⟩
  next out =>
    refine ⟨fun f => ?_, fun _ _ => rfl, rfl, rfl, rfl⟩
    rw [Hall.floor_updFloor]
    split
    next e =>
      subst e
      have same : (h.floor x).holders.filter (fun m => m ≠ n) = (h.floor x).holders := by
        rw [List.filter_eq_self]
        intro m mem
        have ne : m ≠ n := fun c => out (by simpa [← c] using mem)
        simpa using ne
      rw [same]
    · rfl

/-- Several seats leave a floor's holder set (08 R148). -/
theorem Hall.leaveHolder_all (ns : List SeatId) (h : Hall) (x : FloorId) :
    SameRoll (h.updFloor x fun f => { f with holders := f.holders.filter fun m => m ∉ ns })
        (ns.foldl (fun g n => g.leaveHolder n x) h) ∧
      (∀ f, f ≠ x → (ns.foldl (fun g n => g.leaveHolder n x) h).floor f = h.floor f) ∧
      (ns.foldl (fun g n => g.leaveHolder n x) h).turns = h.turns ∧
      (ns.foldl (fun g n => g.leaveHolder n x) h).sound = h.sound ∧
      (ns.foldl (fun g n => g.leaveHolder n x) h).desks = h.desks := by
  induction ns generalizing h with
  | nil =>
    refine ⟨fun f => ?_, fun _ _ => rfl, rfl, rfl, rfl⟩
    rw [Hall.floor_updFloor]
    split
    next e =>
      subst e
      simp
    · rfl
  | cons n ns ih =>
    obtain ⟨roll, others, turns, sound, desks⟩ := h.leaveHolder_record n x
    obtain ⟨roll', others', turns', sound', desks'⟩ := ih (h.leaveHolder n x)
    refine ⟨fun f => (roll' f).trans ?_, fun f nx => (others' f nx).trans (others f nx), turns'.trans turns,
      sound'.trans sound, desks'.trans desks⟩
    have step := roll f
    rw [Hall.floor_updFloor] at step ⊢
    rw [Hall.floor_updFloor]
    split
    next e =>
      subst e
      rw [if_pos rfl] at step
      have holders : ((h.leaveHolder n x).floor x).holders = (h.floor x).holders.filter fun m => m ≠ n :=
        congrArg Floor.holders step
      have twice : ((h.leaveHolder n x).floor x).holders.filter (fun m => m ∉ ns) =
          (h.floor x).holders.filter fun m => m ∉ n :: ns := by
        rw [holders, List.filter_filter]
        exact List.filter_congr fun m _ => by simp [not_or, Bool.and_comm]
      rw [twice]
      exact Floor.roll_holders step _
    next ne =>
      rw [if_neg ne] at step
      exact step

/-! ## A component that goes dark (08 R148) -/

/-- The hall of a component that goes dark once its entries are gone. -/
def Hall.darkened (now : Clock) (h : Hall) (x : FloorId) (c : SecSet) : Hall :=
  (h.closeTurns now x ((h.speakersIn x c).map (·.seat)) .splitDark).removeEntries x
    (((h.closeTurns now x ((h.speakersIn x c).map (·.seat)) .splitDark).queueIn x c).map (·.seat)) .splitDark

/-- The hall of a component that goes dark once its holders have left. -/
def Hall.vacated (now : Clock) (h : Hall) (x : FloorId) (c : SecSet) : Hall :=
  ((h.darkened now x c).holdersIn x c).foldl (fun g n => g.leaveHolder n x) (h.darkened now x c)

theorem Hall.darken_eq (now : Clock) (h : Hall) (x : FloorId) (c : SecSet) : h.darken now x c =
    ((h.vacated now x c).updFloor x fun f => { f with members := f.members &&& ~~~c }).membersReport c := rfl

theorem LocalTo.darkened (now : Clock) (h : Hall) (x : FloorId) (c : SecSet) : LocalTo x h (h.darkened now x c) :=
  (LocalTo.closeTurns now h x _ _).trans (LocalTo.removeEntries _ x _ _)

theorem filter_notMem_filter {α : Type} (key : α → SeatId) (p : SeatId → Bool) (l : List α) :
    l.filter (fun a => key a ∉ (l.filter fun b => p (key b)).map key) = l.filter fun a => !p (key a) := by
  refine List.filter_congr fun a m => ?_
  cases e : p (key a)
  · have out : key a ∉ (l.filter fun b => p (key b)).map key := by
      intro k
      obtain ⟨b, mb, same⟩ := List.mem_map.mp k
      have pb := List.of_mem_filter mb
      rw [same, e] at pb
      cases pb
    rw [decide_eq_true out]
    rfl
  · have into : key a ∈ (l.filter fun b => p (key b)).map key :=
      List.mem_map_of_mem (List.mem_filter.mpr ⟨m, e⟩)
    rw [decide_eq_false (not_not_intro into)]
    rfl

theorem Hall.darkened_lists (now : Clock) (h : Hall) (x : FloorId) (c : SecSet) :
    ((h.darkened now x c).floor x).speakers = (h.floor x).speakers.filter (fun e => !h.sits c e.seat) ∧
      ((h.darkened now x c).floor x).queue = (h.floor x).queue.filter fun w => !h.sits c w.seat := by
  unfold Hall.darkened
  have steady := Steady.closeTurns now h x ((h.speakersIn x c).map (·.seat)) .splitDark
  obtain ⟨speakers, queue⟩ := h.closeTurns_lists now x ((h.speakersIn x c).map (·.seat)) .splitDark
  generalize h.closeTurns now x ((h.speakersIn x c).map (·.seat)) .splitDark = g at steady speakers queue ⊢
  obtain ⟨speakers', queue'⟩ := g.removeEntries_lists x ((g.queueIn x c).map (·.seat)) .splitDark
  rw [speakers', queue', speakers]
  constructor
  · exact filter_notMem_filter (fun e : Speaker => e.seat) (h.sits c) _
  · have rest := filter_notMem_filter (fun w : Waiting => w.seat) (g.sits c) (g.floor x).queue
    rw [← queue]
    refine Eq.trans ?_ (rest.trans (List.filter_congr fun w _ => by rw [steady.sits]))
    rfl

/-- What a component that goes dark leaves of its floor's record. -/
theorem Hall.darken_record (now : Clock) (h : Hall) (x : FloorId) (c : SecSet) :
    ((h.darken now x c).floor x).roll = Floor.roll { (h.darkened now x c).floor x with
        holders := (h.floor x).holders.filter (fun n => !h.sits c n), members := (h.floor x).members &&& ~~~c } ∧
      (∀ f, f ≠ x → (h.darken now x c).floor f = h.floor f) ∧
      (h.darken now x c).turns = (h.darkened now x c).turns ∧
      (h.darken now x c).sound = h.sound ∧ (h.darken now x c).desks = h.desks := by
  have loc := LocalTo.darkened now h x c
  have steady : Steady h (h.darkened now x c) :=
    (Steady.closeTurns now h x _ _).trans (Steady.removeEntries _ x _ _)
  obtain ⟨roll, others, turns, sound, desks⟩ :=
    Hall.leaveHolder_all ((h.darkened now x c).holdersIn x c) (h.darkened now x c) x
  have vacated : h.vacated now x c =
      ((h.darkened now x c).holdersIn x c).foldl (fun g n => g.leaveHolder n x) (h.darkened now x c) := rfl
  rw [← vacated] at roll others turns sound desks
  rw [Hall.darken_eq]
  generalize h.vacated now x c = v at roll others turns sound desks ⊢
  have floors : ∀ f, ((v.updFloor x fun f => { f with members := f.members &&& ~~~c }).membersReport
      c).floor f = if x = f then { v.floor x with
        members := (v.floor x).members &&& ~~~c } else v.floor f := fun f =>
    (Hall.floor_of_floors (Hall.retune_floors _ _) f).trans (Hall.floor_updFloor _ _ _ _)
  refine ⟨?_, fun f nx => ?_, ?_, ?_, ?_⟩
  · rw [floors, if_pos rfl]
    have left := roll x
    rw [Hall.floor_updFloor, if_pos rfl] at left
    have kept : ((h.darkened now x c).floor x).holders.filter
        (fun m => m ∉ (h.darkened now x c).holdersIn x c) = (h.floor x).holders.filter fun n => !h.sits c n := by
      have rest := filter_notMem_filter (fun n : SeatId => n) ((h.darkened now x c).sits c) (h.floor x).holders
      rw [List.map_id'] at rest
      rw [Hall.holdersIn, loc.holders]
      exact rest.trans (List.filter_congr fun n _ => by rw [steady.sits])
    rw [kept] at left
    obtain ⟨-, members, -⟩ := Floor.of_roll left
    rw [members, Floor.roll_members left]
    rw [loc.members x]
  · rw [floors, if_neg (Ne.symm nx), others f nx, loc.others f nx]
  · rw [Hall.membersReport, Turns.retune, Turns.same (Hall.updFloor_seats _ _ _), turns]
  · rw [Hall.membersReport, Sound.retune]
    exact sound.trans loc.sound
  · rw [Hall.membersReport, Desks.retune, Desks.same (Hall.updFloor_seats _ _ _), desks, loc.desks]

/-! ## A floor that revives (08 R149 to R153) -/

/-- The hall of a revival once entries and holders are divided. -/
def Hall.parted (now : Clock) (h : Hall) (x r : FloorId) (others : List FloorId) (c : SecSet) : Hall :=
  (((h.reviveRecords x r others c).reviveEntries now x r c).updFloor x fun f => { f with
    holders := f.holders.filter fun n =>
      !(((h.reviveRecords x r others c).reviveEntries now x r c).holdersIn x c).contains n }).updFloor r fun f =>
    { f with holders := ((h.reviveRecords x r others c).reviveEntries now x r c).holdersIn x c }

theorem Hall.revive_eq (now : Clock) (h : Hall) (x r : FloorId) (others : List FloorId) (c : SecSet) :
    h.revive now x r others c = (((((((h.parted now x r others c).remute r).remute x).reviveChannels r others).reviveListen
      x r others c).raiseFold (r :: others)).recomposeFloor r) := rfl

theorem Hall.reviveListen_rolls (h : Hall) (x r : FloorId) (others : List FloorId) (c : SecSet) :
    SameRoll h (h.reviveListen x r others c) ∧
      ∀ f, f ≠ x → f ≠ r → (h.reviveListen x r others c).floor f = h.floor f := by
  unfold Hall.reviveListen
  have removed := Relists.removeAdopted h x fun z => z = r || others.contains z
  simp only []
  generalize h.removeAdopted x (fun z => z = r || others.contains z) = g at removed ⊢
  have report : ∀ k : Hall, SameRoll k (k.membersReport c) ∧ ∀ f, (k.membersReport c).floor f = k.floor f :=
    fun k => ⟨.of_speechless (.retune k _), (Speechless.retune k _).floor⟩
  split
  · exact ⟨(SameRoll.of_relists removed).trans (report g).1,
      fun f nx _ => ((report g).2 f).trans (removed.others f nx)⟩
  · have pass := Relists.adoptionPass g r
    exact ⟨((SameRoll.of_relists removed).trans (.of_relists pass)).trans (report _).1,
      fun f nx nr => ((report _).2 f).trans ((pass.others f nr).trans (removed.others f nx))⟩

theorem Hall.revive_rolls (now : Clock) (h : Hall) (x r : FloorId) (others : List FloorId) (c : SecSet) :
    SameRoll (h.parted now x r others c) (h.revive now x r others c) ∧
      ∀ f, f ≠ x → f ≠ r → (h.revive now x r others c).floor f = (h.parted now x r others c).floor f := by
  rw [Hall.revive_eq]
  generalize h.parted now x r others c = p
  have channels := Speechless.reviveChannels ((p.remute r).remute x) r others
  obtain ⟨listen, listenOthers⟩ := (((p.remute r).remute x).reviveChannels r others).reviveListen_rolls x r others c
  have tail := (Speechless.raiseFold ((((p.remute r).remute x).reviveChannels r others).reviveListen x r others c)
    (r :: others)).trans (Speechless.recomposeFloor _ r)
  refine ⟨((((SameRoll.remute p r).trans (.remute _ x)).trans (.of_speechless channels)).trans listen).trans
    (.of_speechless tail), fun f nx nr => ?_⟩
  rw [tail.floor, listenOthers f nx nr, channels.floor, (LocalTo.remute _ x).others f nx, (LocalTo.remute p r).others f nr]

/-- The records of a revival once entries and holders are divided. -/
theorem Hall.parted_floor (now : Clock) {h : Hall} {x r : FloorId} (ne : x ≠ r) (others : List FloorId) (c : SecSet) :
    (h.parted now x r others c).floor x = { (h.reviveRecords x r others c).floor x with
        speakers := ((h.reviveRecords x r others c).floor x).speakers.filter fun e => !h.sits c e.seat
        queue := ((h.reviveRecords x r others c).floor x).queue.filter fun w => !h.sits c w.seat
        holders := ((h.reviveRecords x r others c).floor x).holders.filter fun n => !h.sits c n } ∧
      (h.parted now x r others c).floor r =
        { ((h.reviveRecords x r others c).reviveEntries now x r c).floor r with
          holders := ((h.reviveRecords x r others c).floor x).holders.filter fun n => h.sits c n } ∧
      ∀ f, f ≠ x → f ≠ r → (h.parted now x r others c).floor f = (h.reviveRecords x r others c).floor f := by
  have sits : ∀ n, (h.reviveRecords x r others c).sits c n = h.sits c n :=
    (Steady.reviveRecords h x r others c).sits c
  have sits' : ∀ n, ((h.reviveRecords x r others c).reviveEntries now x r c).sits c n = h.sits c n := fun n =>
    ((Steady.reviveEntries now _ x r c).sits c n).trans (sits n)
  have sitsS : ∀ n, ((h.reviveRecords x r others c).reviveSpeakers now x r c).sits c n = h.sits c n := fun n => by
    have steady : Steady (h.reviveRecords x r others c) ((h.reviveRecords x r others c).reviveSpeakers now x r c) :=
      ((Steady.updFloor _ x _).trans (Steady.raiseIf _ _ _)).trans (Steady.absorbSpeakers now _ r _)
    exact (steady.sits c n).trans (sits n)
  have entries : ((h.reviveRecords x r others c).reviveEntries now x r c).floor x =
        { (h.reviveRecords x r others c).floor x with
          speakers := ((h.reviveRecords x r others c).floor x).speakers.filter fun e => !h.sits c e.seat
          queue := ((h.reviveRecords x r others c).floor x).queue.filter fun w => !h.sits c w.seat } ∧
      ∀ f, f ≠ x → f ≠ r → ((h.reviveRecords x r others c).reviveEntries now x r c).floor f =
        (h.reviveRecords x r others c).floor f := by
    rw [Hall.reviveEntries_eq]
    generalize h.reviveRecords x r others c = k at sits sitsS ⊢
    obtain ⟨-, mX, mOthers⟩ := Hall.floor_of_upds (Ne.symm ne) (k.carrySpeakers_floors
      (fun f => { f with speakers := f.speakers.filter fun e => !k.sits c e.seat }) r x (k.speakersIn x c))
    have locS := (LocalTo.closeExcess now (k.carrySpeakers r x
      (fun f => { f with speakers := f.speakers.filter fun e => !k.sits c e.seat }) (k.speakersIn x c)) r
      .mergeExcess).trans (LocalTo.checkBadges now _ r ((k.speakersIn x c).map (·.seat)))
    change LocalTo r _ (k.reviveSpeakers now x r c) at locS
    generalize k.reviveSpeakers now x r c = s at locS sitsS ⊢
    obtain ⟨-, qX, qOthers⟩ := Hall.floor_of_upds (Ne.symm ne) (s.carryQueue_floors
      (fun f => { f with queue := f.queue.filter fun e => !s.sits c e.seat }) r x (s.queueIn x c))
    have locQ := LocalTo.settleQueue (s.carryQueue r x
      (fun f => { f with queue := f.queue.filter fun e => !s.sits c e.seat }) (s.queueIn x c)) r
      ((s.queueIn x c).map (·.seat))
    refine ⟨?_, fun f nx nr => ?_⟩
    · rw [locQ.others x ne, qX, locS.others x ne, mX]
      simp only [sits, sitsS]
    · rw [locQ.others f nr, qOthers f nr nx, locS.others f nr, mOthers f nr nx]
  obtain ⟨entriesX, entriesOthers⟩ := entries
  have holders : ((h.reviveRecords x r others c).reviveEntries now x r c).holdersIn x c =
      ((h.reviveRecords x r others c).floor x).holders.filter fun n => h.sits c n := by
    rw [Hall.holdersIn, entriesX]
    exact List.filter_congr fun n _ => sits' n
  unfold Hall.parted
  refine ⟨?_, ?_, fun f nx nr => ?_⟩
  · rw [Hall.floor_updFloor, if_neg (Ne.symm ne), Hall.floor_updFloor, if_pos rfl, holders, entriesX]
    have rest := filter_notMem_filter (fun n : SeatId => n) (h.sits c) ((h.reviveRecords x r others c).floor x).holders
    rw [List.map_id'] at rest
    rw [← rest]
    simp only [List.contains_eq_mem, decide_not]
  · rw [Hall.floor_updFloor, if_pos rfl, Hall.floor_updFloor, if_neg ne, holders]
  · rw [Hall.floor_updFloor, if_neg (Ne.symm nr), Hall.floor_updFloor, if_neg (Ne.symm nx), entriesOthers f nx nr]

end Sys2Proof

/-! PROOFS. The invariant of the Speech Arbiter through applied wall events and through opening and closing floors; and
FLOOR_CLOSE (03 R44, R45, 08 R155). -/

namespace Sys2Proof

/-! ## States through the parts of an unfold -/

theorem Hall.darken_state (now : Clock) (h : Hall) (x : FloorId) (c : SecSet) (f : FloorId) :
    ((h.darken now x c).floor f).state = (h.floor f).state := by
  obtain ⟨roll, others, -⟩ := h.darken_record now x c
  by_cases e : f = x
  · subst e
    obtain ⟨state, -⟩ := Floor.of_roll roll
    exact state.trans ((LocalTo.darkened now h f c).state f)
  · rw [others f e]

theorem Hall.takePart_live (now : Clock) {h : Hall} {x : FloorId} (live : (h.floor x).state = .live) (c : SecSet) :
    ((Hall.takePart now x h c).floor x).state = .live := by
  unfold Hall.takePart
  simp only []
  split
  next r pick =>
    have ne : x ≠ r := by
      rintro rfl
      have folded := Hall.mem_anchoredIn (Hall.ranked_mem pick)
      rw [live] at folded
      cases folded
    obtain ⟨state, -⟩ := Floor.of_roll ((h.revive_rolls now x r _ c).1 x)
    rw [state, (Hall.parted_floor now ne _ c).1]
    rw [(Hall.reviveRecords_floor ne c (fun m => ?_) fun m => by simp at m).2.1]
    · exact live
    · have folded := Hall.mem_anchoredIn (List.mem_of_mem_filter m)
      rw [live] at folded
      cases folded
  · rw [Hall.darken_state, live]

theorem Hall.survivor_cases (h : Hall) (a b : FloorId) : h.survivor a b = (a, b) ∨ h.survivor a b = (b, a) := by
  unfold Hall.survivor
  split
  · split
    · exact .inl rfl
    · exact .inr rfl
  · split
    · exact .inl rfl
    · exact .inr rfl

namespace Machine.SpeechInv

variable {h g : Hall} {x y r : FloorId}

theorem reduceHome (i : SpeechInv h) (f : FloorId) : SpeechInv (h.reduceHome f) := by
  unfold Hall.reduceHome
  split
  · simp only []
    split
    · exact i
    · exact (i.updFloor f rfl rfl rfl).raise _
  · exact i

theorem endUnfold (i : SpeechInv h) (now : Clock) (x : FloorId) (spoke : Bool) : SpeechInv (h.endUnfold now x spoke) := by
  have homes : SpeechInv ((List.finRange 6).foldl Hall.reduceHome h) := i.foldl (fun _ f i => i.reduceHome f) _
  unfold Hall.endUnfold
  simp only []
  generalize (List.finRange 6).foldl Hall.reduceHome h = g at homes ⊢
  have listens : SpeechInv (if (g.foldedInto x).isEmpty then g.endAdopted x else g.adoptionPass x) := by
    split
    · exact homes.relists (Relists.endAdopted g x)
    · exact homes.relists (Relists.adoptionPass g x)
  generalize (if (g.foldedInto x).isEmpty then g.endAdopted x else g.adoptionPass x) = k at listens ⊢
  have settled : SpeechInv (if spoke && (k.floor x).delegates = 0 then k.quiet now x else k) := by
    split
    · exact listens.quiet now x
    · exact listens
  exact ((settled.raise _).speechless (Speechless.recomposeFloor _ x)).arbitrate now

theorem takeParts (i : SpeechInv h) (now : Clock) (live : (h.floor x).state = .live) (cs : List SecSet) :
    SpeechInv (cs.foldl (Hall.takePart now x) h) := by
  induction cs generalizing h with
  | nil => exact i
  | cons c cs ih => exact ih (i.takePart now live c) (Hall.takePart_live now live c)

theorem unfold (i : SpeechInv h) (now : Clock) (walls : Tbl (Option Wall) 16) (live : (h.floor x).state = .live) :
    SpeechInv (h.unfold now walls x) := by
  unfold Hall.unfold
  split
  · simp only []
    split
    · exact i
    · exact (i.takeParts now live _).endUnfold now x _
  · exact i

theorem appliedOpen (i : SpeechInv h) (now : Clock) (walls : Tbl (Option Wall) 16) (a b : SectionId) :
    SpeechInv (h.appliedOpen now walls a b) := by
  unfold Hall.appliedOpen
  split
  · exact i
  · exact i.annex _ _
  · exact i.annex _ _
  next x y hx hy =>
    split
    · exact i
    next ne =>
      obtain e | e := h.survivor_cases x y <;> rw [e]
      · exact i.foldInto now ne (Hall.floorAt_live hx) (Hall.floorAt_live hy)
      · exact i.foldInto now (Ne.symm ne) (Hall.floorAt_live hy) (Hall.floorAt_live hx)

theorem appliedClosed (i : SpeechInv h) (now : Clock) (walls : Tbl (Option Wall) 16) (a b : SectionId) :
    SpeechInv (h.appliedClosed now walls a b) := by
  unfold Hall.appliedClosed
  split
  next x y hx hy =>
    split
    · exact i.unfold now walls (Hall.floorAt_live hx)
    · exact i
  · exact i

/-! ## Closing and opening -/

/-- A record replaced whole, where no list held an entry and none does afterwards. -/
theorem replace (i : SpeechInv h) {f : FloorId} (silent : (h.floor f).speakers = []) (idle : (h.floor f).queue = [])
    {x : Floor} (speakers : x.speakers = []) (queue : x.queue = []) : SpeechInv (h.updFloor f fun _ => x) := by
  refine i.at_floor (x := f) (fun g ne => by rw [Hall.floor_updFloor, if_neg (Ne.symm ne)]) ?_ ?_
  · refine i.listed.of_records rfl (fun g => ?_) fun g => ?_ <;>
    · rw [Hall.floor_updFloor]
      split
      next e =>
        subst e
        simp only [silent, idle, speakers, queue]
      · rfl
  · rw [Hall.floor_updFloor, if_pos rfl]
    exact .of_empty speakers queue

theorem closeRecord (i : SpeechInv h) {f : FloorId} (silent : (h.floor f).speakers = [])
    (idle : (h.floor f).queue = []) : SpeechInv (h.closeRecord f) :=
  i.replace silent idle rfl rfl

theorem closeWithCarrier (i : SpeechInv h) (folded : (h.floor y).state ≠ .live) : SpeechInv (h.closeWithCarrier y) := by
  obtain ⟨silent, idle⟩ := (i.fits y).empty folded
  have k := (Speechless.releaseBooths h y).trans (Speechless.freeOriginal _ y)
  refine (i.speechless k).closeRecord ?_ ?_ <;> rwa [k.floor]

end Machine.SpeechInv

theorem Hall.closeRecord_floor (h : Hall) (f g : FloorId) :
    (h.closeRecord f).floor g = if f = g then Floor.reset else h.floor g :=
  Hall.floor_updFloor h f g _

theorem Hall.closeWithCarrier_floor (h : Hall) (y f : FloorId) :
    (h.closeWithCarrier y).floor f = if y = f then Floor.reset else h.floor f := by
  rw [Hall.closeWithCarrier, Hall.closeRecord_floor,
    ((Speechless.releaseBooths h y).trans (Speechless.freeOriginal _ y)).floor]

theorem Hall.closeCarried_floor (ys : List FloorId) (h : Hall) (f : FloorId) :
    (ys.foldl Hall.closeWithCarrier h).floor f = if f ∈ ys then Floor.reset else h.floor f := by
  induction ys generalizing h with
  | nil => rfl
  | cons y ys ih =>
    rw [List.foldl_cons, ih, Hall.closeWithCarrier_floor]
    by_cases e : y = f
    · subst e
      simp
    · simp [e, Ne.symm e]

/-- A FOLDED floor closed, before its record is returned to the CLOSED condition (08 R155). -/
def Hall.foldedCleared (h : Hall) (y x : FloorId) : Hall :=
  let g := ((h.releaseBooths y).freeOriginal y).removeAdopted x fun z => z = y
  let rest := (g.foldedInto x).filter fun z => z ≠ y
  if rest.isEmpty then g.endAdopted x else g.adoptionPassOver x rest

theorem Hall.closeFolded_eq (h : Hall) (y x : FloorId) :
    h.closeFolded y x = ((h.foldedCleared y x).closeRecord y).raise (.foldChanged x) := rfl

/-- What the close of a FOLDED floor leaves of the records of speech: the listen table of its carrier alone changes. -/
theorem Hall.foldedCleared_speech (h : Hall) (y x : FloorId) :
    ∃ g, Speechless h g ∧ Relists x g (h.foldedCleared y x) := by
  refine ⟨(h.releaseBooths y).freeOriginal y, (Speechless.releaseBooths h y).trans (Speechless.freeOriginal _ y), ?_⟩
  unfold Hall.foldedCleared
  simp only []
  generalize (h.releaseBooths y).freeOriginal y = g
  have removed := Relists.removeAdopted g x fun z => z = y
  generalize g.removeAdopted x (fun z => z = y) = k at removed ⊢
  split
  · exact removed.trans (.endAdopted k x)
  · exact removed.trans (.adoptionPassOver k x _)

/-- The speaking of a closing floor ended: its lists are empty, its holders gone, and no other floor changes
(03 R45 step 2). -/
theorem Hall.closeSpeech_floor (now : Clock) (h : Hall) (f : FloorId) :
    ((h.closeSpeech now f).floor f).speakers = [] ∧ ((h.closeSpeech now f).floor f).queue = [] ∧
      ∀ g, g ≠ f → (h.closeSpeech now f).floor g = h.floor g := by
  obtain ⟨speakers, -⟩ := h.closeTurns_lists now f ((h.floor f).speakers.map (·.seat)) .floorClosed
  have loc := LocalTo.closeTurns now h f ((h.floor f).speakers.map (·.seat)) .floorClosed
  unfold Hall.closeSpeech
  simp only []
  generalize h.closeTurns now f ((h.floor f).speakers.map (·.seat)) .floorClosed = g at speakers loc ⊢
  have floors : ∀ k, ((((g.updFloor f fun x => { x with queue := [], holders := [], requestHolds := false }).raiseIf
      (!((h.floor f).queue.map (·.seat)).isEmpty) (.queueChanged f)).recomposeAll
      ((h.floor f).queue.map (·.seat))).floor k) = if f = k then
        { g.floor f with queue := [], holders := [], requestHolds := false } else g.floor k := fun k => by
    rw [Hall.floor_of_floors (Hall.recomposeAll_floors _ _), Hall.floor_of_floors (Hall.raiseIf_floors _ _ _),
      Hall.floor_updFloor]
  refine ⟨?_, ?_, fun k ne => ?_⟩
  · rw [floors, if_pos rfl, speakers, List.filter_eq_nil_iff]
    intro e m
    simpa using ⟨e, m, rfl⟩
  · rw [floors, if_pos rfl]
  · rw [floors, if_neg (Ne.symm ne), loc.others k ne]

namespace Machine.SpeechInv

variable {h g : Hall} {x y f : FloorId}

theorem closeFolded (i : SpeechInv h) (folded : (h.floor y).state ≠ .live) : SpeechInv (h.closeFolded y x) := by
  obtain ⟨g, quiet, listens⟩ := h.foldedCleared_speech y x
  obtain ⟨silent, idle⟩ := (i.fits y).empty folded
  have lists := (listens.each y).lists
  rw [quiet.floor] at lists
  simp only [Floor.lists, silent, idle, List.map_nil, Prod.mk.injEq, List.map_eq_nil_iff] at lists
  rw [Hall.closeFolded_eq]
  exact (((i.speechless quiet).relists listens).closeRecord lists.1 lists.2).raise _

theorem closeSpeech (i : SpeechInv h) (now : Clock) (f : FloorId) : SpeechInv (h.closeSpeech now f) := by
  have closed := i.closeTurns now f ((h.floor f).speakers.map (·.seat)) .floorClosed
  have silent := (h.closeTurns_lists now f ((h.floor f).speakers.map (·.seat)) .floorClosed).1
  unfold Hall.closeSpeech
  simp only []
  generalize h.closeTurns now f ((h.floor f).speakers.map (·.seat)) .floorClosed = g at closed silent ⊢
  have floor : ∀ k, (g.updFloor f fun x => { x with queue := [], holders := [], requestHolds := false }).floor k =
      if f = k then { g.floor f with queue := [], holders := [], requestHolds := false } else g.floor k :=
    fun k => Hall.floor_updFloor _ _ _ _
  have emptied : SpeechInv (g.updFloor f fun x => { x with queue := [], holders := [], requestHolds := false }) := by
    refine closed.at_floor (x := f) (fun k ne => by rw [floor, if_neg (Ne.symm ne)]) ?_ ?_
    · refine closed.listed.shrinkQueue (fun k => ?_) (fun k => ?_) rfl <;> rw [floor] <;> split
      next e => subst e; rfl
      · rfl
      next e => subst e; exact List.nil_sublist _
      · exact List.Sublist.refl _
    · rw [floor, if_pos rfl]
      exact (closed.fits f).shrink rfl rfl (List.Sublist.refl _) (List.nil_sublist _)
  exact (emptied.talk (g := Hall.raiseIf _ _ _) (by simp [Hall.talk])).recomposeAll _

/-- The carried floors closed one after another; none of them is LIVE. -/
theorem closeCarried (ys : List FloorId) {h : Hall} (i : SpeechInv h) (folded : ∀ y ∈ ys, (h.floor y).state ≠ .live) :
    SpeechInv (ys.foldl Hall.closeWithCarrier h) := by
  induction ys generalizing h with
  | nil => exact i
  | cons y ys ih =>
    refine ih (i.closeWithCarrier (folded y List.mem_cons_self)) fun z m => ?_
    rw [Hall.closeWithCarrier_floor]
    split
    · exact FloorState.noConfusion
    · exact folded z (List.mem_cons_of_mem y m)

end Machine.SpeechInv

/-- A LIVE floor closed as far as its speaking (03 R45 steps 1 and 2). -/
def Hall.silenced (now : Clock) (h : Hall) (f : FloorId) : Hall :=
  (((h.updFloor f fun x => { x with swapPending := false }).closeSpeech now f).arbitrate now).releaseBooths f

/-- A LIVE floor closed as far as its channels (03 R45 steps 1 to 5). -/
def Hall.emptied (now : Clock) (h : Hall) (f : FloorId) : Hall :=
  (((h.silenced now f).foldedInto f).foldl Hall.closeWithCarrier (h.silenced now f)).freeOwned f

theorem Hall.closeLive_eq (now : Clock) (h : Hall) (f : FloorId) : h.closeLive now f =
    (((h.emptied now f).updFloor f fun x => { x with members := 0#12 }).membersReport
      ((h.emptied now f).floor f).members).closeRecord f := rfl

/-- Once its speaking has ended a LIVE floor stays silent, and it stays LIVE. -/
theorem Hall.silenced_floor (now : Clock) {h : Hall} {f : FloorId} (live : (h.floor f).state = .live) :
    ((h.silenced now f).floor f).speakers = [] ∧ ((h.silenced now f).floor f).queue = [] ∧
      f ∉ (h.silenced now f).foldedInto f := by
  unfold Hall.silenced
  have pending : ((h.updFloor f fun x => { x with swapPending := false }).floor f).state = .live := by
    rw [Hall.floor_updFloor, if_pos rfl]
    exact live
  generalize h.updFloor f (fun x => { x with swapPending := false }) = g at pending ⊢
  obtain ⟨silent, idle, -⟩ := g.closeSpeech_floor now f
  have state : ((g.closeSpeech now f).floor f).state = .live := by
    rw [← pending]
    have loc := LocalTo.closeTurns now g f ((g.floor f).speakers.map (·.seat)) .floorClosed
    unfold Hall.closeSpeech
    rw [Hall.floor_of_floors (Hall.recomposeAll_floors _ _), Hall.floor_of_floors (Hall.raiseIf_floors _ _ _),
      Hall.floor_updFloor, if_pos rfl]
    exact loc.state f
  have rest := (Handed.arbitrate now (g.closeSpeech now f)).idle f (Floor.waits_of_empty idle)
  have booths := (Speechless.releaseBooths ((g.closeSpeech now f).arbitrate now) f).floor f
  rw [Hall.mem_foldedInto, booths, rest, state]
  exact ⟨silent, idle, by simp⟩

namespace Machine.SpeechInv

variable {h g : Hall} {x y f : FloorId}

theorem closeLive (i : SpeechInv h) (now : Clock) (live : (h.floor f).state = .live) :
    SpeechInv (h.closeLive now f) := by
  obtain ⟨silent, idle, out⟩ := Hall.silenced_floor now live
  have ended : SpeechInv (h.silenced now f) :=
    (((i.updFloor f rfl rfl rfl).closeSpeech now f).arbitrate now).speechless (Speechless.releaseBooths _ f)
  have carried := SpeechInv.closeCarried ((h.silenced now f).foldedInto f) ended fun y m => by
    rw [Hall.mem_foldedInto.mp m]
    exact FloorState.noConfusion
  have freed := Speechless.freeOwned (((h.silenced now f).foldedInto f).foldl Hall.closeWithCarrier (h.silenced now f)) f
  have emptied : SpeechInv (h.emptied now f) := carried.speechless freed
  have floor : (h.emptied now f).floor f = (h.silenced now f).floor f := by
    rw [Hall.emptied, freed.floor, Hall.closeCarried_floor, if_neg out]
  rw [Hall.closeLive_eq]
  generalize h.emptied now f = e at emptied floor ⊢
  have dark : SpeechInv (e.updFloor f fun x => { x with members := 0#12 }) := emptied.updFloor f rfl rfl rfl
  have gone : SpeechInv ((e.updFloor f fun x => { x with members := 0#12 }).membersReport (e.floor f).members) :=
    dark.retune _
  refine gone.closeRecord ?_ ?_ <;>
    rw [Hall.membersReport, Hall.floor_of_floors (Hall.retune_floors _ _), Hall.floor_updFloor, if_pos rfl, floor]
  · exact silent
  · exact idle

theorem closeFloor (i : SpeechInv h) (now : Clock) (f : FloorId) : SpeechInv (h.closeFloor now f) := by
  unfold Hall.closeFloor
  split
  next live => exact i.closeLive now live
  next x folded =>
    refine i.closeFolded ?_
    rw [folded]
    exact FloorState.noConfusion
  · exact i

theorem openFloor (i : SpeechInv h) (walls : Tbl (Option Wall) 16) (a : SectionId) (p : Nat) (c : ChannelId)
    (closed : (h.floor f).state = .closed) : SpeechInv (h.openFloor walls f a p c) := by
  obtain ⟨silent, idle⟩ := (i.fits f).empty (by
    rw [closed]
    exact FloorState.noConfusion)
  exact (i.replace silent idle rfl rfl).retune _

end Machine.SpeechInv

end Sys2Proof

/-! PROOFS. What the invariant of channels, outputs and floors reads of a hall, as a board of its own; and what each operation
of the Channel Allocator and the Interpretation Unit writes on it. -/

namespace Sys2Proof

/-- A channel as the invariant reads it: what a channel in use carries is left out. -/
def Channel.line (c : Channel) : Channel :=
  if c.use.isSome then { c with content := .silence } else c

/-- The output on which a desk is LIVE. -/
def DeskFields.station (d : DeskFields) : Option Out :=
  if d.live then some d.selected else none

/-- What the invariant of channels reads (03 R40, 06 R101, 07 R117). -/
@[ext] structure Board where
  chan : ChannelId → Channel
  floor : FloorId → FloorState × Option ChannelId
  out : BoothId → Out → Option OutUse
  home : BoothId → Option FloorId
  boothOf : SeatId → Option BoothId
  live : SeatId → Option Out

/-- The board of a hall. -/
def Hall.board (h : Hall) : Board where
  chan c := (h.channels.get c).line
  floor f := ((h.floor f).state, (h.floor f).original?)
  out b o := (h.output b o).use
  home b := (h.booths.get b).floor
  boothOf n := h.boothOf n
  live n := (h.desk? n).bind DeskFields.station

namespace Board

variable (m : Board)

def use (c : ChannelId) : Option ChanUse := (m.chan c).use

def state (f : FloorId) : FloorState := (m.floor f).1

def original (f : FloorId) : Option ChannelId := (m.floor f).2

/-- A channel in use for u. -/
def setUse (c : ChannelId) (u : ChanUse) : Board :=
  { m with chan := Function.update m.chan c ⟨some u, .silence⟩ }

/-- A FREE channel that carries SILENCE. -/
def setFree (c : ChannelId) : Board := { m with chan := Function.update m.chan c Channel.reset }

def setOut (b : BoothId) (o : Out) (v : Option OutUse) : Board :=
  { m with out := fun c p => if c = b ∧ p = o then v else m.out c p }

/-- The state of an output that has a language replaced. -/
def setState (b : BoothId) (o : Out) (st : OutState) : Board :=
  m.setOut b o ((m.out b o).map fun u => { u with state := st })

def setLive (n : SeatId) (v : Option Out) : Board := { m with live := Function.update m.live n v }

@[simp] theorem setUse_use (c d : ChannelId) (u : ChanUse) :
    (m.setUse c u).use d = if d = c then some u else m.use d := by
  unfold use setUse
  by_cases e : d = c
  · subst e
    simp
  · simp [e]

@[simp] theorem setFree_use (c d : ChannelId) : (m.setFree c).use d = if d = c then none else m.use d := by
  unfold use setFree
  by_cases e : d = c
  · subst e
    simp [Channel.reset]
  · simp [e]

@[simp] theorem setOut_out (b c : BoothId) (o p : Out) (v : Option OutUse) :
    (m.setOut b o v).out c p = if c = b ∧ p = o then v else m.out c p := rfl

@[simp] theorem setLive_live (n k : SeatId) (v : Option Out) :
    (m.setLive n v).live k = if k = n then v else m.live k := by
  unfold setLive
  by_cases e : k = n
  · subst e
    simp
  · simp [e]

theorem setOut_same (b : BoothId) (o : Out) : m.setOut b o (m.out b o) = m := by
  refine Board.ext rfl rfl (funext fun c => funext fun p => ?_) rfl rfl rfl
  rw [setOut_out]
  split
  next e => rw [e.1, e.2]
  · rfl

theorem setState_setState (b : BoothId) (o : Out) (s t : OutState) :
    (m.setState b o s).setState b o t = m.setState b o t := by
  refine Board.ext rfl rfl (funext fun c => funext fun p => ?_) rfl rfl rfl
  simp only [setState, setOut_out, and_self, if_true, Option.map_map]
  split <;> rfl

theorem setLive_same {n : SeatId} {v : Option Out} (k : m.live n = v) : m.setLive n v = m := by
  refine Board.ext rfl rfl rfl rfl rfl (funext fun j => ?_)
  rw [setLive_live]
  split
  next e => rw [e, k]
  · rfl

end Board

/-! ## Operations that leave the board -/

theorem Hall.board_of_parts {h g : Hall} (sound : g.sound = h.sound) (desks : g.desks = h.desks)
    (floor : ∀ f, (g.floor f).state = (h.floor f).state ∧ (g.floor f).original? = (h.floor f).original?) :
    g.board = h.board := by
  have channels := Hall.channels_of_sound sound
  have booths := Hall.booths_of_sound sound
  refine Board.ext ?_ (funext fun f => Prod.ext (floor f).1 (floor f).2) ?_ ?_ ?_ (funext fun n => ?_)
  · simp only [Hall.board, channels]
  · simp only [Hall.board, Hall.output, booths]
  · simp only [Hall.board, booths]
  · simp only [Hall.board, Hall.boothOf, booths]
  · simp only [Hall.board, Hall.desk?_of_desks desks]

/-- A hall whose floors, channels, booths and desk fields are those of another. -/
theorem Hall.board_same {h g : Hall} (floors : g.floors = h.floors) (sound : g.sound = h.sound)
    (desks : g.desks = h.desks) : g.board = h.board :=
  Hall.board_of_parts sound desks fun f => by
    rw [Hall.floor_of_floors floors]
    exact ⟨rfl, rfl⟩

namespace Hall

variable (h : Hall)

@[simp] theorem board_raise (i : AttnItem) : (h.raise i).board = h.board := rfl

@[simp] theorem board_route (u : RouteUpdate) : (h.route u).board = h.board :=
  Hall.board_same (by simp) (by simp [Hall.sound]) (Desks.same (by simp))

@[simp] theorem board_retune (p : SeatId → Seat → Bool) : (h.retune p).board = h.board :=
  Hall.board_same (by simp) (by simp [Hall.sound]) (Desks.retune h p)

@[simp] theorem board_mark (n : SeatId) : (h.mark n).board = h.board :=
  Hall.board_same (by simp) (by simp [Hall.sound]) (Desks.same (by simp))

@[simp] theorem board_recomposeAll (ns : List SeatId) : (h.recomposeAll ns).board = h.board :=
  Hall.board_same (by simp) (Sound.recomposeAll h ns) (Desks.recomposeAll h ns)

@[simp] theorem board_recompose (n : SeatId) : (h.recompose n).board = h.board :=
  Hall.board_same (by simp) (Sound.recompose h n) (Desks.recompose h n)

theorem board_raiseFold (fs : List FloorId) : (h.raiseFold fs).board = h.board :=
  foldl_keeps (part := Hall.board) (fun g f => board_raise g (.foldChanged f)) fs h

theorem board_recomposeFloor (f : FloorId) : (h.recomposeFloor f).board = h.board :=
  (board_recomposeAll _ _).trans (board_recomposeAll _ _)

/-- A seat record rewritten but for its desk fields. -/
theorem board_updSeat (n : SeatId) {f : Seat → Seat} (k : ∀ r, (f r).desk = r.desk) :
    (h.updSeat n f).board = h.board :=
  Hall.board_same (by simp) (by simp [Hall.sound]) (Desks.updSeat h n f k)

/-! ## Desk fields -/

theorem desk?_updSeat {n : SeatId} {f : Seat → Seat} {d e : DeskFields} (held : h.desk? n = some d)
    (k : ∀ r, (f r).desk = some e) (m : SeatId) :
    (h.updSeat n f).desk? m = if m = n then some e else h.desk? m := by
  unfold Hall.desk? at held ⊢
  obtain ⟨r, hr, -⟩ := Option.bind_eq_some_iff.mp held
  by_cases c : m = n
  · subst c
    rw [Hall.seat?_updSeat f hr, if_pos rfl, Option.bind_some, k]
  · rw [Hall.seat?_updSeat_ne (Ne.symm c), if_neg c]

/-- Desk fields written (07 R117): the output the desk is LIVE on is all the board shows of them. -/
theorem board_setDesk {n : SeatId} {d : DeskFields} (held : h.desk? n = some d) (e : DeskFields) :
    (h.setDesk n e).board = h.board.setLive n e.station := by
  unfold Hall.setDesk
  rw [held]
  simp only []
  split
  next same =>
    subst same
    refine (Board.setLive_same _ ?_).symm
    simp [Hall.board, held]
  · rw [board_recompose, Hall.retuneSeat, board_retune, board_mark]
    refine Board.ext (by simp [Hall.board, Board.setLive]) ?_ ?_ ?_ ?_ (funext fun m => ?_)
    · exact funext fun f => by
        show (((h.updSeat n _).floor f).state, ((h.updSeat n _).floor f).original?) = _
        rw [Hall.floor_of_floors (Hall.updSeat_floors h n _)]
        rfl
    · simp [Hall.board, Board.setLive, Hall.output]
    · simp [Hall.board, Board.setLive]
    · simp [Hall.board, Board.setLive, Hall.boothOf]
    · rw [Board.setLive_live]
      show ((h.updSeat n _).desk? m).bind DeskFields.station = _
      rw [desk?_updSeat h held fun _ => rfl]
      split <;> rfl

theorem setDesk_none {n : SeatId} (none_ : h.desk? n = none) (e : DeskFields) : h.setDesk n e = h := by
  rw [Hall.setDesk, none_]

/-- A desk that is written without a change of the output it is LIVE on. -/
theorem board_setDesk_same {n : SeatId} {d e : DeskFields} (held : h.desk? n = some d) (k : e.station = d.station) :
    (h.setDesk n e).board = h.board := by
  rw [board_setDesk h held, k]
  refine Board.setLive_same _ ?_
  simp [Hall.board, held]

theorem board_recheckDesk (b : BoothId) (n : SeatId) : (h.recheckDesk b n).board = h.board := by
  unfold Hall.recheckDesk
  split
  next d held =>
    split
    · split
      · rfl
      · exact board_setDesk_same h held rfl
    · rfl
  · rfl

@[simp] theorem board_relayRecheck : h.relayRecheck.board = h.board :=
  foldl_keeps (part := Hall.board) (fun g b =>
    foldl_keeps (part := Hall.board) (fun k n => board_recheckDesk k b n) _ g) _ h

@[simp] theorem board_mapReport (f : FloorId) : (h.mapReport f).board = h.board := by
  unfold Hall.mapReport
  split
  · rw [board_relayRecheck, board_retune]
  · rfl

@[simp] theorem board_mapReportOf (f : Option FloorId) : (h.mapReportOf f).board = h.board := by
  cases f with
  | none => rfl
  | some f => exact board_mapReport h f

/-! ## Channels -/

theorem board_setChannels (c : ChannelId) (x : Channel) :
    ({ h with channels := h.channels.set c x } : Hall).board =
      { h.board with chan := Function.update h.board.chan c x.line } := by
  refine Board.ext (funext fun d => ?_) rfl rfl rfl rfl rfl
  by_cases e : d = c
  · subst e
    simp [Hall.board]
  · simp [Hall.board, Tbl.get_set_ne _ _ (Ne.symm e), e]

/-- What a channel carries is not on the board. -/
@[simp] theorem board_setContent (c : ChannelId) (x : Content) : (h.setContent c x).board = h.board := by
  unfold Hall.setContent
  split
  next used =>
    rw [board_route]
    refine (board_setChannels h c { h.channels.get c with content := x }).trans ?_
    rw [Bool.and_eq_true] at used
    refine Board.ext (funext fun d => ?_) rfl rfl rfl rfl rfl
    by_cases e : d = c
    · subst e
      simp [Hall.board, Channel.line, used.1]
    · simp [e]
  · rfl

@[simp] theorem board_setUse (c : ChannelId) (u : ChanUse) : (h.setUse c u).board = h.board.setUse c u :=
  board_setChannels h c { h.channels.get c with use := some u }

theorem board_use (c : ChannelId) : h.board.use c = (h.channels.get c).use := by
  simp only [Board.use, Hall.board, Channel.line]
  split <;> rfl

theorem board_fillChannel (c : ChannelId) (f : FloorId) (o : ChanOrigin) (l : Lang) :
    (h.fillChannel c f o l).board = h.board.setUse c ⟨match (h.floor f).state with
      | .folded x => .lent x
      | _ => .owned, f, some l, o⟩ := by
  unfold Hall.fillChannel
  simp only []
  rw [board_route]
  exact board_setChannels h c _

theorem board_freeing (c : ChannelId) :
    (h.freeing c).board = if (h.board.use c).isSome then h.board.setFree c else h.board := by
  rw [board_use]
  unfold Hall.freeing
  split
  · rw [board_mapReportOf, board_route]
    exact board_setChannels h c Channel.reset
  · rfl

/-! ## Outputs -/

theorem output_setOutput (b c : BoothId) (o p : Out) (x : Output) :
    (h.setOutput b o x).output c p = if c = b ∧ p = o then x else h.output c p := by
  unfold Hall.output Hall.setOutput
  by_cases e : c = b
  · subst e
    simp only [Tbl.upd, Tbl.get_set_self, true_and]
    cases o <;> cases p <;> simp [Booth.output, Booth.setOutput]
  · simp [Tbl.upd, Tbl.get_set_ne _ _ (Ne.symm e), e]

theorem boothOf_upd (b : BoothId) {k : Booth → Booth} (same : ∀ r, (k r).desks = r.desks) (n : SeatId) :
    ({ h with booths := h.booths.upd b k } : Hall).boothOf n = h.boothOf n := by
  unfold Hall.boothOf
  rw [Tbl.lowest_eq_find, Tbl.lowest_eq_find]
  congr 1
  funext c
  by_cases e : b = c
  · subst e
    simp [Tbl.upd, same]
  · simp [Tbl.upd, Tbl.get_set_ne _ _ e]

@[simp] theorem board_setOutput (b : BoothId) (o : Out) (x : Output) :
    (h.setOutput b o x).board = h.board.setOut b o x.use := by
  refine Board.ext rfl rfl (funext fun c => funext fun p => ?_) (funext fun c => ?_) (funext fun n => ?_) rfl
  · show ((h.setOutput b o x).output c p).use = _
    rw [output_setOutput, Board.setOut_out]
    split <;> rfl
  · show ((h.setOutput b o x).booths.get c).floor = (h.booths.get c).floor
    unfold Hall.setOutput
    by_cases e : b = c
    · subst e
      simp only [Tbl.upd, Tbl.get_set_self]
      cases o <;> rfl
    · simp [Tbl.upd, Tbl.get_set_ne _ _ e]
  · exact boothOf_upd h b (fun r => by cases o <;> rfl) n

@[simp] theorem board_setOutState (b : BoothId) (o : Out) (st : OutState) :
    (h.setOutState b o st).board = h.board.setState b o st := board_setOutput h b o _

@[simp] theorem board_setLastRelease (b : BoothId) (o : Out) (n : SeatId) (c : ReleaseCause) :
    (h.setLastRelease b o n c).board = h.board := by
  unfold Hall.setLastRelease
  rw [board_setOutput]
  exact Board.setOut_same h.board b o

@[simp] theorem board_outContent (b : BoothId) (o : Out) (x : Content) : (h.outContent b o x).board = h.board := by
  unfold Hall.outContent
  split
  · exact board_setContent h _ x
  · rfl

@[simp] theorem board_mixContent (b : BoothId) (o : Out) : (h.mixContent b o).board = h.board := by
  unfold Hall.mixContent
  split
  · exact board_outContent h b o _
  · rfl

theorem board_enterFallback (b : BoothId) (o : Out) :
    (h.enterFallback b o).board = h.board.setState b o .fallback := by
  rw [Hall.enterFallback, board_raise, board_mixContent, board_setOutState]

/-- The state an output enters when it falls SILENT: FALLBACK at once when its delay is 0 (07 R118). -/
def silence (b : BoothId) : OutState :=
  if (h.booths.get b).delay = 0 then .fallback else .silent ((h.booths.get b).delay * 10)

theorem board_enterSilent (b : BoothId) (o : Out) :
    (h.enterSilent b o).board = h.board.setState b o (h.silence b) := by
  unfold Hall.enterSilent Hall.silence
  simp only []
  split
  · rw [board_enterFallback, board_outContent, board_setOutState, Board.setState_setState]
  · rw [board_outContent, board_setOutState]

theorem board_followServing (b : BoothId) : (h.followServing b).board = h.board := by
  refine foldl_keeps (part := Hall.board) (fun g o => ?_) _ h
  split
  · split
    · exact board_mixContent g b o
    · rfl
  · rfl

theorem board_servingChanged (bs : List BoothId) : (h.servingChanged bs).board = h.board := by
  rw [Hall.servingChanged, board_relayRecheck]
  exact foldl_keeps (part := Hall.board) (fun g b => board_followServing g b) bs h

end Hall

end Sys2Proof

/-! PROOFS. FLOOR_CLOSE (03 R40, R44, R45, 08 R155): the record is that of a CLOSED floor, and a LIVE floor's channels are
freed. -/

namespace Sys2Proof

theorem Hall.freeings_use (cs : List ChannelId) (h : Hall) (d : ChannelId) :
    (cs.foldl Hall.freeing h).board.use d = if d ∈ cs then none else h.board.use d := by
  induction cs generalizing h with
  | nil => rfl
  | cons c cs ih =>
    have step : (h.freeing c).board.use d = if d = c then none else h.board.use d := by
      rw [Hall.board_freeing]
      split
      · exact Board.setFree_use _ c d
      next unused =>
        split
        next e => simpa [e] using unused
        · rfl
    rw [List.foldl_cons, ih, step]
    by_cases e : d = c <;> simp [e]

/-- Every channel a floor owned is FREE afterwards, and no other changes (03 R45 step 5). -/
theorem Hall.freeOwned_use (h : Hall) (f : FloorId) (d : ChannelId) :
    (h.freeOwned f).board.use d = (h.board.use d).filter fun u => u.owner ≠ f := by
  rw [Hall.freeOwned, Hall.freeings_use, Hall.board_use]
  simp only [Tbl.mem_positions]
  cases (h.channels.get d).use with
  | none => simp
  | some u => by_cases e : u.owner = f <;> simp [Option.filter, e]

theorem Hall.closeLive_use (now : Clock) (h : Hall) (f : FloorId) (d : ChannelId) :
    ((h.closeLive now f).channels.get d).use = (h.emptied now f).board.use d := by
  rw [Hall.board_use, Hall.closeLive_eq]
  generalize h.emptied now f = e
  rw [Hall.closeRecord, Hall.updFloor_channels, Hall.membersReport, Hall.retune_channels, Hall.updFloor_channels]

theorem Hall.closeFloor_floor (now : Clock) {h : Hall} {f : FloorId} (opened : (h.floor f).state ≠ .closed) :
    (h.closeFloor now f).floor f = Floor.reset := by
  unfold Hall.closeFloor
  split
  · rw [Hall.closeLive_eq, Hall.closeRecord_floor, if_pos rfl]
  · rw [Hall.closeFolded_eq, Hall.floor_of_floors (Hall.raise_floors _ _), Hall.closeRecord_floor, if_pos rfl]
  next closed => exact absurd closed opened

namespace Machine

/-- Settles O36: the record is written last, and the freeing of all that a LIVE floor owns (`Hall.freeOwned_use`) comes after
every other change of a channel. -/
theorem floorClose : Obligations.FloorClose := by
  refine ⟨fun fb f s h hf opened => ?_, fun fb f s h hf closed => ?_⟩
  · have run : exec (.floorClose fb) s = .next (s.answered 4 0x31#8
        (done (inHall s.world (s.world.hall.closeFloor s.world.clock f)))) := by
      show execFloorClose fb s = _
      refine request_answers h ?_
      rw [withFloor_eq hf, if_neg opened]
    refine ⟨_, run, ?_, fun live c u use owner => ?_, (answered_port _ _ _ _).1⟩
    · rw [State.answered_world, done_world, inHall_hall]
      exact Hall.closeFloor_floor s.world.clock opened
    · rw [State.answered_world, done_world, inHall_hall, Hall.closeFloor, live] at use
      simp only [] at use
      rw [Hall.closeLive_use, Hall.emptied, Hall.freeOwned_use] at use
      have kept := Option.mem_filter_iff.mp (Option.mem_def.mpr use)
      simp [owner] at kept
  · show execFloorClose fb s = _
    refine request_answers h ?_
    rw [withFloor_eq hf, if_pos closed]
    rfl

end Machine

end Sys2Proof

/-! PROOFS. What a command may do to the floor blocks: the events of the hall, each with what its request has checked,
and the runs of such events that the commands of the Chain Controller and of the Layout Unit make. -/

namespace Sys2Proof

/-! ## The events of the hall -/

/-- One event of the floor blocks, as the commands hand them on. An event that a request checks carries the checks an
invariant needs. -/
inductive Hall.Event (h : Hall) : Hall → Prop
  /-- Attention, change marks, masks and the Route Output, which no floor, slot, channel, booth or seat names. -/
  | aside {g : Hall} (floors : g.floors = h.floors) (slots : g.slots = h.slots) (channels : g.channels = h.channels)
      (booths : g.booths = h.booths) (seats : g.seats = h.seats) : h.Event g
  -- Seat Table (chapter 2)
  | setReach (n : SeatId) (r : Reach) : h.Event (h.setReach n r)
  | seatMissing (now : Clock) (n : SeatId) : h.Event (h.seatMissing now n)
  | seatAnswered (now : Clock) (n : SeatId) (via : Reach) (slot : ListenSlot) (badge : Option Badge)
      (keys : List KeyEvent) : h.Event (h.seatAnswered now n via slot badge keys)
  | graceExpires (now : Clock) (n : SeatId) : h.Event (h.graceExpires now n)
  | retire (now : Clock) (n : SeatId) (c : RetireCause) : h.Event (h.retire now n c)
  | makeSeat (n : SeatId) (p : PortId) (a : Nat) (k : UnitKind) : h.Event (h.makeSeat n p a k)
  | reserve {n : SeatId} (free : h.freeSeat = some n) : h.Event (h.setPos n .reserved)
  | unreserve (n : SeatId) : h.Event (h.unreserve n)
  | placeSeat (n : SeatId) (place : Option SectionId) : h.Event (h.placeSeat n place)
  | setRole (n : SeatId) (x : Role) : h.Event (((h.updSeat n fun y => { y with role := x }).recompose n).mark n)
  | refreshSeats : h.Event h.refreshSeats
  -- Turn timers and fallback delays (chapters 5 and 7)
  | tick (now : Clock) : h.Event (h.tick now)
  | timeUp (now : Clock) (n : SeatId) : h.Event (h.timeUp now n)
  | warnZero (n : SeatId) : h.Event (h.warnZero n)
  | endFlash (n : SeatId) : h.Event (h.endFlash n)
  | fallbackExpires (b : BoothId) (o : Out) : h.Event (Machine.fallbackExpires h b o)
  -- Floor Table (chapters 3 and 8)
  | openFloor (walls : Tbl (Option Wall) 16) {f : FloorId} (a : SectionId) (p : Nat) {g : Hall} {c : ChannelId}
      (closed : (h.floor f).state = .closed) (given : h.allocate none f .original 0 = some (g, c)) :
      h.Event (g.openFloor walls f a p c)
  | closeFloor (now : Clock) (f : FloorId) : h.Event (h.closeFloor now f)
  | appliedOpen (now : Clock) (walls : Tbl (Option Wall) 16) (a b : SectionId) : h.Event (h.appliedOpen now walls a b)
  | appliedClosed (now : Clock) (walls : Tbl (Option Wall) 16) (a b : SectionId) :
      h.Event (h.appliedClosed now walls a b)
  | setPrecedence {f : FloorId} {x : Session} (opened : (h.floor f).sess = some x) (p : Nat) :
      h.Event (h.updFloor f fun y => { y with sess := some { x with precedence := p } })
  | writeBank {f : FloorId} {x : Session} (opened : (h.floor f).sess = some x) (b : Bank) :
      h.Event (h.updFloor f fun y => { y with sess := some (x.setBank x.current.other b) })
  | completeSwap (now : Clock) (f : FloorId) : h.Event (h.completeSwap now f)
  | setSwapPending (f : FloorId) (b : Bool) : h.Event (h.updFloor f fun x => { x with swapPending := b })
  -- Speech Arbiter (chapter 4)
  | arbitrate (now : Clock) : h.Event (h.arbitrate now)
  | displace (now : Clock) {f : FloorId} {n : SeatId} (live : (h.floor f).state = .live)
      (silent : h.speaks n = false) : h.Event ((h.waitsOnlyOn f n).passTurn now f n .revoked)
  | grant (now : Clock) {f : FloorId} {n : SeatId} {k : SlotId} (live : (h.floor f).state = .live)
      (silent : h.speaks n = false) (free : h.freeSlot = some k)
      (room : (h.seat? n).elim .delegate Seat.speakerKind = .delegate → (h.floor f).delegates < (h.floor f).bank.limit) :
      h.Event ((h.waitsOnlyOn f n).grant now f n k)
  | endTurn (now : Clock) (f : FloorId) (n : SeatId) (c : TurnCause) : h.Event (h.endTurn now f n c)
  | joinQueue {f : FloorId} (k : Nat) (e : Waiting) (live : (h.floor f).state = .live)
      (silent : h.speaks e.seat = false) (idle : h.queued e.seat = false)
      (room : (h.floor f).queue.length < (h.floor f).bank.cap) (pool : h.poolFree ≠ 0) : h.Event (h.joinQueue f k e)
  | removeEntries (f : FloorId) (ns : List SeatId) (c : RemovalCause) : h.Event (h.removeEntries f ns c)
  | setRequest (f : FloorId) (b : Bool) : h.Event (h.updFloor f fun x => { x with requestHolds := b })
  | priorityAct (now : Clock) (f : FloorId) : h.Event (h.priorityAct now f)
  | liftIfEmpty (f : FloorId) : h.Event (h.liftIfEmpty f)
  -- Interpretation Unit (chapter 7)
  | assignBooth {b : BoothId} {f : FloorId} (spare : (h.booths.get b).floor = none) (live : (h.floor f).state = .live) :
      h.Event ((Machine.updBooth h b fun r => { r with floor := some f }).retuneDesks b)
  | addOutput {b : BoothId} {o : Out} {l : Lang} {f : FloorId} {want : Option ChannelId} {g : Hall} {c : ChannelId}
      (home : (h.booths.get b).floor = some f) (unused : (h.output b o).use = none)
      (served : (h.serving b).elim false (fun x => h.languageTaken x l) = false) (own : h.ownsLanguage f l = false)
      (spoken : l ≠ 0) (given : h.allocate want f (.output b o) l = some (g, c)) :
      h.Event ((g.setOutput b o { g.output b o with use := some ⟨l, c, .silent 0⟩ }).enterSilent b o)
  | clearOutput (b : BoothId) (o : Out) (c : ReleaseCause) : h.Event (h.clearOutput b o c)
  | addDesk (b : BoothId) {n : SeatId} (free : h.boothOf n = none) :
      h.Event (((Machine.updBooth h b fun x => { x with desks := x.desks ++ [n] }).retuneSeat n).recompose n)
  | removeDesk {b : BoothId} {n : SeatId} (listed : n ∈ (h.booths.get b).desks) : h.Event (Machine.removeDesk h b n)
  | setBooth (b : BoothId) (p : BoothPolicy) (d : Nat) :
      h.Event (Machine.updBooth h b fun r => { r with policy := p, delay := d })
  | releaseBooth (b : BoothId) : h.Event (h.releaseBooth b)

/-- Events one after another. -/
def Hall.Runs : Hall → Hall → Prop :=
  Relation.ReflTransGen Hall.Event

theorem Hall.Event.runs {h g : Hall} (e : h.Event g) : h.Runs g := .single e

namespace Hall.Runs

theorem refl (h : Hall) : h.Runs h := Relation.ReflTransGen.refl

theorem trans {a b c : Hall} (x : a.Runs b) (y : b.Runs c) : a.Runs c := Relation.ReflTransGen.trans x y

theorem next {a b c : Hall} (x : a.Runs b) (y : b.Event c) : a.Runs c := Relation.ReflTransGen.tail x y

theorem foldl {β : Type} {f : Hall → β → Hall} (step : ∀ h b, Hall.Event h (f h b)) (l : List β) (h : Hall) :
    h.Runs (l.foldl f h) :=
  List.foldlRecOn l f (refl h) fun _ k b _ => k.next (step _ b)

/-- What every event keeps, a run of events keeps. -/
theorem keeps {P : Hall → Prop} (step : ∀ h g, Hall.Event h g → P h → P g) {h g : Hall} (k : h.Runs g) (i : P h) :
    P g := by
  induction k with
  | refl => exact i
  | tail _ e ih => exact step _ _ e ih

end Hall.Runs

theorem Hall.Event.raise (h : Hall) (i : AttnItem) : h.Event (h.raise i) := .aside rfl rfl rfl rfl rfl

/-! ## The Chain Controller (chapter 9) -/

/-- A world whose floor blocks a run of events has reached. -/
def World.Runs (w v : World) : Prop :=
  w.hall.Runs v.hall

namespace World.Runs

theorem refl (w : World) : w.Runs w := Hall.Runs.refl _

theorem trans {a b c : World} (x : a.Runs b) (y : b.Runs c) : a.Runs c := Hall.Runs.trans x y

theorem same {w v : World} (k : v.hall = w.hall) : w.Runs v := by
  unfold World.Runs
  rw [k]
  exact Hall.Runs.refl _

theorem event {w v : World} (e : w.hall.Event v.hall) : w.Runs v := e.runs

theorem onHall {w : World} {f : Hall → Hall} (e : w.hall.Event (f w.hall)) : w.Runs (w.onHall f) := event e

theorem raise (w : World) (i : AttnItem) : w.Runs (w.onHall fun h => h.raise i) := onHall (.raise w.hall i)

theorem updPort (w : World) (p : PortId) (f : PortRec → PortRec) : w.Runs (w.updPort p f) := same rfl

theorem updRing (w : World) (r : RingId) (f : RingRec → RingRec) : w.Runs (w.updRing r f) := same rfl

theorem updEntry (w : World) (p : PortId) (a : Nat) (f : PollEntry → PollEntry) : w.Runs (w.updEntry p a f) := same rfl

theorem send (w : World) (p : PortId) (b : List Byte) : w.Runs (w.send p b) := same rfl

theorem setPortState (w : World) (p : PortId) (st : PortState) : w.Runs (w.setPortState p st) := by
  unfold World.setPortState
  split <;> exact same rfl

theorem startLoop (w : World) (r : RingId) : w.Runs (w.startLoop r) := by
  unfold World.startLoop
  split <;> exact same rfl

theorem setPeriodic (w : World) (r : RingId) : w.Runs (w.setPeriodic r) := same rfl

theorem setStage (w : World) (p : PortId) (st : EnrolStage) : w.Runs (w.setStage p st) := same rfl

theorem abandonTest (w : World) (p : PortId) : w.Runs (w.abandonTest p) := same rfl

theorem noteTest (w : World) (p : PortId) (ex : Exchange) (b : Bool) : w.Runs (w.noteTest p ex b) := by
  unfold World.noteTest
  split <;> exact same rfl

theorem sendRelease (w : World) (p : PortId) : w.Runs (w.sendRelease p) := by
  unfold World.sendRelease
  split <;> exact same rfl

theorem beginPoll (w : World) (p : PortId) (ex : Exchange) : w.Runs (w.beginPoll p ex) := by
  unfold World.beginPoll
  repeat' split
  all_goals exact same rfl

theorem probe (w : World) (p : PortId) (n : SeatId) (a : Nat) : w.Runs (w.probe p n a) := same rfl

theorem allPrimary (w : World) (p : PortId) : w.Runs (w.onHall fun h => h.allPrimary p) :=
  Hall.Runs.foldl (fun _ n => .setReach n .primary) _ w.hall

theorem setRing (w : World) (r : RingId) (st : RingState) : w.Runs (w.setRing r st) := by
  unfold World.setRing
  split
  · exact refl w
  · extract_lets g
    have changed : w.Runs g := raise w (.ringChanged r)
    clear_value g
    split
    · exact changed.trans (allPrimary g _)
    · exact changed

theorem reportMissing (w : World) (p : PortId) (a : Nat) : w.Runs (w.reportMissing p a) := by
  unfold World.reportMissing
  split
  · split
    · exact refl w
    · exact event (.seatMissing w.clock _)
  · exact refl w

theorem reportCounted (w : World) (p : PortId) : w.Runs (w.reportCounted p) :=
  foldl_rel refl (fun _ _ _ => trans) (fun g a => reportMissing g p a) _ w

theorem testOnMiss (w : World) (p : PortId) (via : Reach) : w.Runs (w.testOnMiss p via) := by
  unfold World.testOnMiss
  split
  · exact startLoop w _
  · exact refl w

theorem countMiss (w : World) (p : PortId) (ex : Exchange) : w.Runs (w.countMiss p ex) := by
  unfold World.countMiss
  extract_lets g due v
  have counted : w.Runs g := updEntry w p _ _
  have reported : g.Runs v := by
    subst v
    split
    · exact reportMissing g p _
    · exact refl g
  clear_value v
  split
  · exact (counted.trans reported).trans (updPort v p _)
  · exact (counted.trans reported).trans (testOnMiss v p _)

theorem testMiss (w : World) (p : PortId) (ex : Exchange) : w.Runs (w.testMiss p ex) :=
  (noteTest w p ex false).trans (testOnMiss _ p ex.via)

theorem settleTest (w : World) (p : PortId) : w.Runs (w.settleTest p) := by
  unfold World.settleTest
  split
  · split
    · exact raise w _
    · exact refl w
  · exact refl w

theorem settleRing (w : World) (r : RingId) (res : EnrolResult) (st : PortState) : w.Runs (w.settleRing r res st) := by
  unfold World.settleRing
  split
  · exact setRing w r _
  · exact setRing w r _
  · exact startLoop w r
  · exact setRing w r _

theorem endEnrol (w : World) (p : PortId) (res : EnrolResult) : w.Runs (w.endEnrol p res) := by
  unfold World.endEnrol
  split
  · exact refl w
  · extract_lets g v
    have ended : w.Runs g := (updPort w p _).trans (setPortState _ p _)
    have settled : g.Runs v := by
      subst v
      split
      · exact (setPeriodic g _).trans (settleRing _ _ _ _)
      · exact refl g
    exact (ended.trans settled).trans (raise v _)

theorem unreserve (w : World) (n : SeatId) : w.Runs (w.unreserve n) := event (.unreserve n)

theorem extendReady (w : World) (p : PortId) : w.Runs (w.extendReady p) := by
  unfold World.extendReady
  split
  · split
    · exact endEnrol w p _
    · exact setStage w p _
  · exact refl w

theorem afterRetiring (w : World) (p : PortId) (e : Enrolment) : w.Runs (w.afterRetiring p e) := by
  unfold World.afterRetiring
  split
  · exact endEnrol w p _
  · exact setStage w p _

theorem finishReset (w : World) (p : PortId) : w.Runs (w.finishReset p) := by
  unfold World.finishReset
  extract_lets g
  have ended : w.Runs g := (updPort w p _).trans (setPortState _ p _)
  split
  · exact ended.trans (setRing g _ _)
  · exact ended

theorem settle (w : World) (p : PortId) : w.Runs (w.settle p) := by
  unfold World.settle
  repeat' split
  all_goals first
    | exact refl w
    | exact finishReset w p
    | exact afterRetiring w p _
    | exact setStage w p _
    | exact settleTest w p

theorem release (w : World) (p : PortId) : w.Runs (w.release p) :=
  ((sendRelease w p).trans (updPort _ p _)).trans (settle _ p)

theorem releaseWhenFree (w : World) (p : PortId) : w.Runs (w.releaseWhenFree p) := by
  unfold World.releaseWhenFree
  split
  · exact updPort w p _
  · exact release w p

theorem seatMade (w : World) (p : PortId) (n : SeatId) (k : UnitKind) : w.Runs (w.seatMade p n k) := by
  unfold World.seatMade
  split
  · exact event (.makeSeat n p _ k)
  · exact refl w

theorem afterSeat (w : World) (p : PortId) : w.Runs (w.afterSeat p) := by
  unfold World.afterSeat
  split
  · split
    · exact endEnrol w p _
    · split
      · exact endEnrol w p _
      · exact updPort w p _
  · exact refl w

theorem endUnmade (w : World) (p : PortId) (n : SeatId) (res : EnrolResult) : w.Runs (w.endUnmade p n res) :=
  (unreserve w n).trans (endEnrol _ p _)

theorem assignSilent (w : World) (p : PortId) (n : SeatId) : w.Runs (w.assignSilent p n) := endUnmade w p n _

theorem loopResult (w : World) (r : RingId) (b : Bool) : w.Runs (w.loopResult r b) := by
  unfold World.loopResult
  split
  · exact refl w
  · exact reportCounted w _
  · exact setRing w r _
  · exact setRing w r _

theorem afterLoop (w : World) (p : PortId) (b : Bool) : w.Runs (w.afterLoop p b) := by
  unfold World.afterLoop
  split
  · exact release w p
  · split
    · exact extendReady w p
    · exact endEnrol w p _
  · exact settle w p

theorem loopEnded (w : World) (r : RingId) (b : Bool) : w.Runs (w.loopEnded r b) := by
  unfold World.loopEnded
  split
  · exact (((updRing w r _).trans (loopResult _ r b)).trans (setPeriodic _ r)).trans (afterLoop _ _ b)
  · exact refl w

theorem takeReply (w : World) (p : PortId) (ex : Exchange) (r : Reply) : w.Runs (w.takeReply p ex r) := by
  unfold World.takeReply
  split
  · exact event (.seatAnswered w.clock _ _ _ _ _)
  · exact refl w

theorem exchangeEnded (w : World) (p : PortId) (ex : Exchange) (a : Option Reply) :
    w.Runs (w.exchangeEnded p ex a) := by
  unfold World.exchangeEnded
  extract_lets g
  have free : w.Runs g := updPort w p _
  refine free.trans ?_
  split
  · exact ((seatMade g p _ _).trans (takeReply _ p ex _)).trans (afterSeat _ p)
  · exact assignSilent g p _
  · exact ((takeReply g p ex _).trans (noteTest _ p ex true)).trans ((updPort _ p _).trans (settle _ p))
  · refine Runs.trans ?_ ((updPort _ p _).trans (settle _ p))
    split
    · exact testMiss g p ex
    · exact countMiss g p ex

theorem replyArrives (w : World) (p : PortId) (r : Reply) : w.Runs (w.replyArrives p r) := by
  unfold World.replyArrives
  split
  · exact exchangeEnded w _ _ _
  · exact refl w

theorem windowCloses (w : World) (p : PortId) : w.Runs (w.windowCloses p) := by
  unfold World.windowCloses
  split
  · exact exchangeEnded w _ _ _
  · exact refl w

theorem ackArrives (w : World) (p : PortId) (a : Nat) (k : UnitKind) : w.Runs (w.ackArrives p a k) := by
  unfold World.ackArrives
  split
  · split
    · exact (seatMade w p _ k).trans (afterSeat _ p)
    · exact probe w p _ _
  · exact refl w

theorem badAnswer (w : World) (p : PortId) (b : List Byte) : w.Runs (w.badAnswer p b) := by
  unfold World.badAnswer
  split
  · exact refl w
  · exact refl w
  · exact probe w p _ _
  · exact ackArrives w p _ _
  · exact refl w

theorem assign (w : World) (p : PortId) : w.Runs (w.assign p) := by
  unfold World.assign
  split
  · split
    · split
      next n free => exact event (.reserve free)
      · exact endEnrol w p _
    · exact refl w
  · exact refl w

theorem enrolling (w : World) (p : PortId) (e : Enrolment) : w.Runs (w.enrolling p e) := by
  unfold World.enrolling
  extract_lets g
  have begun : w.Runs g := ((abandonTest w p).trans (updPort _ p _)).trans (setPortState _ p _)
  split
  · exact begun.trans (setPeriodic g _)
  · exact begun

theorem beginFull (w : World) (p : PortId) : w.Runs (w.beginFull p) := by
  unfold World.beginFull
  extract_lets g
  have begun : w.Runs g := enrolling w p _
  refine (begun.trans ?_).trans (releaseWhenFree _ p)
  split
  · exact setRing g _ _
  · exact refl g

theorem beginExtend (w : World) (p : PortId) : w.Runs (w.beginExtend p) := by
  unfold World.beginExtend
  extract_lets g
  have begun : w.Runs g := enrolling w p _
  refine begun.trans ?_
  split
  · exact startLoop g _
  · exact extendReady g p

theorem abortEnrol (w : World) (p : PortId) (e : Enrolment) : w.Runs (w.abortEnrol p e) := by
  unfold World.abortEnrol
  split
  · exact updPort w p _
  · exact updPort w p _
  · exact updPort w p _
  · exact (updPort w p _).trans (endEnrol _ p _)

theorem dropEnrol (w : World) (p : PortId) : w.Runs (w.dropEnrol p) := by
  unfold World.dropEnrol
  split
  next e _ =>
    have released : w.Runs (e.stage.reserved.elim w w.unreserve) := by
      cases e.stage.reserved with
      | none => exact refl w
      | some n => exact unreserve w n
    exact released.trans ((updPort _ p _).trans (raise _ _))
  · exact refl w

theorem beginReset (w : World) (p : PortId) : w.Runs (w.beginReset p) := by
  unfold World.beginReset
  extract_lets g v
  have begun : w.Runs g := ((abandonTest w p).trans (updPort _ p _)).trans (setPortState _ p _)
  have timed : g.Runs v := by
    subst v
    split
    · exact setPeriodic g _
    · exact refl g
  exact (begun.trans timed).trans ((dropEnrol v p).trans (releaseWhenFree _ p))

theorem retireSeat (w : World) (p : PortId) (n : SeatId) (c : RetireCause) : w.Runs (w.retireSeat p n c) :=
  (onHall (f := fun h => h.retire w.clock n c) (.retire w.clock n c)).trans
    ((updPort _ p fun x => x.stopPolling n).trans (settle _ p))

theorem retireNext (w : World) (p : PortId) : w.Runs (w.retireNext p) := by
  unfold World.retireNext
  split
  · split
    · exact retireSeat w p _ _
    · exact settle w p
  · exact refl w

/-! ## The Layout Unit (chapter 1) -/

theorem applySensed (w : World) (i : WallId) (x : Wall) : w.Runs (w.applySensed i x) := by
  unfold World.applySensed
  split
  · exact event (.appliedClosed w.clock _ _ _)
  · exact refl w
  · exact refl w
  · split
    · exact raise w _
    · exact event (.appliedOpen w.clock _ _ _)

theorem applyPending (w : World) (i : WallId) : w.Runs (w.applyPending i) := by
  unfold World.applyPending
  split
  · exact trans (b := { w with layout := w.layout.setPending i none }) (refl w) (applySensed _ i _)
  · exact refl w
  · exact refl w

theorem relock (w : World) : w.Runs w.relock :=
  foldl_rel refl (fun _ _ _ => trans) applyPending _ { w with layout := { w.layout with lock := .locked } }

theorem sensedChange (w : World) (i : WallId) (x : Wall) (pos : WallPos) : w.Runs (w.sensedChange i x pos) := by
  unfold World.sensedChange
  extract_lets y
  split
  · exact trans (b := w.setWall i y) (refl w) (applySensed _ i y)
  · exact refl w

theorem settleExpires (w : World) (i : WallId) : w.Runs (w.settleExpires i) := by
  unfold World.settleExpires
  split
  · split
    · exact sensedChange w i _ _
    · exact refl w
  · exact refl w

end World.Runs

end Sys2Proof

/-! PROOFS. Every command but DEVICE_RESET runs events of the hall (`exec_runs`): so what every event keeps, every command
keeps. -/

namespace Sys2Proof.Machine

/-! ## Requests and events -/

section

variable {w : World} {s t : State}

theorem request_hall {n : Nat} {code : Byte} {f : World → Handled} (k : s.world.Runs (f s.world).world)
    (e : request n code f s = .next t) : s.world.Runs t.world := by
  obtain same | taken := request_world e
  · rw [same]
    exact .refl _
  · rwa [taken]

theorem event_runs {f : World → World} (k : s.world.Runs (f s.world)) (e : event f s = .next t) :
    s.world.Runs t.world := by
  rw [event_next] at e
  cases e
  exact k

theorem refusal_world (st : Status) : (refusal w st).world = w := rfl

/-- An event of the hall as a command hands it on. -/
theorem inHall_runs {h : Hall} (k : w.hall.Event h) : w.Runs (inHall w h) := k.runs

/-- Events of the Speech Arbiter, closed by its run. -/
theorem spoken_of_runs {h : Hall} (k : w.hall.Runs h) : w.Runs (spoken w h) :=
  Hall.Runs.next (c := h.arbitrate w.clock) k (.arbitrate w.clock)

theorem spoken_runs {h : Hall} (k : w.hall.Event h) : w.Runs (spoken w h) := spoken_of_runs k.runs

theorem withFloor_runs {b : Byte} {k : FloorId → Handled} (each : ∀ f, w.Runs (k f).world) :
    w.Runs (withFloor w b k).world := by
  unfold withFloor
  split
  · exact each _
  · exact .refl w

theorem withSession_runs {b : Byte} {k : FloorId → Session → Handled}
    (each : ∀ f x, (w.hall.floor f).sess = some x → w.Runs (k f x).world) : w.Runs (withSession w b k).world := by
  refine withFloor_runs fun f => ?_
  split
  next x opened =>
    refine each f x ?_
    unfold Floor.session? at opened
    split at opened
    · cases opened
    · exact opened
  · exact .refl w

theorem withLive_runs {b : Byte} {k : FloorId → Handled}
    (each : ∀ f, (w.hall.floor f).state = .live → w.Runs (k f).world) : w.Runs (withLive w b k).world := by
  refine withFloor_runs fun f => ?_
  split
  next live => exact each f (Floor.isLive_iff.mp live)
  · exact .refl w

theorem withSeat_runs {n : Half} {k : SeatId → Seat → Handled} (each : ∀ i r, w.Runs (k i r).world) :
    w.Runs (withSeat w n k).world := by
  unfold withSeat
  split
  · exact .refl w
  · split
    · exact each _ _
    · exact .refl w

theorem withBooth_runs {b : Byte} {k : BoothId → Handled} (each : ∀ i, w.Runs (k i).world) :
    w.Runs (withBooth w b k).world := by
  unfold withBooth
  split
  · exact each _
  · exact .refl w

theorem withDefined_runs {b : Byte} {k : WallId → Wall → Handled} (each : ∀ i x, w.Runs (k i x).world) :
    w.Runs (withDefined w b k).world := by
  unfold withDefined withWall
  split
  · dsimp only
    split
    · exact each _ _
    · exact .refl w
  · exact .refl w

theorem withTarget_runs {b : Byte} {k : PortId → Handled} (each : ∀ p, w.Runs (k p).world) :
    w.Runs (withTarget w b k).world := by
  unfold withTarget
  split
  · exact .refl w
  · split
    · exact .refl w
    · exact each _
  · split
    · exact each _
    · exact .refl w

end

theorem startFrame_event (h : Hall) : h.Event h.startFrame := by
  unfold Hall.startFrame
  split <;> exact .aside rfl rfl rfl rfl rfl

theorem frameDone_runs (h : Hall) : h.Runs h.frameDone := by
  unfold Hall.frameDone
  split
  · have sent : h.Event { h with inFlight := none } := .aside rfl rfl rfl rfl rfl
    exact sent.runs.next (startFrame_event _)
  · exact .refl h

theorem holdInactive_runs (h : Hall) : h.Runs { h with hold := false }.startFrame := by
  have lifted : h.Event { h with hold := false } := .aside rfl rfl rfl rfl rfl
  exact lifted.runs.next (startFrame_event _)

theorem refillRoutes_runs (h : Hall) : h.Runs h.refillRoutes := by
  have filled : h.Event { h with routeQueue := routeRefill } := .aside rfl rfl rfl rfl rfl
  exact filled.runs.next (startFrame_event _)

/-! ## The commands, chapter by chapter -/

section

variable {s t : State}

theorem execLayoutConfirm_runs {key : Half} (e : execLayoutConfirm key s = .next t) : s.world.Runs t.world := by
  refine request_hall ?_ e
  split
  · split
    · exact .refl _
    · rw [refusal_world]
      exact .relock _
  · exact .refl _

theorem execLayoutClose_runs (e : execLayoutClose s = .next t) : s.world.Runs t.world := by
  refine request_hall ?_ e
  split
  · exact .refl _
  · rw [done_world]
    exact .relock _

theorem execArmWindowExpiry_runs (e : execArmWindowExpiry s = .next t) : s.world.Runs t.world := by
  refine event_runs ?_ e
  split
  · exact .relock _
  · exact .refl _

theorem execIdleTimerExpiry_runs (e : execIdleTimerExpiry s = .next t) : s.world.Runs t.world := by
  refine event_runs ?_ e
  split
  · exact (World.Runs.relock _).trans (.raise _ _)
  · exact .refl _

theorem execWallSet_runs {w p : Byte} (e : execWallSet w p s = .next t) : s.world.Runs t.world := by
  refine request_hall ?_ e
  split
  · exact .refl _
  · refine withDefined_runs fun i x => ?_
    split
    · exact .refl _
    · split
      · exact .refl _
      · exact .sensedChange _ i x _

theorem execMergeConfirm_runs {w : Byte} (e : execMergeConfirm w s = .next t) : s.world.Runs t.world := by
  refine request_hall (withDefined_runs fun i x => ?_) e
  split
  · exact .refl _
  · split
    · exact .refl _
    · exact .event (.appliedOpen s.world.clock _ _ _)

theorem execSeatPlace_runs {n : Half} {sec : Byte} (e : execSeatPlace n sec s = .next t) : s.world.Runs t.world := by
  refine request_hall ?_ e
  split
  next n p _ _ =>
    split
    · exact .refl _
    · unfold placeRequest
      split
      · exact .refl _
      · split
        · exact .refl _
        · split
          · exact .refl _
          · split
            · exact .refl _
            · exact .event (.placeSeat n p)
  · exact .refl _

theorem execSeatRole_runs {n : Half} {r : Byte} (e : execSeatRole n r s = .next t) : s.world.Runs t.world := by
  refine request_hall ?_ e
  split
  · exact .refl _
  next x _ =>
    refine withSeat_runs fun n r => ?_
    split
    · exact .refl _
    · split
      · exact .refl _
      · split
        · exact .refl _
        · exact inHall_runs (.setRole n x)

theorem execMaskSet_runs {r k : Byte} (e : execMaskSet r k s = .next t) : s.world.Runs t.world := by
  refine request_hall ?_ e
  split
  next h set_ =>
    obtain ⟨x, _, masked⟩ := Option.bind_eq_some_iff.mp set_
    cases x <;> simp only [Hall.setMask, Option.ite_none_right_eq_some, Option.some.injEq] at masked <;>
      obtain ⟨_, rfl⟩ := masked <;> exact inHall_runs (.aside rfl rfl rfl rfl rfl)
  · exact .refl _

theorem execRosterChanges_runs (e : execRosterChanges s = .next t) : s.world.Runs t.world :=
  request_hall (.event (.aside rfl rfl rfl rfl rfl)) e

theorem execSeatRetire_runs {n : Half} (e : execSeatRetire n s = .next t) : s.world.Runs t.world := by
  refine request_hall (withSeat_runs fun n r => ?_) e
  split
  · exact .retireSeat _ _ n _
  · exact .refl _

theorem execFloorOpen_runs {f a p : Byte} (e : execFloorOpen f a p s = .next t) : s.world.Runs t.world := by
  refine request_hall ?_ e
  split
  · unfold openRequest
    split
    · exact .refl _
    next closed =>
      split
      · exact .refl _
      · split
        · exact .refl _
        · split
          · exact .refl _
          next given => exact .event (.openFloor _ _ _ (not_not.mp closed) given)
  · exact .refl _

theorem execFloorClose_runs {f : Byte} (e : execFloorClose f s = .next t) : s.world.Runs t.world := by
  refine request_hall (withFloor_runs fun f => ?_) e
  split
  · exact .refl _
  · exact inHall_runs (.closeFloor _ f)

theorem execFloorSet_runs {f p : Byte} (e : execFloorSet f p s = .next t) : s.world.Runs t.world := by
  refine request_hall ?_ e
  split
  · exact .refl _
  · exact withSession_runs fun f x opened => inHall_runs (.setPrecedence opened _)

theorem execBankWrite_runs {f : Byte} {items : List BankItem} (e : execBankWrite f items s = .next t) :
    s.world.Runs t.world := by
  obtain same | ⟨f, x, b, _, opened, world⟩ := bankWrite_cases s.world f items rfl e
  · exact .same (congrArg World.hall same)
  · rw [world]
    exact inHall_runs (.writeBank opened b)

theorem execBankSwapNormal_runs {f : Byte} (e : execBankSwapNormal f s = .next t) : s.world.Runs t.world := by
  refine request_hall (withSession_runs fun f x _ => ?_) e
  split
  · exact .refl _
  · split
    · exact spoken_runs (.completeSwap s.world.clock f)
    · exact inHall_runs (.setSwapPending f true)

theorem execBankSwapForce_runs {f : Byte} (e : execBankSwapForce f s = .next t) : s.world.Runs t.world := by
  refine request_hall (withSession_runs fun f _ _ => ?_) e
  rw [done_world]
  exact spoken_runs (.completeSwap s.world.clock f)

theorem execBankCancel_runs {f : Byte} (e : execBankCancel f s = .next t) : s.world.Runs t.world := by
  refine request_hall (withSession_runs fun f x _ => ?_) e
  split
  · exact inHall_runs (.setSwapPending f false)
  · exact .refl _

theorem grantSeat_runs {w : World} {f : FloorId} {n : SeatId} {r : Seat} (live : (w.hall.floor f).state = .live)
    (held : w.hall.seat? n = some r) (d : Bool) : w.Runs (grantSeat w f n r d).world := by
  unfold grantSeat
  split
  · exact .refl w
  next fit =>
    have silent : w.hall.speaks n = false := by
      simp [Hall.grantable] at fit
      tauto
    split
    · split
      · split
        · exact spoken_runs (.displace _ live silent)
        · exact .refl w
      · exact .refl w
    next room =>
      split
      next k free =>
        refine spoken_runs (.grant _ live silent free fun kind => ?_)
        simp only [held, Option.elim, Seat.speakerKind] at kind
        have delegate : r.role = .delegate := by
          cases role : r.role <;> simp_all [Hall.grantable]
        simpa [delegate] using room
      · exact .refl w

theorem grantNamed_held {w : World} {f : FloorId} {o : Option SeatId} {n : SeatId} {r : Seat}
    (k : grantNamed w f o = some (n, r)) : w.hall.seat? n = some r := by
  cases o with
  | some m =>
    obtain ⟨x, held, same⟩ := Option.map_eq_some_iff.mp k
    cases same
    exact held
  | none =>
    obtain ⟨e, _, k⟩ := Option.bind_eq_some_iff.mp k
    obtain ⟨x, held, same⟩ := Option.map_eq_some_iff.mp k
    cases same
    exact held

theorem execGrant_runs {f d : Byte} {n : Half} (e : execGrant f n d s = .next t) : s.world.Runs t.world := by
  refine request_hall ?_ e
  split
  · refine withLive_runs fun f live => ?_
    split
    next named => exact grantSeat_runs live (grantNamed_held named) _
    · exact .refl _
  · exact .refl _

theorem execCloseMic_runs {n : Half} (e : execCloseMic n s = .next t) : s.world.Runs t.world := by
  refine request_hall (withSeat_runs fun n _ => ?_) e
  split
  · exact spoken_runs (.endTurn _ _ n _)
  · exact .refl _

theorem insertSeatAt_runs {w : World} {f : FloorId} (live : (w.hall.floor f).state = .live) (n : SeatId) (r : Seat)
    (k : Nat) : w.Runs (insertSeatAt w f n r k).world := by
  unfold insertSeatAt
  extract_lets fl
  split
  · exact .refl w
  · split
    · exact .refl w
    next alone =>
      simp only [Bool.or_eq_true, not_or, Bool.not_eq_true] at alone
      split
      · exact .refl w
      · split
        · exact .refl w
        next room =>
          split
          · exact .refl w
          next pool => exact spoken_runs (.joinQueue _ _ live alone.1 alone.2 (Nat.lt_of_not_le room) pool)

theorem execQueueInsert_runs {f p : Byte} {n : Half} (e : execQueueInsert f n p s = .next t) :
    s.world.Runs t.world := by
  refine request_hall ?_ e
  split
  · split
    · exact .refl _
    · split
      · exact .refl _
      next live =>
        split
        · exact insertSeatAt_runs (Floor.isLive_iff.mp (by simpa using live)) _ _ _
        · exact .refl _
  · exact .refl _

theorem execQueueRemove_runs {n : Half} (e : execQueueRemove n s = .next t) : s.world.Runs t.world := by
  refine request_hall (withSeat_runs fun n _ => ?_) e
  split
  · exact spoken_runs (.removeEntries _ [n] _)
  · exact .refl _

theorem execQueueClear_runs {f : Byte} (e : execQueueClear f s = .next t) : s.world.Runs t.world := by
  refine request_hall (withLive_runs fun f _ => ?_) e
  split
  · exact .refl _
  · exact spoken_runs (.removeEntries f _ _)

theorem execFloorPriorityOn_runs {f : Byte} (e : execFloorPriorityOn f s = .next t) : s.world.Runs t.world := by
  refine request_hall (withLive_runs fun f _ => ?_) e
  exact spoken_of_runs ((Hall.Event.setRequest f true).runs.next (.priorityAct s.world.clock f))

theorem execFloorPriorityOff_runs {f : Byte} (e : execFloorPriorityOff f s = .next t) : s.world.Runs t.world := by
  refine request_hall (withLive_runs fun f _ => ?_) e
  split
  · exact spoken_of_runs ((Hall.Event.setRequest f false).runs.next (.liftIfEmpty f))
  · exact .refl _

theorem execBoothAssign_runs {b f : Byte} (e : execBoothAssign b f s = .next t) : s.world.Runs t.world := by
  refine request_hall (withBooth_runs fun b => withFloor_runs fun f => ?_) e
  split
  · exact .refl _
  next k =>
    simp only [Bool.or_eq_true, not_or, Bool.not_eq_true, Option.isSome_eq_false_iff, Option.isNone_iff_eq_none,
      Bool.not_eq_eq_eq_not, Bool.not_true] at k
    exact inHall_runs (.assignBooth k.1 (Floor.isLive_iff.mp (by simpa using k.2)))

theorem clearRequest_runs (w : World) (b o : Byte) : w.Runs (clearRequest w b o).world := by
  unfold clearRequest
  split
  · split
    · exact .refl w
    · exact inHall_runs (.clearOutput _ _ _)
  · exact .refl w

theorem outputRequest_runs (w : World) (b : BoothId) (o : Out) {l : Lang} (spoken : l ≠ 0) (want : Option ChannelId) :
    w.Runs (outputRequest w b o l want).world := by
  unfold outputRequest
  split
  · exact .refl w
  next home =>
    split
    · exact .refl w
    next unused =>
      split
      · exact .refl w
      next spare =>
        split
        · exact .refl w
        next given =>
          simp only [Bool.or_eq_true, not_or, Bool.not_eq_true] at spare
          exact .event (.addOutput home (by simpa using unused) spare.1 spare.2 spoken given)

theorem execBoothOutput_runs {b o l c : Byte} (e : execBoothOutput b o l c s = .next t) : s.world.Runs t.world := by
  refine request_hall ?_ e
  split
  · exact clearRequest_runs _ _ _
  · split
    · split
      · exact .refl _
      next nonzero => exact outputRequest_runs _ _ _ (fun zero => nonzero (by rw [zero]; rfl)) _
    · exact .refl _

theorem execBoothAddDesk_runs {b : Byte} {n : Half} (e : execBoothAddDesk b n s = .next t) : s.world.Runs t.world := by
  refine request_hall (withBooth_runs fun b => withSeat_runs fun n r => ?_) e
  dsimp only
  split
  · exact .refl _
  · split
    · exact .refl _
    · split
      · exact .refl _
      next free =>
        split
        · exact .refl _
        · exact inHall_runs (.addDesk b (by simpa using free))

theorem execBoothRemoveDesk_runs {b : Byte} {n : Half} (e : execBoothRemoveDesk b n s = .next t) :
    s.world.Runs t.world := by
  refine request_hall (withBooth_runs fun b => withSeat_runs fun n r => ?_) e
  dsimp only
  split
  next listed => exact inHall_runs (.removeDesk (by simpa using listed))
  · exact .refl _

theorem execBoothSet_runs {b p d : Byte} (e : execBoothSet b p d s = .next t) : s.world.Runs t.world := by
  refine request_hall ?_ e
  split
  · exact inHall_runs (.setBooth _ _ _)
  · exact .refl _

theorem execBoothRelease_runs {b : Byte} (e : execBoothRelease b s = .next t) : s.world.Runs t.world := by
  refine request_hall (withBooth_runs fun b => ?_) e
  split
  · exact inHall_runs (.releaseBooth b)
  · exact .refl _

theorem execRouteFrameDone_runs (e : execRouteFrameDone s = .next t) : s.world.Runs t.world :=
  event_runs (f := fun w => { w with hall := w.hall.frameDone }) (frameDone_runs s.world.hall) e

theorem execHoldActive_runs (e : execHoldActive s = .next t) : s.world.Runs t.world :=
  event_runs (.event (.aside rfl rfl rfl rfl rfl)) e

theorem execHoldInactive_runs (e : execHoldInactive s = .next t) : s.world.Runs t.world := by
  refine event_runs ?_ e
  exact holdInactive_runs s.world.hall

theorem execTurnTimerZeroCut_runs {n : SeatId} (e : execTurnTimerZeroCut n s = .next t) : s.world.Runs t.world := by
  refine event_runs ?_ e
  split
  · exact inHall_runs (.timeUp _ n)
  · exact .refl _

theorem execTurnTimerZeroWarn_runs {n : SeatId} (e : execTurnTimerZeroWarn n s = .next t) : s.world.Runs t.world := by
  refine event_runs ?_ e
  split
  · exact inHall_runs (.warnZero n)
  · exact .refl _

theorem execPoll_runs {p : PortId} (e : execPoll p s = .next t) : s.world.Runs t.world := by
  refine event_runs ?_ e
  split
  · exact .beginPoll _ _ _
  · exact .refl _

theorem execPollMiss_runs {p : PortId} {b : List Byte} (e : execPollMiss p b s = .next t) : s.world.Runs t.world := by
  refine event_runs ?_ e
  split
  · exact .replyArrives _ p _
  · exact .windowCloses _ p

theorem execChainConfig_runs {r v : Byte} (e : execChainConfig r v s = .next t) : s.world.Runs t.world := by
  refine request_hall ?_ e
  split
  · split
    · exact .refl _
    · unfold pairPorts unpairPorts
      repeat' split
      all_goals exact .same rfl
  · exact .refl _

theorem execRingTest_runs {b : Byte} (e : execRingTest b s = .next t) : s.world.Runs t.world := by
  refine request_hall (withTarget_runs fun p => ?_) e
  split
  · exact .refl _
  · split
    · exact .refl _
    · split
      · exact .refl _
      · exact (World.Runs.updRing _ _ _).trans (.startLoop _ _)

theorem execPeriodicLoopTest_runs {r : RingId} (e : execPeriodicLoopTest r s = .next t) : s.world.Runs t.world := by
  refine event_runs ?_ e
  split
  · extract_lets g
    have stopped : s.world.Runs g := .updRing _ _ _
    split
    · exact stopped.trans (.startLoop g r)
    · exact stopped
  · exact .refl _

theorem execLoopArrival_runs {r : RingId} {n : Byte} (e : execLoopArrival r n s = .next t) : s.world.Runs t.world := by
  refine event_runs ?_ e
  split
  · exact .loopEnded _ r true
  · exact .refl _

theorem execEnrollFull_runs {b : Byte} (e : execEnrollFull b s = .next t) : s.world.Runs t.world := by
  refine request_hall (withTarget_runs fun p => ?_) e
  split
  · exact .refl _
  · dsimp only
    exact .beginFull _ p

theorem execEnrollExtend_runs {b : Byte} (e : execEnrollExtend b s = .next t) : s.world.Runs t.world := by
  refine request_hall (withTarget_runs fun p => ?_) e
  split
  · exact .refl _
  · split
    · exact .refl _
    · dsimp only
      exact .beginExtend _ p

theorem execEnrollAbort_runs {b : Byte} (e : execEnrollAbort b s = .next t) : s.world.Runs t.world := by
  refine request_hall (withTarget_runs fun p => ?_) e
  split
  · exact .abortEnrol _ p _
  · exact .refl _

theorem execChainSeatRetire_runs {p : PortId} (e : execChainSeatRetire p s = .next t) : s.world.Runs t.world := by
  refine event_runs ?_ e
  split
  · exact .retireNext _ p
  · exact .refl _

theorem execAssignReturned_runs {r : RingId} (e : execAssignReturned r s = .next t) : s.world.Runs t.world := by
  refine event_runs ?_ e
  split
  · exact .endUnmade _ _ _ _
  · exact .refl _

theorem execAssignTimeout_runs {p : PortId} (e : execAssignTimeout p s = .next t) : s.world.Runs t.world := by
  refine event_runs ?_ e
  split
  · exact .assignSilent _ p _
  · exact .refl _

theorem execChainReset_runs {b : Byte} (e : execChainReset b s = .next t) : s.world.Runs t.world := by
  refine request_hall (withTarget_runs fun p => ?_) e
  split
  · exact .refl _
  · dsimp only
    exact .beginReset _ p

theorem execHallResetFloorClose_runs (e : execHallResetFloorClose s = .next t) : s.world.Runs t.world := by
  unfold execHallResetFloorClose at e
  split at e
  · exact event_runs (inHall_runs (.closeFloor _ _)) e
  · cases e
    exact .refl _

theorem execHallResetSeatRefresh_runs (e : execHallResetSeatRefresh s = .next t) : s.world.Runs t.world := by
  unfold execHallResetSeatRefresh at e
  split at e
  · exact event_runs (s := { s with port := { s.port with hall := .refreshed } }) (inHall_runs .refreshSeats) e
  · cases e
    exact .refl _

theorem execHallResetRouteRefill_runs (e : execHallResetRouteRefill s = .next t) : s.world.Runs t.world := by
  unfold execHallResetRouteRefill at e
  split at e
  · exact event_runs (s := { s with port := { s.port with hall := .refilled } })
      (f := fun w => inHall w w.hall.refillRoutes) (refillRoutes_runs s.world.hall) e
  · cases e
    exact .refl _

theorem execHallResetAttentionClear_runs (e : execHallResetAttentionClear s = .next t) : s.world.Runs t.world := by
  unfold execHallResetAttentionClear at e
  split at e
  · exact event_runs (s := { s with port := s.port.place ⟨.ok, 0x72#8, .empty⟩ })
      (inHall_runs (.aside rfl rfl rfl rfl rfl)) e
  · cases e
    exact .refl _

end

/-! ## Every command -/

/-- The commands that change no floor block: of the Layout Unit those that only edit the layout, and of the Host Port the
transactions. -/
theorem exec_hall {c : Instr} {s t : State}
    (k : match c with
      | .layoutOpen _ | .sectionSet _ _ | .wallDefine _ _ _ _ _ _ _ _ | .wallRemove _ | .mergeRefuse _
      | .wallLineChange _ _ | .answerRead _ | .writeDiscarded | .attentionMask _ | .hallReset _
      | .chipSelectAsserted => True
      | _ => False) (e : exec c s = .next t) : t.world.hall = s.world.hall := by
  cases c <;> simp only at k <;> simp only [exec] at e
  case layoutOpen key =>
    refine request_keeps World.hall ?_ e
    (repeat' split) <;> rfl
  case sectionSet =>
    refine request_keeps World.hall ?_ e
    (repeat' split) <;> rfl
  case wallDefine =>
    refine request_keeps World.hall ?_ e
    split
    · unfold defineRequest
      (repeat' split) <;> rfl
    · rfl
  case wallRemove =>
    refine request_keeps World.hall ?_ e
    exact withWall_keeps World.hall fun _ => by (repeat' split) <;> rfl
  case mergeRefuse =>
    refine request_keeps World.hall ?_ e
    refine withWall_keeps World.hall fun _ => ?_
    split
    · dsimp only
      split <;> rfl
    · rfl
  case wallLineChange => exact event_keeps World.hall rfl e
  case answerRead | chipSelectAsserted =>
    cases e
    rfl
  case writeDiscarded =>
    unfold execWriteDiscarded at e
    split at e <;> cases e <;> rfl
  case attentionMask =>
    unfold execAttentionMask at e
    split at e
    next m _ _ => exact request_keeps World.hall (s := { s with port := { s.port with mask := m } }) rfl e
    · exact request_keeps World.hall rfl e
  case hallReset =>
    unfold execHallReset at e
    split at e
    · cases e
      rfl
    · exact request_keeps World.hall rfl e

/-- A command that is no raw frame and no device reset runs events of the hall. -/
theorem exec_runs_of_command {c : Instr} {s t : State} (raw : ∀ bytes, c ≠ .requestFrameRefused bytes)
    (on : c ≠ .deviceReset) (e : exec c s = .next t) : s.world.Runs t.world := by
  by_cases read : isRead c = true
  · rw [exec_read read e]
    exact .refl _
  cases c
  case layoutConfirm => exact execLayoutConfirm_runs e
  case layoutClose => exact execLayoutClose_runs e
  case armWindowExpiry => exact execArmWindowExpiry_runs e
  case idleTimerExpiry => exact execIdleTimerExpiry_runs e
  case wallSet => exact execWallSet_runs e
  case mergeConfirm => exact execMergeConfirm_runs e
  case settleTimerExpiry i => exact event_runs (.settleExpires _ i) (show execSettleTimerExpiry i s = .next t from e)
  case seatPlace => exact execSeatPlace_runs e
  case seatRole => exact execSeatRole_runs e
  case seatRetire => exact execSeatRetire_runs e
  case maskSet => exact execMaskSet_runs e
  case rosterChanges => exact execRosterChanges_runs e
  case floorOpen => exact execFloorOpen_runs e
  case floorClose => exact execFloorClose_runs e
  case floorSet => exact execFloorSet_runs e
  case bankWrite => exact execBankWrite_runs e
  case bankSwapNormal => exact execBankSwapNormal_runs e
  case bankSwapForce => exact execBankSwapForce_runs e
  case bankCancel => exact execBankCancel_runs e
  case grant => exact execGrant_runs e
  case closeMic => exact execCloseMic_runs e
  case queueInsert => exact execQueueInsert_runs e
  case queueRemove => exact execQueueRemove_runs e
  case queueClear => exact execQueueClear_runs e
  case floorPriorityOn => exact execFloorPriorityOn_runs e
  case floorPriorityOff => exact execFloorPriorityOff_runs e
  case boothAssign => exact execBoothAssign_runs e
  case boothOutput => exact execBoothOutput_runs e
  case boothOutputClear b o =>
    exact request_hall (clearRequest_runs _ b o) (show execBoothOutputClear b o s = .next t from e)
  case boothAddDesk => exact execBoothAddDesk_runs e
  case boothRemoveDesk => exact execBoothRemoveDesk_runs e
  case boothSet => exact execBoothSet_runs e
  case boothRelease => exact execBoothRelease_runs e
  case routeFrameDone => exact execRouteFrameDone_runs e
  case holdActive => exact execHoldActive_runs e
  case holdInactive => exact execHoldInactive_runs e
  case sessionTick => exact event_runs (.event (.tick _)) (show execSessionTick s = .next t from e)
  case turnTimerZeroCut => exact execTurnTimerZeroCut_runs e
  case turnTimerZeroWarn => exact execTurnTimerZeroWarn_runs e
  case flashEnd n => exact event_runs (inHall_runs (.endFlash n)) (show execFlashEnd n s = .next t from e)
  case poll => exact execPoll_runs e
  case reply p r => exact event_runs (.replyArrives _ p r) (show execReply p r s = .next t from e)
  case pollMiss => exact execPollMiss_runs e
  case graceExpiry n => exact event_runs (inHall_runs (.graceExpires _ n)) (show execGraceExpiry n s = .next t from e)
  case fallbackDelayExpiry b o =>
    exact event_runs (inHall_runs (.fallbackExpires b o)) (show execFallbackDelayExpiry b o s = .next t from e)
  case chainConfig => exact execChainConfig_runs e
  case enrollFull => exact execEnrollFull_runs e
  case enrollExtend => exact execEnrollExtend_runs e
  case enrollAbort => exact execEnrollAbort_runs e
  case chainSeatRetire => exact execChainSeatRetire_runs e
  case assignStep p => exact event_runs (.assign _ p) (show execAssignStep p s = .next t from e)
  case assignAck p a k => exact event_runs (.ackArrives _ p _ k) (show execAssignAck p a k s = .next t from e)
  case assignReturned => exact execAssignReturned_runs e
  case assignBadAnswer p b => exact event_runs (.badAnswer _ p b) (show execAssignBadAnswer p b s = .next t from e)
  case assignTimeout => exact execAssignTimeout_runs e
  case chainReset => exact execChainReset_runs e
  case ringTest => exact execRingTest_runs e
  case periodicLoopTest => exact execPeriodicLoopTest_runs e
  case loopArrival => exact execLoopArrival_runs e
  case loopTimeout r => exact event_runs (.loopEnded _ r false) (show execLoopTimeout r s = .next t from e)
  case readAttention =>
    exact request_hall (.event (.aside rfl rfl rfl rfl rfl)) (show execReadAttention s = .next t from e)
  case hallResetFloorClose => exact execHallResetFloorClose_runs e
  case hallResetSeatRefresh => exact execHallResetSeatRefresh_runs e
  case hallResetRouteRefill => exact execHallResetRouteRefill_runs e
  case hallResetAttentionClear => exact execHallResetAttentionClear_runs e
  case requestFrameRefused bytes => exact absurd rfl (raw bytes)
  case deviceReset => exact absurd rfl on
  case layoutOpen | sectionSet | wallDefine | wallRemove | mergeRefuse | wallLineChange | answerRead | writeDiscarded
      | attentionMask | hallReset | chipSelectAsserted => exact .same (exec_hall trivial e)
  all_goals exact absurd rfl read

/-- Every command runs events of the hall, but for DEVICE_RESET. -/
theorem exec_runs {c : Instr} {s t : State} (on : c ≠ .deviceReset) (e : exec c s = .next t) :
    s.world.Runs t.world := by
  by_cases raw : ∃ bytes, c = .requestFrameRefused bytes
  · obtain ⟨bytes, rfl⟩ := raw
    obtain same | ⟨i, a, args, run⟩ := requestFrameRefused_cases e
    · rw [same]
      exact .refl _
    · refine exec_runs_of_command (fun b k => ?_) (fun k => ?_) run
      · rw [k] at args
        cases args
      · rw [k] at args
        cases args
  · exact exec_runs_of_command (fun b k => raw ⟨b, k⟩) on e

/-- What every event of the hall keeps, and DEVICE_RESET, each step of the part keeps. -/
theorem step_keeps {P : Hall → Prop} (each : ∀ h g, Hall.Event h g → P h → P g)
    (reset : ∀ w : World, P w.afterReset.hall) {s t : State} (i : P s.world.hall) (e : step s = .next t) :
    P t.world.hall := by
  unfold step at e
  split at e
  · cases e
    exact i
  next c rest _ =>
    by_cases off : c = .deviceReset
    · subst off
      cases e
      exact reset s.world
    · exact (exec_runs (s := s.withPending rest) off e).keeps each i

end Sys2Proof.Machine

/-! PROOFS. The speaker lists, queues and voice slots keep their invariant through every event of the hall, and so through
every step (03 R53, R57, 04 R61 to R65, R68). -/

namespace Sys2Proof.Machine

namespace SpeechInv

variable {h g : Hall}

/-- A floor record rewritten but for its lists, its state and its current bank. -/
theorem rewrite (i : SpeechInv h) (x : FloorId) {k : Floor → Floor} (lists : (k (h.floor x)).lists = (h.floor x).lists)
    (state : (k (h.floor x)).state = (h.floor x).state) (bank : (k (h.floor x)).bank = (h.floor x).bank) :
    SpeechInv (h.updFloor x k) :=
  (SameSpeech.of_upd rfl rfl lists state (by rw [bank]) (by rw [bank]) : SameSpeech h (h.updFloor x k)).inv i

theorem setPrecedence (i : SpeechInv h) {f : FloorId} {x : Session} (opened : (h.floor f).sess = some x) (p : Nat) :
    SpeechInv (h.updFloor f fun y => { y with sess := some { x with precedence := p } }) := by
  refine i.rewrite f rfl rfl ?_
  simp [Floor.bank, opened, Session.bank]

theorem writeBank (i : SpeechInv h) {f : FloorId} {x : Session} (opened : (h.floor f).sess = some x) (b : Bank) :
    SpeechInv (h.updFloor f fun y => { y with sess := some (x.setBank x.current.other b) }) :=
  i.rewrite f rfl rfl (bank_writeOther opened b)

theorem displace (i : SpeechInv h) (now : Clock) {f : FloorId} {n : SeatId} (live : (h.floor f).state = .live)
    (silent : h.speaks n = false) : SpeechInv ((h.waitsOnlyOn f n).passTurn now f n .revoked) := by
  obtain ⟨waits, alone, floor⟩ := i.waitsOnlyOn (f := f) silent
  exact waits.passTurn now _ alone (by rw [floor, live])

theorem grantNamed (i : SpeechInv h) (now : Clock) {f : FloorId} {n : SeatId} {k : SlotId}
    (live : (h.floor f).state = .live) (silent : h.speaks n = false) (free : h.freeSlot = some k)
    (room : (h.seat? n).elim .delegate Seat.speakerKind = .delegate → (h.floor f).delegates < (h.floor f).bank.limit) :
    SpeechInv ((h.waitsOnlyOn f n).grant now f n k) := by
  obtain ⟨waits, alone, floor⟩ := i.waitsOnlyOn (f := f) silent
  have slot : h.slots.get k = none := by simpa using Tbl.lowest_some free
  exact waits.grant now slot alone (by rw [floor, live]) (by rw [floor]; exact room)

theorem joinUnlisted (i : SpeechInv h) {f : FloorId} (k : Nat) (e : Waiting) (live : (h.floor f).state = .live)
    (silent : h.speaks e.seat = false) (idle : h.queued e.seat = false)
    (room : (h.floor f).queue.length < (h.floor f).bank.cap) (pool : h.poolFree ≠ 0) : SpeechInv (h.joinQueue f k e) :=
  i.joinQueue k e (Hall.unlisted (by simpa [Hall.speaks] using silent) (by simpa [Hall.queued] using idle)) pool room live

theorem unreserve (i : SpeechInv h) (n : SeatId) : SpeechInv (h.unreserve n) := by
  unfold Hall.unreserve
  split
  · exact i.setPos n .free
  · exact i

theorem placeSeat (i : SpeechInv h) (n : SeatId) (place : Option SectionId) : SpeechInv (h.placeSeat n place) := by
  unfold Hall.placeSeat
  split
  · extract_lets g
    refine SpeechInv.retune (h := g) ?_ _
    subst g
    split
    · exact i
    · exact (i.updSeat n _).mark n
  · exact i

theorem fallbackExpires (i : SpeechInv h) (b : BoothId) (o : Out) : SpeechInv (fallbackExpires h b o) := by
  unfold Machine.fallbackExpires
  split
  · split
    · exact i.speechless (Speechless.enterFallback h b o)
    · exact i
  · exact i

/-- A booth record rewritten. -/
theorem updBooth (i : SpeechInv h) (b : BoothId) (k : Booth → Booth) : SpeechInv (updBooth h b k) := i.talk rfl

theorem removeDesk (i : SpeechInv h) (b : BoothId) (n : SeatId) : SpeechInv (removeDesk h b n) := by
  unfold Machine.removeDesk
  extract_lets g v
  have left : SpeechInv g := i.speechless (Speechless.deskLeaves h n _)
  have unlinked : SpeechInv v := by
    subst v
    split
    · exact left.speechless (Speechless.setDesk g n _)
    · exact left
  exact ((unlinked.updBooth b _).retune _).recompose n

/-- Every event of the hall keeps the invariant. -/
theorem event (e : h.Event g) (i : SpeechInv h) : SpeechInv g := by
  cases e with
  | aside floors slots channels booths seats => exact i.talk (Prod.ext floors slots)
  | setReach n r => exact i.setReach n r
  | seatMissing now n => exact i.seatMissing now n
  | seatAnswered now n via slot badge keys => exact i.seatAnswered now n via slot badge keys
  | graceExpires now n => exact i.graceExpires now n
  | retire now n c => exact i.retire now n c
  | makeSeat n p a k => exact (i.setPos n _).mark n
  | reserve free => exact i.setPos _ _
  | unreserve n => exact i.unreserve n
  | placeSeat n place => exact i.placeSeat n place
  | setRole n x => exact ((i.updSeat n _).recompose n).mark n
  | refreshSeats => exact i.refreshSeats
  | tick now => exact i.tick now
  | timeUp now n => exact i.timeUp now n
  | warnZero n => exact i.warnZero n
  | endFlash n => exact i.endFlash n
  | fallbackExpires b o => exact i.fallbackExpires b o
  | openFloor walls a p closed given =>
    have talk := Talk.allocate given
    exact (i.talk talk).openFloor walls a p _ (by rwa [(SameSpeech.of_talk talk).state])
  | closeFloor now f => exact i.closeFloor now f
  | appliedOpen now walls a b => exact i.appliedOpen now walls a b
  | appliedClosed now walls a b => exact i.appliedClosed now walls a b
  | setPrecedence opened p => exact i.setPrecedence opened p
  | writeBank opened b => exact i.writeBank opened b
  | completeSwap now f => exact i.completeSwap now f
  | setSwapPending f b => exact i.updFloor f rfl rfl rfl
  | arbitrate now => exact i.arbitrate now
  | displace now live silent => exact i.displace now live silent
  | grant now live silent free room => exact i.grantNamed now live silent free room
  | endTurn now f n c => exact i.endTurn now f n c
  | joinQueue k e live silent idle room pool => exact i.joinUnlisted k e live silent idle room pool
  | removeEntries f ns c => exact i.removeEntries f ns c
  | setRequest f b => exact i.updFloor f rfl rfl rfl
  | priorityAct now f => exact i.priorityAct now f
  | liftIfEmpty f => exact i.liftIfEmpty f
  | assignBooth spare live => exact (i.updBooth _ _).retune _
  | addOutput home unused served own spoken given =>
    exact (i.talk (Talk.allocate given)).speechless
      ((Speechless.setOutput _ _ _ _).trans (Speechless.enterSilent _ _ _))
  | clearOutput b o c => exact i.speechless (Speechless.clearOutput h b o c)
  | addDesk b free => exact ((i.updBooth b _).retune _).recompose _
  | removeDesk listed => exact i.removeDesk _ _
  | setBooth b p d => exact i.updBooth b _
  | releaseBooth b => exact i.speechless (Speechless.releaseBooth h b)

end SpeechInv

theorem afterReset_floor (w : World) (f : FloorId) : w.afterReset.hall.floor f = Floor.reset := by
  simp [World.afterReset, Hall.floor, Hall.reset]

theorem speechInv_afterReset (w : World) : SpeechInv w.afterReset.hall := by
  have slots : ∀ k, w.afterReset.hall.slots.get k = none := fun k => by simp [World.afterReset, Hall.reset]
  refine speechInv_iff.mpr ⟨⟨fun f => ?_, fun f g n m => ?_, ?_, fun f e m => ?_, fun k v held => ?_⟩, fun f => ?_⟩
  · simp [afterReset_floor, Floor.seats, Floor.reset]
  · simp [afterReset_floor, Floor.seats, Floor.reset] at m
  · simp [Hall.waiting, afterReset_floor, Floor.reset]
  · simp [afterReset_floor, Floor.reset] at m
  · simp [slots] at held
  · rw [afterReset_floor]
    exact ⟨fun _ => ⟨rfl, rfl⟩, Nat.zero_le _, Nat.zero_le _⟩

/-- Settles O10: each event of the hall keeps the invariant (`SpeechInv.event`), and device reset empties every list. -/
theorem speechInvariantIsKept : Obligations.SpeechInvariantIsKept :=
  fun _ _ i e => step_keeps (fun _ _ e i => SpeechInv.event e i) speechInv_afterReset i e

end Sys2Proof.Machine

/-! PROOFS. The host's speech requests (04 R65, R76 to R79, R81, R82): grants, queue changes and priority, each closed by the
arbiter's run. First what that run leaves of a floor, then one operation after another, then the requests. -/

namespace Sys2Proof

/-! ## What the arbiter's run leaves of a floor (04 R67, R68) -/

theorem Floor.waits_of_manual {x : Floor} (k : x.bank.autoAdvance = false) : x.waits = false := by
  simp [Floor.waits, k]

theorem Floor.waits_of_muted {x : Floor} (k : x.muteActive = true) : x.waits = false := by
  simp [Floor.waits, k]

theorem Hall.arbitrate_floor (now : Clock) {h : Hall} {f : FloorId} (k : (h.floor f).waits = false) :
    (h.arbitrate now).floor f = h.floor f :=
  (Handed.arbitrate now h).idle f k

/-- A run of hand-outs keeps what every single hand-out keeps. -/
theorem Hall.arbitrate_keeps {P : Hall → Prop} {now : Clock} (step : ∀ h g, h.handOut now = some g → P h → P g) {h : Hall}
    (start : P h) : P (h.arbitrate now) := by
  have many : ∀ (k : Nat) (h : Hall), P h → P (h.handOuts now k) := by
    intro k
    induction k with
    | zero => exact fun _ p => p
    | succ k ih =>
      intro h p
      unfold Hall.handOuts
      split
      next g out => exact ih g (step h g out p)
      · exact p
  exact many 16 h start

/-- A seat is handed a slot on a floor that is not mute-active, so that its entry begins without the priority mute. -/
theorem Hall.handOut_unmuted {now : Clock} {h g : Hall} {f : FloorId} (k : h.handOut now = some g)
    (open_ : ∀ e ∈ (h.floor f).speakers, e.priorityMute = false) : ∀ e ∈ (g.floor f).speakers, e.priorityMute = false := by
  unfold Hall.handOut at k
  split at k
  next slot x _ picked =>
    obtain ⟨w, -, rfl⟩ := Option.map_eq_some_iff.mp k
    obtain ⟨-, -, -, -, unmuted, -⟩ := Floor.waits_iff.mp (Hall.nextWaiting_waits picked)
    rw [Hall.floor_of_upd (Hall.grant_floors now h x w.seat slot)]
    split
    next same =>
      subst same
      intro e m
      obtain old | fresh := List.mem_append.mp m
      · exact open_ e old
      · obtain rfl := List.mem_singleton.mp fresh
        simp [Hall.begun, unmuted]
    · exact open_
  · cases k

/-! ## Grants at the host's word (04 R65, R79) -/

/-- The timer of a granted turn (05 R92, R93). -/
theorem startTimer_eq (b : Bank) (carried : Option Nat) (mute : Bool) :
    startTimer b carried mute = if b.turnLimit = 0 then none else some
      { loaded := min (carried.getD b.turnLimit) b.turnLimit, remaining := min (carried.getD b.turnLimit) b.turnLimit
        ticks := 0, mode := b.turnMode, lead := b.lead
        phase := if b.lead ≠ 0 ∧ min (carried.getD b.turnLimit) b.turnLimit ≤ b.lead then .lastPeriod else .normal
        overrun := 0, running := !mute } := by
  unfold startTimer loadedValue
  split <;> rfl

theorem Hall.begun_delegate {h : Hall} {n : SeatId} {r : Seat} (held : h.seat? n = some r) (role : r.role = .delegate)
    (now : Clock) (f : FloorId) (k : SlotId) : h.begun now f n k =
      ⟨n, .delegate, k, now, (h.floor f).muteActive, false, startTimer (h.floor f).bank
        (((h.floor f).queue.find? fun w => w.seat = n).bind (·.remaining)) (h.floor f).muteActive⟩ := by
  simp [Hall.begun, held, Seat.speakerKind, role]

theorem Hall.waitsOnlyOn_floor (h : Hall) (f : FloorId) (n : SeatId) : (h.waitsOnlyOn f n).floor f = h.floor f := by
  simp [Hall.waitsOnlyOn, Hall.floor]

theorem Hall.begun_waitsOnlyOn (now : Clock) (h : Hall) (f : FloorId) (n : SeatId) (k : SlotId) :
    (h.waitsOnlyOn f n).begun now f n k = h.begun now f n k := by
  unfold Hall.begun
  rw [Hall.waitsOnlyOn_floor]
  rfl

theorem Hall.freeSlot_eq {h : Hall} {k : SlotId} (free : h.slots.get k = none) (lowest : ∀ j, j < k → h.slots.get j ≠ none) :
    h.freeSlot = some k :=
  Tbl.lowest_eq (by simp [free]) fun j lt => by simpa [Option.isSome_iff_ne_none] using lowest j lt

/-- The entry that a grant begins stands through the arbiter's run, and its slot is HELD for it. -/
theorem Hall.grant_stands (now : Clock) (h : Hall) (f : FloorId) (n : SeatId) (k : SlotId) :
    h.begun now f n k ∈ (((h.grant now f n k).arbitrate now).floor f).speakers ∧
      ((h.grant now f n k).arbitrate now).slots.get k = some ⟨n, f, !(h.begun now f n k).priorityMute⟩ := by
  have handed := Handed.arbitrate now (h.grant now f n k)
  obtain ⟨l, q, record, -⟩ := handed.rest f
  constructor
  · rw [record, Hall.floor_of_upd (Hall.grant_floors now h f n k), if_pos rfl]
    simp
  · exact handed.slots k _ (by rw [Hall.grant_slots, Tbl.get_set_self])

/-! ## Queue entries placed and removed (04 R62) -/

theorem Hall.queueReport_reports (h : Hall) (f : FloorId) : (h.queueReport f).stands (.queueChanged f) = true :=
  (Steady.recomposeQueue _ f).stands (by simp [Hall.stands, Hall.raise])

theorem Hall.joinQueue_reports (h : Hall) (f : FloorId) (k : Nat) (e : Waiting) :
    (h.joinQueue f k e).stands (.queueChanged f) = true :=
  (Steady.recompose _ _).stands (Hall.queueReport_reports _ f)

theorem Hall.removeEntry_reports (h : Hall) (f : FloorId) (n : SeatId) (c : RemovalCause) :
    (h.removeEntry f n c).stands (.queueChanged f) = true :=
  (Steady.recompose _ n).stands (Hall.queueReport_reports _ f)

/-- The whole queue of a floor removed with one cause (04 R76, R82). -/
def Hall.emptyQueue (h : Hall) (f : FloorId) (c : RemovalCause) : Hall :=
  h.removeEntries f ((h.floor f).queue.map (·.seat)) c

theorem Hall.emptyQueue_queue (h : Hall) (f : FloorId) (c : RemovalCause) : ((h.emptyQueue f c).floor f).queue = [] := by
  rw [Hall.emptyQueue, (h.removeEntries_lists f _ c).2, List.filter_eq_nil_iff]
  exact fun w m => by simpa using ⟨w, m, rfl⟩

theorem Hall.emptyQueue_lastRemoval {h : Hall} {f : FloorId} {w : Waiting} (last : (h.floor f).queue.getLast? = some w)
    (c : RemovalCause) : ((h.emptyQueue f c).floor f).lastRemoval = some (w.seat, c) :=
  h.removeEntries_lastRemoval f _ c (by rw [List.getLast?_map, last, Option.map_some])

theorem Hall.emptyQueue_turns (h : Hall) (f : FloorId) (c : RemovalCause) : (h.emptyQueue f c).turns = h.turns :=
  foldl_keeps (fun g n => Turns.removeEntry g f n c) _ h

/-! ## Mutes recomputed (03 R58, 04 R76, R77) -/

/-- What every entry has whose mutes are set, and every entry that needs no setting, all entries of the list have once each
has been visited. -/
theorem Hall.setMutes_each {x : FloorId} {mute : Speaker → Bool} {Q : Speaker → Prop} (es : List Speaker)
    (set : ∀ e ∈ es, ∀ y : Speaker, e.priorityMute ≠ mute e → y.seat = e.seat → Q (y.withMutes (mute e) e.linkMute))
    (stay : ∀ e ∈ es, e.priorityMute = mute e → Q e) (h : Hall) (start : ∀ y ∈ (h.floor x).speakers, y ∈ es ∨ Q y) :
    ∀ y ∈ ((es.foldl (fun g e => g.setMutes x e (mute e) e.linkMute) h).floor x).speakers, Q y := by
  induction es generalizing h with
  | nil => exact fun y m => (start y m).resolve_left List.not_mem_nil
  | cons e es ih =>
    refine ih (fun d m => set d (List.mem_cons_of_mem e m)) (fun d m => stay d (List.mem_cons_of_mem e m)) _ ?_
    have here : e ∈ e :: es := List.mem_cons_self
    -- an entry that the visit of e leaves alone is among those still to be visited, or has Q
    have left : ∀ y ∈ (h.floor x).speakers, y ≠ e → y ∈ es ∨ Q y := fun y m ne =>
      (start y m).imp_left fun k => (List.mem_cons.mp k).resolve_left ne
    rw [Hall.setMutes_floor]
    split
    next acts =>
      have changes : e.priorityMute ≠ mute e := fun k => acts.2 ⟨k, rfl⟩
      intro y m
      obtain ⟨z, mz, rfl⟩ := List.mem_map.mp m
      split
      next seat => exact .inr (set e here z changes seat)
      next seat => exact left z mz fun k => seat (congrArg _ k)
    next rests =>
      have same : e.priorityMute = mute e := by
        by_contra changes
        exact rests ⟨rfl, fun k => changes k.1⟩
      intro y m
      by_cases k : y = e
      · exact .inr (k ▸ stay e here same)
      · exact left y m k

/-- The priority mute that a recomputation gives an entry of the floor. -/
def Floor.muteFor (x : Floor) (e : Speaker) : Bool :=
  if x.muteActive then decide (e.kind = .delegate) || e.priorityMute else false

theorem Hall.remute_eq (h : Hall) (x : FloorId) : h.remute x =
    (h.floor x).speakers.foldl (fun g e => g.setMutes x e ((h.floor x).muteFor e) e.linkMute) h := rfl

/-- On a mute-active floor every delegate is muted (04 R76). -/
theorem Hall.remute_mutes {h : Hall} {x : FloorId} (active : (h.floor x).muteActive = true) :
    ∀ e ∈ ((h.remute x).floor x).speakers, e.kind = .delegate → e.priorityMute = true := by
  have given : ∀ e, (h.floor x).muteFor e = (decide (e.kind = .delegate) || e.priorityMute) := fun e => if_pos active
  rw [Hall.remute_eq]
  refine Hall.setMutes_each _ (fun e _ y changes _ _ => ?_) (fun e _ same delegate => ?_) h fun y m => .inl m
  · -- a recomputation that changes the flag of an entry sets it
    show (h.floor x).muteFor e = true
    rw [given] at changes ⊢
    cases mute : e.priorityMute with
    | true => exact Bool.or_true _
    | false => simpa [mute] using changes
  · rw [same, given, delegate]
    rfl

/-- On any other floor every priority mute is lifted, and the link mutes stay (04 R77). -/
theorem Hall.remute_lifts {h : Hall} {x : FloorId} (idle : (h.floor x).muteActive = false) :
    ∀ d ∈ ((h.remute x).floor x).speakers, d.priorityMute = false ∧
      ∃ e ∈ (h.floor x).speakers, e.seat = d.seat ∧ e.linkMute = d.linkMute := by
  have given : ∀ e, (h.floor x).muteFor e = false := fun e => if_neg (by simp [idle])
  rw [Hall.remute_eq]
  exact Hall.setMutes_each _ (fun e m y _ seat => ⟨given e, e, m, seat.symm, rfl⟩)
    (fun e m same => ⟨same.trans (given e), e, m, rfl, rfl⟩) h fun y m => .inl m

/-- The mutes of a floor lifted: each slot is open exactly where its entry has no link mute (04 R64, R77). -/
theorem Hall.Listed.remute_opens {h : Hall} (l : h.Listed) {x : FloorId} (idle : (h.floor x).muteActive = false)
    {e : Speaker} (m : e ∈ (h.floor x).speakers) :
    (h.remute x).slots.get e.slot = some ⟨e.seat, x, !e.linkMute⟩ := by
  have keys := h.remute_speakers x x (fun y => (y.seat, y.slot)) fun _ _ _ => rfl
  obtain ⟨d, md, same⟩ := List.mem_map.mp (keys ▸ List.mem_map_of_mem m :
    (e.seat, e.slot) ∈ ((h.remute x).floor x).speakers.map fun y => (y.seat, y.slot))
  obtain ⟨seat, slot⟩ := Prod.mk.inj same
  obtain ⟨lifted, e', me', seat', link⟩ := Hall.remute_lifts idle d md
  obtain rfl := l.speaker_unique me' m (seat'.trans seat)
  rw [← slot, (l.remute x).held x d md, seat, Speaker.muted, lifted, ← link, Bool.false_or]

/-! ## Delegate turns closed for priority (04 R76) -/

/-- With no swap pending, turns ended one after another are their steps 1 to 5. -/
theorem Hall.endTurns_steady (now : Clock) {x : FloorId} (c : TurnCause) (ns : List SeatId) {h : Hall}
    (settled : (h.floor x).swapPending = false) :
    ns.foldl (fun g n => g.endTurn now x n c) h = h.closeTurns now x ns c := by
  induction ns generalizing h with
  | nil => rfl
  | cons n ns ih =>
    have closed : ((h.closeTurn now x n c false).floor x).swapPending = false := by
      rw [(LocalTo.closeTurn now h x n c false).floor_eq]
      exact settled
    rw [List.foldl_cons, Hall.endTurn_steady now n c settled, ih closed]
    rfl

/-- Each of several turns ended is written as its seat's last turn (04 R66 step 3). -/
theorem Hall.Listed.closeTurns_writes {h : Hall} (l : h.Listed) (now : Clock) {x : FloorId} {e : Speaker} (c : TurnCause)
    {ns : List SeatId} (m : e ∈ (h.floor x).speakers) (closed : e.seat ∈ ns) (held : (h.seat? e.seat).isSome = true) :
    (h.closeTurns now x ns c).turns.get e.seat = some (e.ended now x c) := by
  induction ns generalizing h with
  | nil => exact absurd closed List.not_mem_nil
  | cons n ns ih =>
    by_cases first : e.seat = n
    · subst first
      refine ((LocalTo.closeTurns now _ x ns c).still e.seat fun d md => ?_).trans
        (Hall.closeTurn_writes now c false (l.find_speaker m) held)
      rw [Hall.closeTurn_speakers] at md
      simpa using List.of_mem_filter md
    · refine ih (l.closeTurn now x n c) ?_ ((List.mem_cons.mp closed).resolve_left first)
        ((Steady.closeTurn now h x n c false).isSome held)
      rw [Hall.closeTurn_speakers]
      exact List.mem_filter.mpr ⟨m, by simpa using first⟩

theorem Floor.mem_delegateSeats {x : Floor} {e : Speaker} (m : e ∈ x.speakers) (kind : e.kind = .delegate) :
    e.seat ∈ x.delegateSeats :=
  List.mem_map_of_mem (List.mem_filter.mpr ⟨m, by simpa using kind⟩)

/-- A seat speaks once, so that the entries of no delegate's seat are the chairs. -/
theorem Hall.Listed.filter_delegateSeats {h : Hall} (l : h.Listed) (x : FloorId) :
    (h.floor x).speakers.filter (fun e => e.seat ∉ (h.floor x).delegateSeats) =
      (h.floor x).speakers.filter fun e => e.kind = .chair := by
  refine List.filter_congr fun e m => decide_eq_decide.mpr ⟨fun out => ?_, fun chair delegate => ?_⟩
  · cases kind : e.kind with
    | delegate => exact absurd (Floor.mem_delegateSeats m kind) out
    | chair => rfl
  · obtain ⟨d, md, seat⟩ := List.mem_map.mp delegate
    obtain ⟨md, kind⟩ := List.mem_filter.mp md
    rw [l.speaker_unique md m seat, chair] at kind
    cases of_decide_eq_true kind

/-- The delegates' turns of a floor ended PRIORITY_CLOSE. -/
def Hall.closeDelegates (now : Clock) (h : Hall) (x : FloorId) : Hall :=
  h.closeTurns now x (h.floor x).delegateSeats .priorityClose

theorem Hall.priorityClose_steady (now : Clock) {h : Hall} {x : FloorId} (settled : (h.floor x).swapPending = false) :
    h.priorityClose now x = h.closeDelegates now x :=
  Hall.endTurns_steady now .priorityClose _ settled

/-- The turns of a floor's delegates ended, and its queue emptied or not: what both closing actions do (04 R76). -/
theorem Hall.priorityAct_closes (now : Clock) {h : Hall} {x : FloorId} (closes : (h.floor x).bank.action ≠ .muteWhileHeld)
    (settled : (h.floor x).swapPending = false) : h.priorityAct now x =
      if (h.floor x).bank.action = .closeAll then h.closeDelegates now x
      else (h.closeDelegates now x).emptyQueue x .cleared := by
  unfold Hall.priorityAct
  rw [Hall.priorityClose_steady now settled]
  cases action : (h.floor x).bank.action with
  | muteWhileHeld => exact absurd action closes
  | closeAll => rfl
  | closeAndClear => rfl

theorem Hall.closeDelegates_queue (now : Clock) (h : Hall) (x : FloorId) :
    ((h.closeDelegates now x).floor x).queue = (h.floor x).queue :=
  (h.closeTurns_lists now x _ _).2

/-- The chairs stay and every delegate's turn ends. -/
theorem Hall.Listed.priorityAct_speakers {h : Hall} (l : h.Listed) (now : Clock) {x : FloorId}
    (closes : (h.floor x).bank.action ≠ .muteWhileHeld) (settled : (h.floor x).swapPending = false) :
    ((h.priorityAct now x).floor x).speakers = (h.floor x).speakers.filter fun e => e.kind = .chair := by
  have closed : ((h.closeDelegates now x).floor x).speakers = (h.floor x).speakers.filter fun e => e.kind = .chair :=
    (h.closeTurns_lists now x _ _).1.trans (l.filter_delegateSeats x)
  rw [Hall.priorityAct_closes now closes settled]
  split
  · exact closed
  · exact ((h.closeDelegates now x).removeEntries_lists x _ _).1.trans closed

theorem Hall.Listed.priorityAct_writes {h : Hall} (l : h.Listed) (now : Clock) {x : FloorId}
    (closes : (h.floor x).bank.action ≠ .muteWhileHeld) (settled : (h.floor x).swapPending = false) {e : Speaker}
    (m : e ∈ (h.floor x).speakers) (kind : e.kind = .delegate) (held : (h.seat? e.seat).isSome = true) :
    (h.priorityAct now x).turns.get e.seat = some (e.ended now x .priorityClose) := by
  have written := l.closeTurns_writes now .priorityClose m (Floor.mem_delegateSeats m kind) held
  rw [Hall.priorityAct_closes now closes settled]
  split
  · exact written
  · rw [Hall.emptyQueue_turns]
    exact written

theorem Hall.priorityAct_closeAll (now : Clock) {h : Hall} {x : FloorId} (action : (h.floor x).bank.action = .closeAll)
    (settled : (h.floor x).swapPending = false) : ((h.priorityAct now x).floor x).queue = (h.floor x).queue := by
  rw [Hall.priorityAct_closes now (by simp [action]) settled, if_pos action, Hall.closeDelegates_queue]

theorem Hall.priorityAct_closeAndClear (now : Clock) {h : Hall} {x : FloorId}
    (action : (h.floor x).bank.action = .closeAndClear) (settled : (h.floor x).swapPending = false) :
    ((h.priorityAct now x).floor x).queue = [] ∧ ∀ w, (h.floor x).queue.getLast? = some w →
      ((h.priorityAct now x).floor x).lastRemoval = some (w.seat, .cleared) := by
  rw [Hall.priorityAct_closes now (by simp [action]) settled, if_neg (by simp [action])]
  refine ⟨Hall.emptyQueue_queue _ x _, fun w last => Hall.emptyQueue_lastRemoval ?_ _⟩
  rwa [Hall.closeDelegates_queue]

theorem Hall.priorityAct_muteWhileHeld (now : Clock) {h : Hall} {x : FloorId}
    (action : (h.floor x).bank.action = .muteWhileHeld) : h.priorityAct now x = h.remute x := by
  rw [Hall.priorityAct, action]

namespace LocalTo

variable {x : FloorId} {h g : Hall}

/-- With no swap pending, the priority action reaches its own floor alone. -/
theorem priorityAct (now : Clock) (settled : (h.floor x).swapPending = false) : LocalTo x h (h.priorityAct now x) := by
  by_cases action : (h.floor x).bank.action = .muteWhileHeld
  · rw [Hall.priorityAct_muteWhileHeld now action]
    exact remute h x
  · rw [Hall.priorityAct_closes now action settled]
    have closed : LocalTo x h (h.closeDelegates now x) := closeTurns now h x _ _
    split
    · exact closed
    · exact closed.trans (removeEntries _ x _ _)

theorem liftIfEmpty (h : Hall) (x : FloorId) : LocalTo x h (h.liftIfEmpty x) := by
  unfold Hall.liftIfEmpty
  split
  · exact refl x h
  · exact remute h x

theorem requestHolds (k : LocalTo x h g) : (g.floor x).requestHolds = (h.floor x).requestHolds := by
  rw [k.floor_eq]

theorem muteActive (k : LocalTo x h g) : (g.floor x).muteActive = (h.floor x).muteActive := by
  rw [k.floor_eq]
  rfl

end LocalTo

/-! ## The host's own hold (04 R78) -/

/-- REQUEST joins or leaves the holders of a floor. -/
def Hall.setRequest (h : Hall) (f : FloorId) (b : Bool) : Hall :=
  h.updFloor f fun x => { x with requestHolds := b }

theorem Hall.setRequest_floor (h : Hall) (f : FloorId) (b : Bool) :
    (h.setRequest f b).floor f = { h.floor f with requestHolds := b } := by
  rw [Hall.setRequest, Hall.floor_updFloor, if_pos rfl]

theorem Machine.SpeechInv.setRequest {h : Hall} (i : SpeechInv h) (f : FloorId) (b : Bool) :
    SpeechInv (h.setRequest f b) :=
  i.updFloor f rfl rfl rfl

/-- A hand-out keeps the holders of every floor and the host's own hold. -/
theorem Hall.arbitrate_holders (now : Clock) (h : Hall) (f : FloorId) :
    ((h.arbitrate now).floor f).requestHolds = (h.floor f).requestHolds ∧
      ((h.arbitrate now).floor f).holders = (h.floor f).holders := by
  obtain ⟨l, q, record, -⟩ := (Handed.arbitrate now h).rest f
  rw [record]
  exact ⟨rfl, rfl⟩

end Sys2Proof

namespace Sys2Proof.Machine

@[simp] theorem spoken_hall (w : World) (h : Hall) : (spoken w h).hall = h.arbitrate w.clock := rfl

/-! ## GRANT -/

theorem grantable_delegate {h : Hall} {f : FloorId} {n : SeatId} {r : Seat} (role : r.role = .delegate)
    (at_ : h.floorOf r = some f) (link : r.link = .reachable) (silent : h.speaks n = false)
    (badge : r.badge.isSome = true ∨ (h.floor f).bank.badgeRequired = false) : h.grantable f n r = true := by
  simpa [Hall.grantable, role, at_, Seat.reachable, link, silent] using badge

theorem grantSeat_below {w : World} {f : FloorId} {n : SeatId} {r : Seat} {k : SlotId} {d : Bool}
    (fit : w.hall.grantable f n r = true) (room : (w.hall.floor f).delegates < (w.hall.floor f).bank.limit)
    (free : w.hall.freeSlot = some k) : grantSeat w f n r d =
      ⟨spoken w ((w.hall.waitsOnlyOn f n).grant w.clock f n k), .ok, .granted k⟩ := by
  simp [grantSeat, fit, Nat.not_le.mpr room, free]

theorem exec_grant {fb : Byte} {seat : Half} {f : FloorId} {n : SeatId} {r : Seat} {k : SlotId} {s : State} (h : s.takes)
    (hf : fb.toNat = f.val + 1) (hn : seat.toNat = n.val + 1) (live : (s.world.hall.floor f).state = .live)
    (held : s.world.hall.seat? n = some r) (fit : s.world.hall.grantable f n r = true)
    (room : (s.world.hall.floor f).delegates < (s.world.hall.floor f).bank.limit)
    (free : s.world.hall.freeSlot = some k) : exec (.grant fb seat 1#8) s = .next (s.answered 7 0x40#8
      ⟨spoken s.world ((s.world.hall.waitsOnlyOn f n).grant s.world.clock f n k), .ok, .granted k⟩) := by
  have named : grantSeatOf seat = some (some n) := by
    rw [grantSeatOf, if_neg (by omega), numbered_eq hn]
    rfl
  have keeps : displaceOf 1#8 = some false := rfl
  show execGrant fb seat 1#8 s = _
  refine request_answers h ?_
  rw [named, keeps]
  simp only [withLive_eq hf live, grantNamed, held, Option.map_some]
  exact grantSeat_below fit room free

/-- Settles O43: the entry is the one the grant begins (`Hall.begun_delegate`, `startTimer_eq`), and the arbiter's run leaves
it and its slot as they stand (`Hall.grant_stands`). -/
theorem grant : Obligations.Grant := by
  intro fb seat f n r slot s h hf hn live held role at_ link silent badge room free lowest
  have run := exec_grant h hf hn live held (grantable_delegate role at_ link silent badge) room
    (Hall.freeSlot_eq free lowest)
  obtain ⟨speaks, holds⟩ := Hall.grant_stands s.world.clock (s.world.hall.waitsOnlyOn f n) f n slot
  rw [Hall.begun_waitsOnlyOn, Hall.begun_delegate held role] at speaks holds
  exact ⟨_, _, _, _, run, speaks, rfl, rfl, rfl, rfl, rfl, rfl, rfl, rfl, startTimer_eq _ _ _, holds,
    (answered_port _ _ _ _).1⟩

/-! ## QUEUE_INSERT, QUEUE_REMOVE and QUEUE_CLEAR -/

theorem insertSeatAt_admitted {w : World} {f : FloorId} {n : SeatId} {r : Seat} {pos : Nat} (role : r.role = .delegate)
    (at_ : w.hall.floorOf r = some f) (link : r.link = .reachable)
    (badge : r.badge.isSome = true ∨ (w.hall.floor f).bank.badgeRequired = false) (silent : w.hall.speaks n = false)
    (idle : w.hall.queued n = false) (near : pos ≤ (w.hall.floor f).queue.length + 1)
    (room : (w.hall.floor f).queue.length < (w.hall.floor f).bank.cap) (pool : 0 < w.hall.poolFree) :
    insertSeatAt w f n r pos =
      done (spoken w (w.hall.joinQueue f (pos - 1) ⟨n, w.clock, .hostInsert, none, false⟩)) := by
  have fit : w.hall.insertable f r = true := by simpa [Hall.insertable, role, at_, link] using badge
  have present : r.inGrace = false := by rw [Seat.inGrace, link]
  simp [insertSeatAt, fit, silent, idle, present, Nat.not_lt.mpr near, Nat.not_le.mpr room, Nat.ne_of_gt pool]

theorem exec_queueInsert {fb pos : Byte} {seat : Half} {f : FloorId} {n : SeatId} {r : Seat} {s : State} (h : s.takes)
    (hf : fb.toNat = f.val + 1) (hn : seat.toNat = n.val + 1) (live : (s.world.hall.floor f).state = .live)
    (held : s.world.hall.seat? n = some r) (placed : 1 ≤ pos.toNat) : exec (.queueInsert fb seat pos) s =
      .next (s.answered 7 0x42#8 (insertSeatAt s.world f n r pos.toNat)) := by
  show execQueueInsert fb seat pos s = _
  refine request_answers h ?_
  simp [numbered_eq hf, numbered_eq hn, Nat.ne_of_gt placed, Floor.isLive, live, held]

theorem exec_queueRemove {seat : Half} {f : FloorId} {n : SeatId} {r : Seat} {s : State} (h : s.takes)
    (hn : seat.toNat = n.val + 1) (held : s.world.hall.seat? n = some r) (waits : s.world.hall.queueFloor n = some f) :
    exec (.queueRemove seat) s =
      .next (s.answered 5 0x43#8 (done (spoken s.world (s.world.hall.removeEntry f n .removed)))) := by
  show execQueueRemove seat s = _
  refine request_answers h ?_
  rw [withSeat_eq hn held, waits]

theorem exec_queueClear {fb : Byte} {f : FloorId} {s : State} (h : s.takes) (hf : fb.toNat = f.val + 1)
    (live : (s.world.hall.floor f).state = .live) (some_ : (s.world.hall.floor f).queue ≠ []) :
    exec (.queueClear fb) s =
      .next (s.answered 4 0x44#8 (done (spoken s.world (s.world.hall.emptyQueue f .cleared)))) := by
  show execQueueClear fb s = _
  refine request_answers h ?_
  rw [withLive_eq hf live, if_neg (by simpa using some_)]
  rfl

/-- Settles O45: a floor with auto advance OFF, or with an empty queue, does not wait, so that the arbiter's run leaves its
record as the request made it. -/
theorem queueRequests : Obligations.QueueRequests := by
  refine ⟨?_, ?_, ?_⟩
  · intro fb pos seat f n r s h hf hn live manual held role at_ link badge silent idle placed near room pool
    have run := exec_queueInsert h hf hn live held placed
    rw [insertSeatAt_admitted role at_ link badge silent idle near room pool] at run
    have record := Hall.floor_of_upd (Hall.joinQueue_floors s.world.hall f (pos.toNat - 1)
      ⟨n, s.world.clock, .hostInsert, none, false⟩) f
    rw [if_pos rfl] at record
    refine ⟨_, run, ?_⟩
    rw [State.answered_world, done_world, spoken_hall,
      Hall.arbitrate_floor _ (Floor.waits_of_manual (by rw [record]; exact manual)), record]
    exact ⟨rfl, (Steady.arbitrate _ _).stands (Hall.joinQueue_reports _ _ _ _), (answered_port _ _ _ _).1⟩
  · intro seat f n r s h hn held waits manual
    have record := Hall.floor_of_upd (Hall.removeEntry_floors s.world.hall f n .removed) f
    rw [if_pos rfl] at record
    refine ⟨_, exec_queueRemove h hn held waits, ?_⟩
    rw [State.answered_world, done_world, spoken_hall,
      Hall.arbitrate_floor _ (Floor.waits_of_manual (by rw [record]; exact manual)), record]
    exact ⟨rfl, rfl, (Steady.arbitrate _ _).stands (Hall.removeEntry_reports _ _ _ _), (answered_port _ _ _ _).1⟩
  · intro fb f s h hf live some_
    have emptied := s.world.hall.emptyQueue_queue f .cleared
    have last := List.getLast?_eq_some_getLast some_
    refine ⟨_, exec_queueClear h hf live some_, ?_⟩
    rw [State.answered_world, done_world, spoken_hall, Hall.arbitrate_floor _ (Floor.waits_of_empty emptied), last]
    exact ⟨emptied, Hall.emptyQueue_lastRemoval last .cleared, (answered_port _ _ _ _).1⟩

/-! ## FLOOR_PRIORITY -/

/-- FLOOR_PRIORITY(ON) up to the arbiter's run. -/
def hostHolds (now : Clock) (h : Hall) (f : FloorId) : Hall :=
  (h.setRequest f true).priorityAct now f

/-- FLOOR_PRIORITY(OFF), where the host holds priority, up to the arbiter's run. -/
def hostLets (h : Hall) (f : FloorId) : Hall :=
  (h.setRequest f false).liftIfEmpty f

theorem exec_floorPriorityOn {fb : Byte} {f : FloorId} {s : State} (h : s.takes) (hf : fb.toNat = f.val + 1)
    (live : (s.world.hall.floor f).state = .live) : exec (.floorPriorityOn fb) s =
      .next (s.answered 5 0x45#8 (done (spoken s.world (hostHolds s.world.clock s.world.hall f)))) := by
  show execFloorPriorityOn fb s = _
  exact request_answers h (withLive_eq hf live _)

theorem exec_floorPriorityOff {fb : Byte} {f : FloorId} {s : State} (h : s.takes) (hf : fb.toNat = f.val + 1)
    (live : (s.world.hall.floor f).state = .live) : exec (.floorPriorityOff fb) s =
      .next (s.answered 5 0x45#8 (done (if (s.world.hall.floor f).requestHolds then
        spoken s.world (hostLets s.world.hall f) else s.world))) := by
  show execFloorPriorityOff fb s = _
  refine request_answers h ((withLive_eq hf live _).trans ?_)
  split <;> rfl

theorem hostLets_holders (h : Hall) (f : FloorId) :
    ((hostLets h f).floor f).requestHolds = false ∧ ((hostLets h f).floor f).holders = (h.floor f).holders := by
  have k := LocalTo.liftIfEmpty (h.setRequest f false) f
  rw [hostLets, k.requestHolds, k.holders, Hall.setRequest_floor]
  exact ⟨rfl, rfl⟩

theorem hostHolds_mutes {now : Clock} {h : Hall} {f : FloorId} (action : (h.floor f).bank.action = .muteWhileHeld) :
    ((hostHolds now h f).floor f).requestHolds = true ∧ ((hostHolds now h f).floor f).muteActive = true ∧
      ∀ e ∈ ((hostHolds now h f).floor f).speakers, e.kind = .delegate → e.priorityMute = true := by
  have record := h.setRequest_floor f true
  have same : ((h.setRequest f true).floor f).bank.action = .muteWhileHeld := by rwa [record]
  have held : ((h.setRequest f true).floor f).held = true := by simp [Floor.held, record]
  have active : ((h.setRequest f true).floor f).muteActive = true := by rw [Floor.muteActive, same, held]; rfl
  have k := LocalTo.remute (h.setRequest f true) f
  rw [hostHolds, Hall.priorityAct_muteWhileHeld now same, k.requestHolds, k.muteActive]
  exact ⟨by rw [record], active, Hall.remute_mutes active⟩

theorem hostHolds_keeps (now : Clock) {h : Hall} {f : FloorId} (settled : (h.floor f).swapPending = false) :
    ((hostHolds now h f).floor f).requestHolds = true ∧ ((hostHolds now h f).floor f).bank = (h.floor f).bank := by
  have record := h.setRequest_floor f true
  have k : LocalTo f (h.setRequest f true) (hostHolds now h f) := LocalTo.priorityAct now (by rwa [record])
  rw [k.requestHolds, k.bank, record]
  exact ⟨rfl, rfl⟩

theorem hostHolds_closes {now : Clock} {h : Hall} {f : FloorId} (i : SpeechInv h)
    (closes : (h.floor f).bank.action ≠ .muteWhileHeld) (settled : (h.floor f).swapPending = false) :
    ((hostHolds now h f).floor f).speakers = (h.floor f).speakers.filter (fun e => e.kind = .chair) ∧
      ∀ e ∈ (h.floor f).speakers, e.kind = .delegate → (h.seat? e.seat).isSome = true →
        (hostHolds now h f).turns.get e.seat = some (e.ended now f .priorityClose) := by
  have listed := (i.setRequest f true).listed
  have record := h.setRequest_floor f true
  have speakers : ((h.setRequest f true).floor f).speakers = (h.floor f).speakers := by rw [record]
  have closes' : ((h.setRequest f true).floor f).bank.action ≠ .muteWhileHeld := by rwa [record]
  have settled' : ((h.setRequest f true).floor f).swapPending = false := by rwa [record]
  rw [← speakers]
  exact ⟨listed.priorityAct_speakers now closes' settled', fun e m kind held =>
    listed.priorityAct_writes now closes' settled' m kind ((Steady.updFloor h f _).isSome held)⟩

theorem hostHolds_closeAll {now : Clock} {h : Hall} {f : FloorId} (settled : (h.floor f).swapPending = false)
    (action : (h.floor f).bank.action = .closeAll) : ((hostHolds now h f).floor f).queue = (h.floor f).queue := by
  have record := h.setRequest_floor f true
  rw [hostHolds, Hall.priorityAct_closeAll now (by rwa [record]) (by rwa [record]), record]

theorem hostHolds_closeAndClear {now : Clock} {h : Hall} {f : FloorId} (settled : (h.floor f).swapPending = false)
    (action : (h.floor f).bank.action = .closeAndClear) : ((hostHolds now h f).floor f).queue = [] ∧
      ∀ w, (h.floor f).queue.getLast? = some w →
        ((hostHolds now h f).floor f).lastRemoval = some (w.seat, .cleared) := by
  have record := h.setRequest_floor f true
  have cleared := Hall.priorityAct_closeAndClear now (h := h.setRequest f true) (x := f) (by rwa [record]) (by rwa [record])
  rwa [record] at cleared

theorem hostHolds_steady (now : Clock) (h : Hall) (f : FloorId) : Steady h (hostHolds now h f) :=
  (Steady.updFloor h f _).trans (Steady.priorityAct now _ f)

/-- Where the last hold goes, every priority mute is lifted, and each slot's gate follows the link mute alone. -/
theorem hostLets_lifts {h : Hall} {f : FloorId} (i : SpeechInv h) (last : (h.floor f).holders = []) :
    (∀ e ∈ ((hostLets h f).floor f).speakers, e.priorityMute = false) ∧
      ∀ e ∈ (h.floor f).speakers, (hostLets h f).slots.get e.slot = some ⟨e.seat, f, !e.linkMute⟩ := by
  have record := h.setRequest_floor f false
  have released : ((h.setRequest f false).floor f).held = false := by simp [Floor.held, record, last]
  have idle : ((h.setRequest f false).floor f).muteActive = false := by simp [Floor.muteActive, released]
  rw [hostLets, Hall.liftIfEmpty, if_neg (by simp [released])]
  exact ⟨fun d m => (Hall.remute_lifts idle d m).1,
    fun e m => (i.setRequest f false).listed.remute_opens idle (by rwa [record])⟩

/-- Settles O46. Of the action applied: a muted floor, or one with auto advance OFF, does not wait, so that the arbiter's run
leaves its record (`Hall.arbitrate_floor`). Of the mutes lifted: the entries the run begins on the floor are unmuted
(`Hall.handOut_unmuted`), and it leaves every slot that is HELD. -/
theorem floorPriority : Obligations.FloorPriority := by
  refine ⟨?_, ?_, ?_, ?_⟩
  · intro fb f s h hf live action
    obtain ⟨holds, active, muted⟩ := hostHolds_mutes (now := s.world.clock) action
    refine ⟨_, exec_floorPriorityOn h hf live, ?_⟩
    rw [State.answered_world, done_world, spoken_hall, Hall.arbitrate_floor _ (Floor.waits_of_muted active)]
    exact ⟨holds, muted, (answered_port _ _ _ _).1⟩
  · intro fb f s h hf live i closes settled manual
    obtain ⟨holds, bank⟩ := hostHolds_keeps s.world.clock settled
    obtain ⟨chairs, writes⟩ := hostHolds_closes (now := s.world.clock) i closes settled
    refine ⟨_, exec_floorPriorityOn h hf live, ?_⟩
    rw [State.answered_world, done_world, spoken_hall,
      Hall.arbitrate_floor _ (Floor.waits_of_manual (by rw [bank]; exact manual))]
    refine ⟨holds, chairs, fun e r m kind held => ?_, hostHolds_closeAll settled, hostHolds_closeAndClear settled,
      (answered_port _ _ _ _).1⟩
    refine ((hostHolds_steady _ _ f).trans (Steady.arbitrate _ _)).lastTurn held ?_
    rw [Turns.arbitrate]
    exact writes e m kind (by rw [held]; rfl)
  · intro fb f s h hf live
    refine ⟨_, exec_floorPriorityOff h hf live, ?_⟩
    rw [State.answered_world, done_world]
    split
    · obtain ⟨request, holders⟩ := Hall.arbitrate_holders s.world.clock (hostLets s.world.hall f) f
      obtain ⟨absent, kept⟩ := hostLets_holders s.world.hall f
      exact ⟨request.trans absent, holders.trans kept, (answered_port _ _ _ _).1⟩
    next absent => exact ⟨by simpa using absent, rfl, (answered_port _ _ _ _).1⟩
  · intro fb f s h hf live i holds last
    obtain ⟨lifted, gates⟩ := hostLets_lifts i last
    refine ⟨_, exec_floorPriorityOff h hf live, ?_⟩
    rw [State.answered_world, done_world, if_pos holds, spoken_hall]
    exact ⟨Hall.arbitrate_keeps (P := fun g => ∀ e ∈ (g.floor f).speakers, e.priorityMute = false)
        (fun _ _ => Hall.handOut_unmuted) lifted,
      fun e m => (Handed.arbitrate _ _).slots e.slot _ (gates e m)⟩

end Sys2Proof.Machine

/-! PROOFS. The family of chapter 5: the session clock, read by CLOCK_READ (05 R91) and advanced by SESSION_TICK with every
turn timer (05 R89, R94, R96). -/

namespace Sys2Proof

/-! ## The speaking seats of a test -/

/-- A test that no speaker entry meets names no seat. -/
theorem Hall.speakersWhere_eq_nil {h : Hall} {p : Speaker → Bool}
    (fails : ∀ f e, e ∈ (h.floor f).speakers → p e = false) : h.speakersWhere p = [] := by
  simp only [Hall.speakersWhere, Tbl.rows_eq, List.flatMap_eq_nil_iff, List.mem_map, List.map_eq_nil_iff,
    List.filter_eq_nil_iff, Bool.not_eq_true]
  rintro _ ⟨f, -, rfl⟩ e m
  exact fails f e m

/-! ## The tick of the hall (05 R89) -/

/-- The hall once every timer has counted the tick, before any expiry is taken. -/
def Hall.counted (h : Hall) : Hall :=
  (h.count.recomposeAll (h.speakersWhere Speaker.turnsPhase)).recomposeAll (h.seatsWhere Seat.flashEnds)

theorem Hall.tick_eq (now : Clock) (h : Hall) :
    h.tick now = (h.counted.speakersWhere Speaker.timeIsUp).foldl (Hall.timeUpIfDue now) h.counted := rfl

@[simp] theorem Hall.counted_floor (h : Hall) (f : FloorId) : h.counted.floor f = (h.floor f).tick := by
  simp [Hall.counted, Hall.floor, Hall.count]

@[simp] theorem Hall.counted_slots (h : Hall) : h.counted.slots = h.slots := by
  simp [Hall.counted, Hall.count]

@[simp] theorem Hall.counted_channels (h : Hall) : h.counted.channels = h.channels := by
  simp [Hall.counted, Hall.count]

/-- Where no CUT timer comes to zero, the tick takes no expiry. -/
theorem Hall.tick_of_none_due (now : Clock) {h : Hall}
    (none_due : ∀ f e, e ∈ (h.floor f).speakers → e.tick.timeIsUp = false) : h.tick now = h.counted := by
  have silent : h.counted.speakersWhere Speaker.timeIsUp = [] := by
    refine Hall.speakersWhere_eq_nil fun f e m => ?_
    rw [Hall.counted_floor] at m
    obtain ⟨d, listed, rfl⟩ := List.mem_map.mp m
    exact none_due f d listed
  rw [Hall.tick_eq, silent, List.foldl_nil]

/-! ## One tick of a turn timer (05 R94, R96) -/

namespace Timer

variable {t : Timer}

theorem tick_paused (paused : t.running = false) : t.tick = t := by
  simp [Timer.tick, paused]

theorem tick_within_second (running : t.running = true) (early : t.ticks < 9) :
    t.tick = { t with ticks := t.ticks + 1 } := by
  simp [Timer.tick, running, show t.ticks + 1 < 10 by omega]

/-- The tenth tick of a running timer is an elapsed second. -/
theorem tick_tenth (running : t.running = true) (tenth : t.ticks = 9) : t.tick = { t with ticks := 0 }.second := by
  simp [Timer.tick, running, tenth]

theorem second_counts_down (within_limit : t.phase ≠ .overrun) (remains : 1 < t.remaining) :
    t.second = { t with
      remaining := t.remaining - 1
      phase := if t.lead ≠ 0 ∧ t.phase = .normal ∧ t.remaining - 1 = t.lead then .lastPeriod else t.phase } := by
  unfold Timer.second
  split
  next past => exact absurd past within_limit
  · exact if_pos remains

theorem second_overruns (within_limit : t.phase ≠ .overrun) (last : t.remaining = 1) (warn : t.mode = .warn) :
    t.second = { t with remaining := 0, phase := .overrun } := by
  unfold Timer.second
  split
  next past => exact absurd past within_limit
  · rw [if_neg (by omega), warn]

theorem second_counts_overrun (past : t.phase = .overrun) :
    t.second = { t with overrun := min (t.overrun + 1) 65535 } := by
  simp only [Timer.second, past]

end Timer

end Sys2Proof

namespace Sys2Proof.Machine

/-- Settles O16: the answer of a request that is taken, as CLOCK_READ's meaning computes it. -/
theorem clockRead : Obligations.ClockRead := by
  intro s takes
  show execClockRead s = _
  exact request_answers takes rfl

/-- Settles O47: the hall by `Hall.tick_of_none_due`, one turn timer by its branches; the tenth tick is an elapsed second. -/
theorem sessionTick : Obligations.SessionTick := by
  refine ⟨fun s => ⟨_, rfl, rfl⟩, fun s none_due => ⟨_, rfl, ?_⟩, fun t => Timer.tick_paused,
    fun t => Timer.tick_within_second, fun t running tenth within_limit remains => ?_,
    fun t running tenth within_limit last warn => ?_, fun t running tenth past => ?_⟩
  · have hall : (s.world.tick).hall = s.world.hall.counted := Hall.tick_of_none_due _ none_due
    refine ⟨fun f => ?_, (congrArg Hall.slots hall).trans (Hall.counted_slots _),
      (congrArg Hall.channels hall).trans (Hall.counted_channels _)⟩
    exact (congrArg (fun g => Hall.floor g f) hall).trans (Hall.counted_floor _ f)
  · exact (Timer.tick_tenth running tenth).trans (Timer.second_counts_down (t := { t with ticks := 0 }) within_limit remains)
  · exact (Timer.tick_tenth running tenth).trans (Timer.second_overruns (t := { t with ticks := 0 }) within_limit last warn)
  · exact (Timer.tick_tenth running tenth).trans (Timer.second_counts_overrun (t := { t with ticks := 0 }) past)

end Sys2Proof.Machine

/-! PROOFS. What the commands keep of the session clock (05 R89) and of the hall's settings: key masks, roster cursor and HOLD
level (02 R27, R37, 06 R114); and ROSTER_CHANGES (02 R37). -/

namespace Sys2Proof

/-- The session clock and the settings of the hall. -/
def World.clockAndSettings (w : World) : Clock × (BitVec 2 × BitVec 4 × BitVec 5 × Nat × Bool) :=
  (w.clock, w.hall.settings)

namespace World

theorem clockAndSettings_of {w v : World} (clock : v.clock = w.clock) (settings : v.hall.settings = w.hall.settings) :
    v.clockAndSettings = w.clockAndSettings :=
  Prod.ext clock settings

theorem raise_clockAndSettings (w : World) (i : AttnItem) :
    World.clockAndSettings { w with hall := w.hall.raise i } = w.clockAndSettings := rfl

/-! ## The Layout Unit -/

theorem applySensed_clockAndSettings (w : World) (i : WallId) (x : Wall) :
    (w.applySensed i x).clockAndSettings = w.clockAndSettings :=
  have ⟨steady, clock, _⟩ := applySensed_hall w i x
  clockAndSettings_of clock steady.settings

theorem relock_clockAndSettings (w : World) : w.relock.clockAndSettings = w.clockAndSettings :=
  have ⟨steady, clock, _⟩ := relock_hall w
  clockAndSettings_of clock steady.settings

theorem sensedChange_clockAndSettings (w : World) (i : WallId) (x : Wall) (pos : WallPos) :
    (w.sensedChange i x pos).clockAndSettings = w.clockAndSettings := by
  unfold World.sensedChange
  extract_lets y
  split
  · exact applySensed_clockAndSettings (w.setWall i y) i y
  · rfl

theorem settleExpires_clockAndSettings (w : World) (i : WallId) :
    (w.settleExpires i).clockAndSettings = w.clockAndSettings := by
  unfold World.settleExpires
  split
  · split
    · exact sensedChange_clockAndSettings w i _ _
    · rfl
  · rfl

end World

/-! ## Operations of the hall that keep its settings -/

theorem settings_placeSeat (h : Hall) (n : SeatId) (place : Option SectionId) :
    (h.placeSeat n place).settings = h.settings := by
  unfold Hall.placeSeat
  split
  · refine (Steady.retuneSeat _ n).settings.trans ?_
    split
    · rfl
    · exact (settings_mark _ n).trans (settings_updSeat h n _)
  · rfl

theorem settings_setRole (h : Hall) (n : SeatId) (x : Role) :
    (((h.updSeat n fun y => { y with role := x }).recompose n).mark n).settings = h.settings :=
  (settings_mark _ n).trans ((Steady.recompose _ n).settings.trans (settings_updSeat h n _))

theorem settings_frameDone (h : Hall) : h.frameDone.settings = h.settings := by
  unfold Hall.frameDone
  split
  · exact (Steady.startFrame { h with inFlight := none }).settings
  · rfl

theorem settings_refillRoutes (h : Hall) : h.refillRoutes.settings = h.settings :=
  (Steady.startFrame { h with routeQueue := routeRefill }).settings

theorem settings_refreshSeats (h : Hall) : h.refreshSeats.settings = h.settings :=
  (Steady.recomposeAll _ _).settings.trans (Steady.retune h _).settings

theorem settings_timeUp (now : Clock) (h : Hall) (n : SeatId) : (h.timeUp now n).settings = h.settings := by
  unfold Hall.timeUp
  split
  · exact ((Steady.endTurn now h _ n _).trans (Steady.arbitrate now _)).settings
  · rfl

theorem settings_timeUpIfDue (now : Clock) (h : Hall) (n : SeatId) : (h.timeUpIfDue now n).settings = h.settings := by
  unfold Hall.timeUpIfDue
  split
  · exact settings_timeUp now h n
  · rfl

theorem settings_counted (h : Hall) : h.counted.settings = h.settings :=
  (Steady.recomposeAll _ _).settings.trans (Steady.recomposeAll h.count _).settings

theorem settings_tick (now : Clock) (h : Hall) : (h.tick now).settings = h.settings :=
  (foldl_keeps (part := Hall.settings) (settings_timeUpIfDue now) _ h.counted).trans (settings_counted h)

theorem settings_warnZero (h : Hall) (n : SeatId) : (h.warnZero n).settings = h.settings := by
  unfold Hall.warnZero
  split
  · exact ((Steady.updFloor h _ _).trans (Steady.recompose _ n)).settings
  · rfl

theorem settings_endFlash (h : Hall) (n : SeatId) : (h.endFlash n).settings = h.settings := by
  unfold Hall.endFlash
  split
  · exact (Steady.recompose _ n).settings.trans (settings_updSeat h n _)
  · rfl

namespace Machine

theorem settings_fallbackExpires (h : Hall) (b : BoothId) (o : Out) : (fallbackExpires h b o).settings = h.settings := by
  unfold fallbackExpires
  split
  · split
    · exact (Steady.enterFallback h b o).settings
    · rfl
  · rfl

theorem settings_addDesk (h : Hall) (b : BoothId) (n : SeatId) (g : Booth → Booth) :
    (((updBooth h b g).retuneSeat n).recompose n).settings = h.settings :=
  ((Steady.retuneSeat (updBooth h b g) n).trans (Steady.recompose _ n)).settings

theorem settings_removeDesk (h : Hall) (b : BoothId) (n : SeatId) : (removeDesk h b n).settings = h.settings := by
  unfold removeDesk
  extract_lets g v
  have left : Steady h g := Steady.deskLeaves h n .deskRemoved
  have unlinked : Steady g v := by
    subst v
    split
    · exact Steady.setDesk g n _
    · exact Steady.refl g
  exact (settings_addDesk v b n _).trans (left.trans unlinked).settings

/-! ## Requests -/

section

variable {w : World} {s t : State}

theorem inHall_clockAndSettings {h : Hall} (k : h.settings = w.hall.settings) :
    (inHall w h).clockAndSettings = w.clockAndSettings :=
  World.clockAndSettings_of rfl k

/-- An event of the Speech Arbiter, closed by its run. -/
theorem spoken_clockAndSettings {h : Hall} (k : h.settings = w.hall.settings) :
    (spoken w h).clockAndSettings = w.clockAndSettings :=
  inHall_clockAndSettings ((Steady.arbitrate _ h).settings.trans k)

theorem aside_clockAndSettings {v : World} (k : Aside w v) : v.clockAndSettings = w.clockAndSettings :=
  World.clockAndSettings_of k.clock k.settings

theorem withDefined_keeps {α : Type} (part : World → α) {b : Byte} {k : WallId → Wall → Handled}
    (keep : ∀ i x, part (k i x).world = part w) : part (withDefined w b k).world = part w := by
  refine withWall_keeps part fun i => ?_
  split
  · exact keep i _
  · rfl

/-! ### Layout Unit -/

theorem execLayoutOpen_clockAndSettings {key : Half} (e : execLayoutOpen key s = .next t) :
    t.world.clockAndSettings = s.world.clockAndSettings := by
  refine request_keeps World.clockAndSettings ?_ e
  split
  · rfl
  · split <;> rfl

theorem execLayoutConfirm_clockAndSettings {key : Half} (e : execLayoutConfirm key s = .next t) :
    t.world.clockAndSettings = s.world.clockAndSettings := by
  refine request_keeps World.clockAndSettings ?_ e
  split
  · split
    · rfl
    · rw [refusal_world]
      exact World.relock_clockAndSettings _
  · rfl

theorem execLayoutClose_clockAndSettings (e : execLayoutClose s = .next t) :
    t.world.clockAndSettings = s.world.clockAndSettings := by
  refine request_keeps World.clockAndSettings ?_ e
  split
  · rfl
  · rw [done_world]
    exact World.relock_clockAndSettings _

theorem execArmWindowExpiry_clockAndSettings (e : execArmWindowExpiry s = .next t) :
    t.world.clockAndSettings = s.world.clockAndSettings := by
  refine event_keeps World.clockAndSettings ?_ e
  split
  · exact World.relock_clockAndSettings _
  · rfl

theorem execIdleTimerExpiry_clockAndSettings (e : execIdleTimerExpiry s = .next t) :
    t.world.clockAndSettings = s.world.clockAndSettings := by
  refine event_keeps World.clockAndSettings ?_ e
  split
  · exact (World.raise_clockAndSettings s.world.relock .layoutExpired).trans (World.relock_clockAndSettings s.world)
  · rfl

theorem execSectionSet_clockAndSettings {a b : Byte} (e : execSectionSet a b s = .next t) :
    t.world.clockAndSettings = s.world.clockAndSettings := by
  refine request_keeps World.clockAndSettings ?_ e
  (repeat' split) <;> rfl

theorem execWallDefine_clockAndSettings {a b c d l p q r : Byte} (e : execWallDefine a b c d l p q r s = .next t) :
    t.world.clockAndSettings = s.world.clockAndSettings := by
  refine request_keeps World.clockAndSettings ?_ e
  split
  · unfold defineRequest
    (repeat' split) <;> rfl
  · rfl

theorem execWallRemove_clockAndSettings {b : Byte} (e : execWallRemove b s = .next t) :
    t.world.clockAndSettings = s.world.clockAndSettings := by
  refine request_keeps World.clockAndSettings ?_ e
  exact withWall_keeps World.clockAndSettings fun _ => by (repeat' split) <;> rfl

theorem execWallSet_clockAndSettings {b p : Byte} (e : execWallSet b p s = .next t) :
    t.world.clockAndSettings = s.world.clockAndSettings := by
  refine request_keeps World.clockAndSettings ?_ e
  split
  · rfl
  · refine withDefined_keeps World.clockAndSettings fun i x => ?_
    split
    · rfl
    · split
      · rfl
      · exact World.sensedChange_clockAndSettings _ i x _

theorem execMergeConfirm_clockAndSettings {b : Byte} (e : execMergeConfirm b s = .next t) :
    t.world.clockAndSettings = s.world.clockAndSettings := by
  refine request_keeps World.clockAndSettings ?_ e
  refine withDefined_keeps World.clockAndSettings fun i x => ?_
  split
  · rfl
  · split
    · rfl
    · exact World.clockAndSettings_of rfl (Steady.appliedOpen _ _ _ _ _).settings

theorem execMergeRefuse_clockAndSettings {b : Byte} (e : execMergeRefuse b s = .next t) :
    t.world.clockAndSettings = s.world.clockAndSettings := by
  refine request_keeps World.clockAndSettings ?_ e
  exact withDefined_keeps World.clockAndSettings fun _ _ => by split <;> rfl

/-! ### Seat Table -/

theorem execSeatPlace_clockAndSettings {n : Half} {sec : Byte} (e : execSeatPlace n sec s = .next t) :
    t.world.clockAndSettings = s.world.clockAndSettings := by
  refine request_keeps World.clockAndSettings ?_ e
  split
  next n place _ _ =>
    split
    · rfl
    · unfold placeRequest
      repeat' split
      all_goals first
        | rfl
        | exact World.clockAndSettings_of rfl (settings_placeSeat _ n place)
  · rfl

theorem execSeatRole_clockAndSettings {n : Half} {r : Byte} (e : execSeatRole n r s = .next t) :
    t.world.clockAndSettings = s.world.clockAndSettings := by
  refine request_keeps World.clockAndSettings ?_ e
  split
  · rfl
  next x _ =>
    refine withSeat_keeps World.clockAndSettings fun n r => ?_
    split
    · rfl
    · split
      · rfl
      · split
        · rfl
        · exact inHall_clockAndSettings (settings_setRole _ n x)

/-! ### Floor Table -/

theorem execFloorOpen_clockAndSettings {f a p : Byte} (e : execFloorOpen f a p s = .next t) :
    t.world.clockAndSettings = s.world.clockAndSettings := by
  refine request_keeps World.clockAndSettings ?_ e
  split
  · unfold openRequest
    split
    · rfl
    · split
      · rfl
      · split
        · rfl
        · split
          · rfl
          next given =>
            exact inHall_clockAndSettings ((Steady.allocate given).trans (Steady.openFloor _ _ _ _ _ _)).settings
  · rfl

theorem execFloorClose_clockAndSettings {f : Byte} (e : execFloorClose f s = .next t) :
    t.world.clockAndSettings = s.world.clockAndSettings := by
  refine request_keeps World.clockAndSettings (withFloor_keeps World.clockAndSettings fun f => ?_) e
  split
  · rfl
  · exact inHall_clockAndSettings (Steady.closeFloor _ _ f).settings

theorem execFloorSet_clockAndSettings {f p : Byte} (e : execFloorSet f p s = .next t) :
    t.world.clockAndSettings = s.world.clockAndSettings := by
  refine request_keeps World.clockAndSettings ?_ e
  split
  · rfl
  · exact withSession_keeps World.clockAndSettings fun _ _ => rfl

theorem execBankWrite_clockAndSettings {f : Byte} {items : List BankItem} (e : execBankWrite f items s = .next t) :
    t.world.clockAndSettings = s.world.clockAndSettings := by
  obtain same | ⟨f, x, b, _, _, written⟩ := bankWrite_cases s.world f items rfl e
  · rw [same]
  · rw [written]
    exact inHall_clockAndSettings (Steady.updFloor _ f _).settings

theorem execBankSwapNormal_clockAndSettings {f : Byte} (e : execBankSwapNormal f s = .next t) :
    t.world.clockAndSettings = s.world.clockAndSettings := by
  refine request_keeps World.clockAndSettings (withSession_keeps World.clockAndSettings fun f _ => ?_) e
  split
  · rfl
  · split
    · exact spoken_clockAndSettings (Steady.completeSwap s.world.clock s.world.hall f).settings
    · exact inHall_clockAndSettings (Steady.updFloor _ f _).settings

theorem execBankSwapForce_clockAndSettings {f : Byte} (e : execBankSwapForce f s = .next t) :
    t.world.clockAndSettings = s.world.clockAndSettings :=
  request_keeps World.clockAndSettings (withSession_keeps World.clockAndSettings fun f _ =>
    spoken_clockAndSettings (Steady.completeSwap s.world.clock s.world.hall f).settings) e

theorem execBankCancel_clockAndSettings {f : Byte} (e : execBankCancel f s = .next t) :
    t.world.clockAndSettings = s.world.clockAndSettings := by
  refine request_keeps World.clockAndSettings (withSession_keeps World.clockAndSettings fun f _ => ?_) e
  split <;> rfl

/-! ### Speech Arbiter -/

theorem grantSeat_clockAndSettings (w : World) (f : FloorId) (n : SeatId) (r : Seat) (d : Bool) :
    (grantSeat w f n r d).world.clockAndSettings = w.clockAndSettings := by
  unfold grantSeat
  split
  · rfl
  · split
    · split
      · split
        · exact spoken_clockAndSettings (Steady.passTurn w.clock (w.hall.waitsOnlyOn f n) f n _).settings
        · rfl
      · rfl
    · split
      · exact spoken_clockAndSettings (Steady.grant w.clock (w.hall.waitsOnlyOn f n) f n _).settings
      · rfl

theorem execGrant_clockAndSettings {f d : Byte} {n : Half} (e : execGrant f n d s = .next t) :
    t.world.clockAndSettings = s.world.clockAndSettings := by
  refine request_keeps World.clockAndSettings ?_ e
  split
  · refine withLive_keeps World.clockAndSettings fun f => ?_
    split
    · exact grantSeat_clockAndSettings _ f _ _ _
    · rfl
  · rfl

theorem execCloseMic_clockAndSettings {n : Half} (e : execCloseMic n s = .next t) :
    t.world.clockAndSettings = s.world.clockAndSettings := by
  refine request_keeps World.clockAndSettings (withSeat_keeps World.clockAndSettings fun n _ => ?_) e
  split
  · exact spoken_clockAndSettings (Steady.endTurn _ _ _ n _).settings
  · rfl

theorem insertSeatAt_clockAndSettings (w : World) (f : FloorId) (n : SeatId) (r : Seat) (k : Nat) :
    (insertSeatAt w f n r k).world.clockAndSettings = w.clockAndSettings := by
  unfold insertSeatAt
  extract_lets fl
  repeat' split
  all_goals first
    | rfl
    | exact spoken_clockAndSettings (Steady.joinQueue _ f _ _).settings

theorem execQueueInsert_clockAndSettings {f p : Byte} {n : Half} (e : execQueueInsert f n p s = .next t) :
    t.world.clockAndSettings = s.world.clockAndSettings := by
  refine request_keeps World.clockAndSettings ?_ e
  repeat' split
  all_goals first
    | rfl
    | exact insertSeatAt_clockAndSettings _ _ _ _ _

theorem execQueueRemove_clockAndSettings {n : Half} (e : execQueueRemove n s = .next t) :
    t.world.clockAndSettings = s.world.clockAndSettings := by
  refine request_keeps World.clockAndSettings (withSeat_keeps World.clockAndSettings fun n _ => ?_) e
  split
  · exact spoken_clockAndSettings (Steady.removeEntry _ _ n _).settings
  · rfl

theorem execQueueClear_clockAndSettings {f : Byte} (e : execQueueClear f s = .next t) :
    t.world.clockAndSettings = s.world.clockAndSettings := by
  refine request_keeps World.clockAndSettings (withLive_keeps World.clockAndSettings fun f => ?_) e
  split
  · rfl
  · exact spoken_clockAndSettings (Steady.removeEntries _ f _ _).settings

theorem execFloorPriorityOn_clockAndSettings {f : Byte} (e : execFloorPriorityOn f s = .next t) :
    t.world.clockAndSettings = s.world.clockAndSettings :=
  request_keeps World.clockAndSettings (withLive_keeps World.clockAndSettings fun f =>
    spoken_clockAndSettings (hostHolds_steady s.world.clock s.world.hall f).settings) e

theorem execFloorPriorityOff_clockAndSettings {f : Byte} (e : execFloorPriorityOff f s = .next t) :
    t.world.clockAndSettings = s.world.clockAndSettings := by
  refine request_keeps World.clockAndSettings (withLive_keeps World.clockAndSettings fun f => ?_) e
  split
  · exact spoken_clockAndSettings ((Steady.updFloor _ f _).trans (Steady.liftIfEmpty _ f)).settings
  · rfl

/-! ### Interpretation Unit -/

theorem execBoothAssign_clockAndSettings {b f : Byte} (e : execBoothAssign b f s = .next t) :
    t.world.clockAndSettings = s.world.clockAndSettings := by
  refine request_keeps World.clockAndSettings (withBooth_keeps World.clockAndSettings fun b =>
    withFloor_keeps World.clockAndSettings fun f => ?_) e
  split
  · rfl
  · exact inHall_clockAndSettings (Steady.retuneDesks (updBooth s.world.hall b _) b).settings

theorem clearRequest_clockAndSettings (w : World) (b o : Byte) :
    (clearRequest w b o).world.clockAndSettings = w.clockAndSettings := by
  unfold clearRequest
  split
  · split
    · rfl
    · exact inHall_clockAndSettings (Steady.clearOutput _ _ _ _).settings
  · rfl

theorem outputRequest_clockAndSettings (w : World) (b : BoothId) (o : Out) (l : Lang) (want : Option ChannelId) :
    (outputRequest w b o l want).world.clockAndSettings = w.clockAndSettings := by
  unfold outputRequest
  split
  · rfl
  · split
    · rfl
    · split
      · rfl
      · split
        · rfl
        next given =>
          exact inHall_clockAndSettings
            ((Steady.allocate given).trans ((Steady.setOutput _ b o _).trans (Steady.enterSilent _ b o))).settings

theorem execBoothOutput_clockAndSettings {b o l c : Byte} (e : execBoothOutput b o l c s = .next t) :
    t.world.clockAndSettings = s.world.clockAndSettings := by
  refine request_keeps World.clockAndSettings ?_ e
  split
  · exact clearRequest_clockAndSettings _ b o
  · split
    · split
      · rfl
      · exact outputRequest_clockAndSettings _ _ _ _ _
    · rfl

theorem execBoothOutputClear_clockAndSettings {b o : Byte} (e : execBoothOutputClear b o s = .next t) :
    t.world.clockAndSettings = s.world.clockAndSettings :=
  request_keeps World.clockAndSettings (clearRequest_clockAndSettings s.world b o) e

theorem execBoothAddDesk_clockAndSettings {b : Byte} {n : Half} (e : execBoothAddDesk b n s = .next t) :
    t.world.clockAndSettings = s.world.clockAndSettings := by
  refine request_keeps World.clockAndSettings (withBoothSeat_keeps World.clockAndSettings fun b n _ => ?_) e
  repeat' split
  all_goals first
    | rfl
    | exact inHall_clockAndSettings (settings_addDesk _ b n _)

theorem execBoothRemoveDesk_clockAndSettings {b : Byte} {n : Half} (e : execBoothRemoveDesk b n s = .next t) :
    t.world.clockAndSettings = s.world.clockAndSettings := by
  refine request_keeps World.clockAndSettings (withBoothSeat_keeps World.clockAndSettings fun b n _ => ?_) e
  split
  · exact inHall_clockAndSettings (settings_removeDesk _ b n)
  · rfl

theorem execBoothSet_clockAndSettings {b p d : Byte} (e : execBoothSet b p d s = .next t) :
    t.world.clockAndSettings = s.world.clockAndSettings := by
  refine request_keeps World.clockAndSettings ?_ e
  split <;> rfl

theorem execBoothRelease_clockAndSettings {b : Byte} (e : execBoothRelease b s = .next t) :
    t.world.clockAndSettings = s.world.clockAndSettings := by
  refine request_keeps World.clockAndSettings (withBooth_keeps World.clockAndSettings fun b => ?_) e
  split
  · exact inHall_clockAndSettings (Steady.releaseBooth _ b).settings
  · rfl

/-! ### Turn Timer Bank -/

theorem execTurnTimerZeroCut_clockAndSettings {n : SeatId} (e : execTurnTimerZeroCut n s = .next t) :
    t.world.clockAndSettings = s.world.clockAndSettings := by
  refine event_keeps World.clockAndSettings ?_ e
  split
  · exact inHall_clockAndSettings (settings_timeUp _ _ n)
  · rfl

theorem execTurnTimerZeroWarn_clockAndSettings {n : SeatId} (e : execTurnTimerZeroWarn n s = .next t) :
    t.world.clockAndSettings = s.world.clockAndSettings := by
  refine event_keeps World.clockAndSettings ?_ e
  split
  · exact inHall_clockAndSettings (settings_warnZero _ n)
  · rfl

/-! ### Host Port -/

theorem execWriteDiscarded_clockAndSettings (e : execWriteDiscarded s = .next t) :
    t.world.clockAndSettings = s.world.clockAndSettings := by
  unfold execWriteDiscarded at e
  split at e <;> cases e <;> rfl

theorem execAttentionMask_clockAndSettings {k : Half} (e : execAttentionMask k s = .next t) :
    t.world.clockAndSettings = s.world.clockAndSettings := by
  unfold execAttentionMask at e
  split at e
  next m _ _ =>
    exact request_keeps World.clockAndSettings (s := { s with port := { s.port with mask := m } }) rfl e
  · exact request_keeps World.clockAndSettings rfl e

theorem execHallReset_clockAndSettings {c : Half} (e : execHallReset c s = .next t) :
    t.world.clockAndSettings = s.world.clockAndSettings := by
  unfold execHallReset at e
  split at e
  · cases e
    rfl
  · exact request_keeps World.clockAndSettings rfl e

theorem execHallResetFloorClose_clockAndSettings (e : execHallResetFloorClose s = .next t) :
    t.world.clockAndSettings = s.world.clockAndSettings := by
  unfold execHallResetFloorClose at e
  split at e
  · exact event_keeps World.clockAndSettings (inHall_clockAndSettings (Steady.closeFloor _ _ _).settings) e
  · cases e
    rfl

theorem execHallResetSeatRefresh_clockAndSettings (e : execHallResetSeatRefresh s = .next t) :
    t.world.clockAndSettings = s.world.clockAndSettings := by
  unfold execHallResetSeatRefresh at e
  split at e
  · cases e
    exact inHall_clockAndSettings (settings_refreshSeats s.world.hall)
  · cases e
    rfl

theorem execHallResetRouteRefill_clockAndSettings (e : execHallResetRouteRefill s = .next t) :
    t.world.clockAndSettings = s.world.clockAndSettings := by
  unfold execHallResetRouteRefill at e
  split at e
  · cases e
    exact inHall_clockAndSettings (settings_refillRoutes s.world.hall)
  · cases e
    rfl

theorem execHallResetAttentionClear_clockAndSettings (e : execHallResetAttentionClear s = .next t) :
    t.world.clockAndSettings = s.world.clockAndSettings := by
  unfold execHallResetAttentionClear at e
  split at e <;> cases e <;> rfl

end

/-! ## Every command -/

/-- The commands that set the session clock, a key mask, the roster cursor or the HOLD level, and the raw frames, which run as
the request they spell. -/
def setsClockOrSettings : Instr → Bool
  | .sessionTick | .maskSet _ _ | .rosterChanges | .holdActive | .holdInactive | .deviceReset
  | .requestFrameRefused _ => true
  | _ => false

/-- Every other command leaves the session clock and the settings of the hall. -/
theorem exec_clockAndSettings {c : Instr} {s t : State} (other : setsClockOrSettings c = false)
    (e : exec c s = .next t) : t.world.clockAndSettings = s.world.clockAndSettings := by
  by_cases read : isRead c = true
  · rw [exec_read read e]
  cases c
  case layoutOpen => exact execLayoutOpen_clockAndSettings e
  case layoutConfirm => exact execLayoutConfirm_clockAndSettings e
  case layoutClose => exact execLayoutClose_clockAndSettings e
  case armWindowExpiry => exact execArmWindowExpiry_clockAndSettings e
  case idleTimerExpiry => exact execIdleTimerExpiry_clockAndSettings e
  case sectionSet => exact execSectionSet_clockAndSettings e
  case wallDefine => exact execWallDefine_clockAndSettings e
  case wallRemove => exact execWallRemove_clockAndSettings e
  case wallSet => exact execWallSet_clockAndSettings e
  case mergeConfirm => exact execMergeConfirm_clockAndSettings e
  case mergeRefuse => exact execMergeRefuse_clockAndSettings e
  case wallLineChange n x =>
    exact event_keeps World.clockAndSettings rfl (show execWallLineChange n x s = .next t from e)
  case settleTimerExpiry i =>
    exact event_keeps World.clockAndSettings (World.settleExpires_clockAndSettings _ i)
      (show execSettleTimerExpiry i s = .next t from e)
  case seatPlace => exact execSeatPlace_clockAndSettings e
  case seatRole => exact execSeatRole_clockAndSettings e
  case seatRetire => exact aside_clockAndSettings (execSeatRetire_aside e)
  case floorOpen => exact execFloorOpen_clockAndSettings e
  case floorClose => exact execFloorClose_clockAndSettings e
  case floorSet => exact execFloorSet_clockAndSettings e
  case bankWrite => exact execBankWrite_clockAndSettings e
  case bankSwapNormal => exact execBankSwapNormal_clockAndSettings e
  case bankSwapForce => exact execBankSwapForce_clockAndSettings e
  case bankCancel => exact execBankCancel_clockAndSettings e
  case grant => exact execGrant_clockAndSettings e
  case closeMic => exact execCloseMic_clockAndSettings e
  case queueInsert => exact execQueueInsert_clockAndSettings e
  case queueRemove => exact execQueueRemove_clockAndSettings e
  case queueClear => exact execQueueClear_clockAndSettings e
  case floorPriorityOn => exact execFloorPriorityOn_clockAndSettings e
  case floorPriorityOff => exact execFloorPriorityOff_clockAndSettings e
  case boothAssign => exact execBoothAssign_clockAndSettings e
  case boothOutput => exact execBoothOutput_clockAndSettings e
  case boothOutputClear => exact execBoothOutputClear_clockAndSettings e
  case boothAddDesk => exact execBoothAddDesk_clockAndSettings e
  case boothRemoveDesk => exact execBoothRemoveDesk_clockAndSettings e
  case boothSet => exact execBoothSet_clockAndSettings e
  case boothRelease => exact execBoothRelease_clockAndSettings e
  case routeFrameDone =>
    exact event_keeps World.clockAndSettings (World.clockAndSettings_of rfl (settings_frameDone s.world.hall))
      (show execRouteFrameDone s = .next t from e)
  case turnTimerZeroCut => exact execTurnTimerZeroCut_clockAndSettings e
  case turnTimerZeroWarn => exact execTurnTimerZeroWarn_clockAndSettings e
  case flashEnd n =>
    exact event_keeps World.clockAndSettings (inHall_clockAndSettings (settings_endFlash _ n))
      (show execFlashEnd n s = .next t from e)
  case fallbackDelayExpiry b o =>
    exact event_keeps World.clockAndSettings (inHall_clockAndSettings (settings_fallbackExpires _ b o))
      (show execFallbackDelayExpiry b o s = .next t from e)
  case poll => exact aside_clockAndSettings (execPoll_aside e)
  case reply => exact aside_clockAndSettings (execReply_aside e)
  case pollMiss => exact aside_clockAndSettings (execPollMiss_aside e)
  case graceExpiry => exact aside_clockAndSettings (execGraceExpiry_aside e)
  case chainConfig => exact aside_clockAndSettings (execChainConfig_aside e)
  case enrollFull => exact aside_clockAndSettings (execEnrollFull_aside e)
  case enrollExtend => exact aside_clockAndSettings (execEnrollExtend_aside e)
  case enrollAbort => exact aside_clockAndSettings (execEnrollAbort_aside e)
  case chainSeatRetire => exact aside_clockAndSettings (execChainSeatRetire_aside e)
  case assignStep => exact aside_clockAndSettings (execAssignStep_aside e)
  case assignAck => exact aside_clockAndSettings (execAssignAck_aside e)
  case assignReturned => exact aside_clockAndSettings (execAssignReturned_aside e)
  case assignBadAnswer => exact aside_clockAndSettings (execAssignBadAnswer_aside e)
  case assignTimeout => exact aside_clockAndSettings (execAssignTimeout_aside e)
  case chainReset => exact aside_clockAndSettings (execChainReset_aside e)
  case ringTest => exact aside_clockAndSettings (execRingTest_aside e)
  case periodicLoopTest => exact aside_clockAndSettings (execPeriodicLoopTest_aside e)
  case loopArrival => exact aside_clockAndSettings (execLoopArrival_aside e)
  case loopTimeout => exact aside_clockAndSettings (execLoopTimeout_aside e)
  case answerRead | chipSelectAsserted =>
    cases e
    rfl
  case writeDiscarded => exact execWriteDiscarded_clockAndSettings e
  case readAttention =>
    exact request_keeps World.clockAndSettings rfl (show execReadAttention s = .next t from e)
  case attentionMask => exact execAttentionMask_clockAndSettings e
  case hallReset => exact execHallReset_clockAndSettings e
  case hallResetFloorClose => exact execHallResetFloorClose_clockAndSettings e
  case hallResetSeatRefresh => exact execHallResetSeatRefresh_clockAndSettings e
  case hallResetRouteRefill => exact execHallResetRouteRefill_clockAndSettings e
  case hallResetAttentionClear => exact execHallResetAttentionClear_clockAndSettings e
  case sessionTick | maskSet | rosterChanges | holdActive | holdInactive | deviceReset | requestFrameRefused => cases other
  all_goals exact absurd rfl read

end Machine

end Sys2Proof

namespace Sys2Proof

/-! ## ROSTER_CHANGES (02 R37) -/

/-- Marks cleared one after another: those of the listed numbers, and no other. -/
theorem Tbl.get_clearAll {n : Nat} (ns : List (Fin n)) (marks : Tbl Bool n) (i : Fin n) :
    (ns.foldl (fun m k => m.set k false) marks).get i = (marks.get i && !ns.contains i) := by
  induction ns generalizing marks with
  | nil => simp
  | cons k ns ih =>
    rw [List.foldl_cons, ih, Tbl.get_set, List.contains_cons]
    by_cases same : k = i
    · simp [same]
    · simp [same, beq_false_of_ne (Ne.symm same)]

theorem Hall.collectRoster_marks (h : Hall) (ns : List SeatId) (n : SeatId) :
    (h.collectRoster ns).marks.get n = (h.marks.get n && !ns.contains n) :=
  Tbl.get_clearAll ns h.marks n

theorem Hall.collectRoster_cursor (h : Hall) (ns : List SeatId) :
    (h.collectRoster ns).cursor = (ns.getLast?.map fun n => n.val + 1).getD h.cursor := by
  unfold Hall.collectRoster
  cases ns.getLast? <;> rfl

namespace Machine

/-- ROSTER_CHANGES taken: the collected numbers with their records' parts, and MORE exactly when a mark remains. -/
theorem exec_rosterChanges {s : State} (takes : s.takes) :
    exec .rosterChanges s = .next (s.answered 3 0x26#8
      ⟨inHall s.world (s.world.hall.collectRoster s.world.hall.rosterCollected), .ok,
        .roster (s.world.hall.rosterCollected.map fun n => ⟨n, (s.world.hall.seat? n).map Seat.roster⟩)
          ((s.world.hall.collectRoster s.world.hall.rosterCollected).marks.some? id)⟩) := by
  show execRosterChanges s = _
  exact request_answers takes rfl

/-! ## The clock and each setting by its own commands -/

section

variable {c : Instr} {s t : State}

/-- A command that is no tick, no device reset and no raw frame leaves the session clock. -/
theorem exec_clock_of_command (tick : c ≠ .sessionTick) (reset : c ≠ .deviceReset)
    (raw : ∀ b, c ≠ .requestFrameRefused b) (e : exec c s = .next t) : t.world.clock = s.world.clock := by
  by_cases sets : setsClockOrSettings c = true
  · cases c
    case sessionTick => exact absurd rfl tick
    case deviceReset => exact absurd rfl reset
    case requestFrameRefused b => exact absurd rfl (raw b)
    case maskSet r k =>
      refine request_keeps World.clock ?_ (show execMaskSet r k s = .next t from e)
      split <;> rfl
    case rosterChanges => exact request_keeps World.clock rfl (show execRosterChanges s = .next t from e)
    case holdActive => exact event_keeps World.clock rfl (show execHoldActive s = .next t from e)
    case holdInactive => exact event_keeps World.clock rfl (show execHoldInactive s = .next t from e)
    all_goals cases sets
  · exact congrArg Prod.fst (exec_clockAndSettings (by simpa using sets) e)

/-- So does a raw frame: it runs as a request, and no request is a tick or a device reset. -/
theorem exec_clock (tick : c ≠ .sessionTick) (reset : c ≠ .deviceReset) (e : exec c s = .next t) :
    t.world.clock = s.world.clock := by
  by_cases raw : ∃ b, c = .requestFrameRefused b
  · obtain ⟨b, rfl⟩ := raw
    obtain same | ⟨i, a, args, run⟩ := requestFrameRefused_cases e
    · rw [same]
    · refine exec_clock_of_command ?_ ?_ (fun b => ?_) run <;> rintro rfl <;> cases args
  · exact exec_clock_of_command tick reset (fun b k => raw ⟨b, k⟩) e

/-- The three masks of two halls agree. -/
def SameMasks (h g : Hall) : Prop :=
  g.maskDelegate = h.maskDelegate ∧ g.maskChair = h.maskChair ∧ g.maskDesk = h.maskDesk

theorem settings_iff {h g : Hall} :
    g.settings = h.settings ↔ SameMasks h g ∧ g.cursor = h.cursor ∧ g.hold = h.hold := by
  simp [Hall.settings, SameMasks, and_assoc]

theorem setMask_keeps {h g : Hall} {x : Role} {k : Byte} (set : h.setMask x k = some g) :
    g.cursor = h.cursor ∧ g.hold = h.hold := by
  cases x <;> simp only [Hall.setMask, Option.ite_none_right_eq_some, Option.some.injEq] at set <;>
    obtain ⟨-, rfl⟩ := set <;> exact ⟨rfl, rfl⟩

theorem execMaskSet_keeps {r k : Byte} (e : execMaskSet r k s = .next t) :
    t.world.hall.cursor = s.world.hall.cursor ∧ t.world.hall.hold = s.world.hall.hold := by
  obtain same | taken := request_world e
  · rw [same]
    exact ⟨rfl, rfl⟩
  · rw [taken]
    split
    next set =>
      obtain ⟨_, -, masked⟩ := Option.bind_eq_some_iff.mp set
      exact setMask_keeps masked
    · exact ⟨rfl, rfl⟩

theorem execRosterChanges_keeps (e : execRosterChanges s = .next t) :
    SameMasks s.world.hall t.world.hall ∧ t.world.hall.hold = s.world.hall.hold := by
  obtain same | taken := request_world e
  · rw [same]
    exact ⟨⟨rfl, rfl, rfl⟩, rfl⟩
  · rw [taken]
    exact ⟨⟨rfl, rfl, rfl⟩, rfl⟩

theorem execHoldInactive_keeps (e : execHoldInactive s = .next t) :
    SameMasks s.world.hall t.world.hall ∧ t.world.hall.cursor = s.world.hall.cursor := by
  cases e
  obtain ⟨masks, cursor, -⟩ := settings_iff.mp (Steady.startFrame { s.world.hall with hold := false }).settings
  exact ⟨masks, cursor⟩

/-- What a command may do to the settings of the hall: none changes, or the command is the one that sets the changed one. -/
theorem exec_settings_cases (reset : c ≠ .deviceReset) (raw : ∀ b, c ≠ .requestFrameRefused b)
    (e : exec c s = .next t) :
    t.world.hall.settings = s.world.hall.settings ∨
    ((∃ r k, c = .maskSet r k) ∧ t.world.hall.cursor = s.world.hall.cursor ∧ t.world.hall.hold = s.world.hall.hold) ∨
    (c = .rosterChanges ∧ SameMasks s.world.hall t.world.hall ∧ t.world.hall.hold = s.world.hall.hold) ∨
    ((c = .holdActive ∨ c = .holdInactive) ∧ SameMasks s.world.hall t.world.hall ∧
      t.world.hall.cursor = s.world.hall.cursor) := by
  by_cases sets : setsClockOrSettings c = true
  · cases c
    case sessionTick =>
      exact .inl (event_keeps (fun w => w.hall.settings) (settings_tick _ _) (show execSessionTick s = .next t from e))
    case maskSet r k => exact .inr (.inl ⟨⟨r, k, rfl⟩, execMaskSet_keeps e⟩)
    case rosterChanges => exact .inr (.inr (.inl ⟨rfl, execRosterChanges_keeps e⟩))
    case holdActive =>
      cases e
      exact .inr (.inr (.inr ⟨.inl rfl, ⟨rfl, rfl, rfl⟩, rfl⟩))
    case holdInactive => exact .inr (.inr (.inr ⟨.inr rfl, execHoldInactive_keeps e⟩))
    case deviceReset => exact absurd rfl reset
    case requestFrameRefused b => exact absurd rfl (raw b)
    all_goals cases sets
  · exact .inl (congrArg Prod.snd (exec_clockAndSettings (by simpa using sets) e))

end

/-- Settles O20: the clock by `exec_clock`, each setting by `exec_settings_cases`, and ROSTER_CHANGES by its answer
(`exec_rosterChanges`) with the marks it clears (`Tbl.get_clearAll`). -/
theorem clockAndSettingsAreKept : Obligations.ClockAndSettingsAreKept := by
  refine ⟨fun c s t e tick reset => exec_clock tick reset e, fun c s t e reset raw => ?_, fun s takes => ?_⟩
  · obtain same | ⟨⟨r, k, set⟩, cursor, hold⟩ | ⟨roster, masks, hold⟩ | ⟨held, masks, cursor⟩ :=
      exec_settings_cases reset raw e
    · obtain ⟨masks, cursor, hold⟩ := settings_iff.mp same
      exact ⟨fun _ => masks, fun _ => cursor, fun _ _ => hold⟩
    · exact ⟨fun other => absurd set (other r k), fun _ => cursor, fun _ _ => hold⟩
    · exact ⟨fun _ => masks, fun other => absurd roster other, fun _ _ => hold⟩
    · exact ⟨fun _ => masks, fun _ => cursor, fun active inactive => absurd held (not_or.mpr ⟨active, inactive⟩)⟩
  · exact ⟨_, s.world.hall.rosterCollected, _, exec_rosterChanges takes, rfl, (answered_port _ _ _ _).1,
      Hall.collectRoster_marks _ _, Tbl.some?_iff _ _, Hall.collectRoster_cursor _ _, rfl⟩

end Machine

end Sys2Proof

/-! PROOFS. The Route Output link (06 R113, R114): when a frame begins, and what the end of a frame and each level of HOLD do. -/

namespace Sys2Proof

namespace Hall

/-! ## When a frame begins (06 R113) -/

section

variable {h : Hall} {u : RouteUpdate} {rest : List RouteUpdate}

theorem startFrame_begins_head (idle : h.inFlight = none) (inactive : h.hold = false)
    (queued : h.routeQueue = u :: rest) :
    h.startFrame = { h with routeQueue := rest, inFlight := some u, link := routeFrame u } := by
  simp only [startFrame, idle, inactive, queued]

theorem startFrame_of_held (active : h.hold = true) : h.startFrame = h := by
  unfold startFrame
  split
  next inactive _ => exact absurd (active.symm.trans inactive) (by decide)
  next => rfl

theorem startFrame_of_empty (empty : h.routeQueue = []) : h.startFrame = h := by
  unfold startFrame
  split
  next queued => exact absurd (queued.symm.trans empty) (List.cons_ne_nil _ _)
  next => rfl

theorem frameDone_of_inFlight {v : RouteUpdate} (sending : h.inFlight = some v) :
    h.frameDone = { h with inFlight := none }.startFrame := by
  unfold frameDone
  rw [if_pos (Option.isSome_of_mem sending)]

/-- The end of a frame with HOLD INACTIVE: the head follows it on the link at once. -/
theorem frameDone_begins_head {v : RouteUpdate} (sending : h.inFlight = some v) (inactive : h.hold = false)
    (queued : h.routeQueue = u :: rest) :
    h.frameDone = { h with routeQueue := rest, inFlight := some u, link := routeFrame u } :=
  (frameDone_of_inFlight sending).trans (startFrame_begins_head (h := { h with inFlight := none }) rfl inactive queued)

/-- The end of a frame that none may follow. -/
theorem frameDone_stops {v : RouteUpdate} (sending : h.inFlight = some v)
    (waits : h.hold = true ∨ h.routeQueue = []) : h.frameDone = { h with inFlight := none } := by
  rw [frameDone_of_inFlight sending]
  obtain active | empty := waits
  · exact startFrame_of_held (h := { h with inFlight := none }) active
  · exact startFrame_of_empty (h := { h with inFlight := none }) empty

/-- HOLD gone INACTIVE on an idle link. -/
theorem startFrame_resumes (idle : h.inFlight = none) (queued : h.routeQueue = u :: rest) :
    { h with hold := false }.startFrame =
      { h with hold := false, routeQueue := rest, inFlight := some u, link := routeFrame u } :=
  startFrame_begins_head (h := { h with hold := false }) idle rfl queued

end

end Hall

namespace Machine

/-! ## The three commands of the link (06 R113, R114) -/

theorem exec_routeFrameDone (s : State) :
    exec .routeFrameDone s = .next (s.after { s.world with hall := s.world.hall.frameDone }) := by
  show execRouteFrameDone s = _
  exact event_next _ s

theorem exec_holdActive (s : State) :
    exec .holdActive s = .next (s.after { s.world with hall := { s.world.hall with hold := true } }) := by
  show execHoldActive s = _
  exact event_next _ s

theorem exec_holdInactive (s : State) :
    exec .holdInactive s = .next (s.after { s.world with hall := { s.world.hall with hold := false }.startFrame }) := by
  show execHoldInactive s = _
  exact event_next _ s

/-- Settles O51: the end of a frame by `Hall.frameDone_begins_head` and `Hall.frameDone_stops`, HOLD ACTIVE by its
effect, HOLD INACTIVE by `Hall.startFrame_resumes`. -/
theorem routeSending : Obligations.RouteSending := by
  refine ⟨fun s v u rest sending inactive queued => ?_, fun s v sending waits => ?_, exec_holdActive,
    fun s u rest idle queued => ?_⟩
  · rw [exec_routeFrameDone, Hall.frameDone_begins_head sending inactive queued]
  · rw [exec_routeFrameDone, Hall.frameDone_stops sending waits]
  · rw [exec_holdInactive, Hall.startFrame_resumes idle queued]

end Machine

end Sys2Proof

/-! PROOFS. What the Channel Allocator and the Interpretation Unit write of channels and booths (chapters 6 and 7): writes of
desk fields and map reports reach neither, an output leaves the settings of its booth, and each channel operation writes one
channel. -/

namespace Sys2Proof

/-! ## Desk fields and map reports leave channels and booths -/

namespace Sound

theorem setDesk (h : Hall) (n : SeatId) (d : DeskFields) : (h.setDesk n d).sound = h.sound := by
  unfold Hall.setDesk
  split
  · split
    · rfl
    · simp [Hall.sound, Hall.retuneSeat]
  · rfl

theorem setDeskLive (h : Hall) (n : SeatId) (live : Bool) : (h.setDeskLive n live).sound = h.sound := by
  unfold Hall.setDeskLive
  split
  · exact setDesk h n _
  · rfl

theorem recheckDesk (b : BoothId) (h : Hall) (n : SeatId) : (h.recheckDesk b n).sound = h.sound := by
  unfold Hall.recheckDesk
  split
  · split
    · split
      · rfl
      · exact setDesk h n _
    · rfl
  · rfl

theorem relayRecheck (h : Hall) : h.relayRecheck.sound = h.sound :=
  foldl_keeps (part := Hall.sound) (fun g b => foldl_keeps (part := Hall.sound) (recheckDesk b) _ g) _ h

theorem mapReport (h : Hall) (f : FloorId) : (h.mapReport f).sound = h.sound := by
  unfold Hall.mapReport
  split
  · rw [relayRecheck, retune]
  · rfl

theorem mapReportOf (h : Hall) (f : Option FloorId) : (h.mapReportOf f).sound = h.sound := by
  cases f with
  | none => rfl
  | some f => exact mapReport h f

end Sound

/-- What a request on a booth writes of it, its outputs left out. -/
def Booth.setup (r : Booth) : Option FloorId × BoothPolicy × Nat × List SeatId :=
  (r.floor, r.policy, r.delay, r.desks)

namespace Hall

/-- The settings of every booth. -/
def setups (h : Hall) : Tbl (Option FloorId × BoothPolicy × Nat × List SeatId) 12 :=
  h.booths.imap fun _ r => r.setup

theorem setups_of_booths {h g : Hall} (k : g.booths = h.booths) : g.setups = h.setups := by
  rw [setups, setups, k]

theorem setup_of_setups {h g : Hall} (k : g.setups = h.setups) (b : BoothId) :
    (g.booths.get b).setup = (h.booths.get b).setup := by
  simpa [setups] using congrArg (fun t => t.get b) k

theorem delay_of_setups {h g : Hall} (k : g.setups = h.setups) (b : BoothId) :
    (g.booths.get b).delay = (h.booths.get b).delay :=
  congrArg (fun x => x.2.2.1) (setup_of_setups k b)

theorem serving_of_setups {h g : Hall} (k : g.setups = h.setups) (floors : g.floors = h.floors) (b : BoothId) :
    g.serving b = h.serving b := by
  have home : (g.booths.get b).floor = (h.booths.get b).floor := congrArg Prod.fst (setup_of_setups k b)
  unfold Hall.serving
  rw [home]
  simp only [Hall.floor_of_floors floors]

theorem output_of_booths {h g : Hall} (k : g.booths = h.booths) (b : BoothId) (o : Out) : g.output b o = h.output b o := by
  rw [Hall.output, Hall.output, k]

theorem setups_setOutput (h : Hall) (b : BoothId) (o : Out) (x : Output) : (h.setOutput b o x).setups = h.setups := by
  refine Tbl.ext_get fun c => ?_
  simp only [setups, Tbl.get_imap, Hall.setOutput_booths, Tbl.upd, Tbl.get_set]
  split
  next e =>
    subst e
    cases o <;> rfl
  · rfl

/-! ## Channels -/

theorem setContent_booths (h : Hall) (c : ChannelId) (x : Content) : (h.setContent c x).booths = h.booths := by
  unfold Hall.setContent
  split
  · rw [Hall.route_booths]
  · rfl

/-- A channel in use carries what it is given; no other changes (06 R104). -/
theorem setContent_channel {h : Hall} {c : ChannelId} {u : ChanUse} (used : (h.channels.get c).use = some u)
    (x : Content) (d : ChannelId) :
    (h.setContent c x).channels.get d = if d = c then ⟨some u, x⟩ else h.channels.get d := by
  unfold Hall.setContent
  rw [used]
  split
  next differs =>
    rw [Hall.route_channels]
    by_cases e : d = c
    · subst e
      simp [used]
    · simp [Tbl.upd, Tbl.get_set_ne _ _ (Ne.symm e), e]
  next same =>
    have carried : (h.channels.get c).content = x := by simpa using same
    split
    next e => rw [e, ← used, ← carried]
    · rfl

theorem outContent_eq {h : Hall} {b : BoothId} {o : Out} {u : OutUse} (use : (h.output b o).use = some u) (x : Content) :
    h.outContent b o x = h.setContent u.chan x := by
  simp only [Hall.outContent, Output.chan?, use, Option.map_some]

theorem outContent_booths (h : Hall) (b : BoothId) (o : Out) (x : Content) : (h.outContent b o x).booths = h.booths := by
  unfold Hall.outContent
  split
  · exact setContent_booths h _ x
  · rfl

theorem mixContent_eq {h : Hall} {b : BoothId} {f : FloorId} (served : h.serving b = some f) (o : Out) :
    h.mixContent b o = h.outContent b o (.floorMix f) := by
  simp only [Hall.mixContent, served]

theorem mixContent_booths (h : Hall) (b : BoothId) (o : Out) : (h.mixContent b o).booths = h.booths := by
  unfold Hall.mixContent
  split
  · exact outContent_booths h b o _
  · rfl

theorem freeing_booths (h : Hall) (c : ChannelId) : (h.freeing c).booths = h.booths := by
  unfold Hall.freeing
  split
  · rw [Hall.booths_of_sound (Sound.mapReportOf _ _), Hall.route_booths]
  · rfl

/-- A freed channel is FREE with SILENCE (06 R103). -/
theorem freeing_channels {h : Hall} {c : ChannelId} (used : (h.channels.get c).use ≠ none) :
    (h.freeing c).channels = h.channels.set c Channel.reset := by
  unfold Hall.freeing
  rw [if_pos (Option.isSome_iff_ne_none.mpr used), Hall.channels_of_sound (Sound.mapReportOf _ _), Hall.route_channels]

/-- The channel an allocation takes when it asks for the lowest, or names it (06 R102). -/
theorem freeChannel_eq {h : Hall} {c : ChannelId} {want : Option ChannelId} (free : (h.channels.get c).use = none)
    (wanted : want = none ∧ (∀ d, d < c → (h.channels.get d).use ≠ none) ∨ want = some c) :
    h.freeChannel want = some c := by
  obtain ⟨rfl, below⟩ | rfl := wanted
  · rw [Hall.freeChannel]
    exact Tbl.lowest_eq (by simp [free]) fun d k => by simpa [Option.isSome_iff_ne_none] using below d k
  · simp [Hall.freeChannel, free]

/-- A channel allocated for an output is filled with SILENCE, whatever its map's report reaches (06 R102). -/
theorem allocate_output {h : Hall} {c : ChannelId} {want : Option ChannelId} {f : FloorId} {hold : ChanHold}
    (taken : h.freeChannel want = some c)
    (held : (h.floor f).state = .live ∧ hold = .owned ∨ ∃ x, (h.floor f).state = .folded x ∧ hold = .lent x)
    (b : BoothId) (o : Out) (l : Lang) :
    ∃ g, h.allocate want f (.output b o) l = some (g, c) ∧ g.booths = h.booths ∧ g.floors = h.floors ∧
      g.channels = h.channels.set c ⟨some ⟨hold, f, some l, .output b o⟩, .silence⟩ := by
  have given : h.allocate want f (.output b o) l =
      some ((h.fillChannel c f (.output b o) l).mapReportOf
        ((h.fillChannel c f (.output b o) l).channels.get c).mapFloor, c) := by
    simp only [Hall.allocate, taken, Option.map_some]
  refine ⟨_, given, ?_, Hall.floors_of_talk (Talk.allocate given), ?_⟩
  · rw [Hall.booths_of_sound (Sound.mapReportOf _ _), Hall.fillChannel, Hall.route_booths]
  · rw [Hall.channels_of_sound (Sound.mapReportOf _ _), Hall.fillChannel, Hall.route_channels]
    obtain ⟨live, rfl⟩ | ⟨x, folded, rfl⟩ := held
    · rw [live]
      rfl
    · rw [folded]
      rfl

end Hall

end Sys2Proof

/-! PROOFS. Booths assigned, set and released; desks joining and leaving (07 R120, R123 to R126). Outputs, channels and desks
may change with them; the settings of the booths are followed through each operation. -/

namespace Sys2Proof

namespace Hall

/-! ## Settings kept -/

theorem setups_enterFallback (h : Hall) (b : BoothId) (o : Out) : (h.enterFallback b o).setups = h.setups :=
  (setups_of_booths (mixContent_booths _ b o)).trans (setups_setOutput h b o _)

theorem setups_enterSilent (h : Hall) (b : BoothId) (o : Out) : (h.enterSilent b o).setups = h.setups := by
  have silent (st : OutState) : ((h.setOutState b o st).outContent b o .silence).setups = h.setups :=
    (setups_of_booths (outContent_booths _ b o _)).trans (setups_setOutput h b o _)
  unfold Hall.enterSilent
  simp only []
  split
  · exact (setups_enterFallback _ b o).trans (silent _)
  · exact silent _

theorem setups_deskLeaves (h : Hall) (n : SeatId) (cause : ReleaseCause) : (h.deskLeaves n cause).setups = h.setups := by
  unfold Hall.deskLeaves
  split
  next b o _ =>
    rw [setups_enterSilent, Hall.setLastRelease, setups_setOutput]
    exact setups_of_booths (Hall.booths_of_sound (Sound.setDeskLive h n false))
  · rfl

theorem setups_takeOff (h : Hall) (b : BoothId) (o : Out) (cause : ReleaseCause) :
    (h.takeOff b o cause).setups = h.setups := by
  unfold Hall.takeOff
  split
  next n _ =>
    rw [Hall.setLastRelease, setups_setOutput]
    exact setups_of_booths (Hall.booths_of_sound (Sound.setDeskLive h n false))
  · rfl

theorem setups_clearOutput (h : Hall) (b : BoothId) (o : Out) (cause : ReleaseCause) :
    (h.clearOutput b o cause).setups = h.setups := by
  unfold Hall.clearOutput
  split
  · rw [Hall.recomposeDesks, setups_of_booths (recomposeAll_booths _ _), setups_of_booths (freeing_booths _ _),
      setups_setOutput, setups_takeOff]
  · rfl

/-! ## Outputs cleared (07 R122) -/

/-- The desk LIVE on an output is recorded as the last to leave it; an output without one keeps its record. -/
theorem takeOff_output (h : Hall) (b c : BoothId) (o p : Out) (cause : ReleaseCause) :
    (h.takeOff b o cause).output c p = if c = b ∧ p = o then
      { h.output b o with
        lastRelease := ((h.output b o).liveDesk.map fun n => (n, cause)).or (h.output b o).lastRelease }
    else h.output c p := by
  unfold Hall.takeOff
  cases live : (h.output b o).liveDesk with
  | none =>
    dsimp only
    split
    next here =>
      obtain ⟨rfl, rfl⟩ := here
      rfl
    · rfl
  | some n =>
    have left := Hall.booths_of_sound (Sound.setDeskLive h n false)
    simp only [Hall.setLastRelease, output_setOutput, output_of_booths left]
    rfl

theorem takeOff_channels (h : Hall) (b : BoothId) (o : Out) (cause : ReleaseCause) :
    (h.takeOff b o cause).channels = h.channels := by
  unfold Hall.takeOff
  split
  next n _ => exact (Hall.channels_of_sound (Sound.setDeskLive h n false) :)
  · rfl

/-- A cleared output is UNUSED, and the other outputs stand. -/
theorem clearOutput_output (h : Hall) (b c : BoothId) (o p : Out) (cause : ReleaseCause) :
    (h.clearOutput b o cause).output c p = if c = b ∧ p = o then
      ⟨none, ((h.output b o).liveDesk.map fun n => (n, cause)).or (h.output b o).lastRelease⟩
    else h.output c p := by
  unfold Hall.clearOutput
  cases use : (h.output b o).use with
  | none =>
    have idle : (h.output b o).liveDesk = none := by simp only [Output.liveDesk, use]
    dsimp only
    split
    next here =>
      obtain ⟨rfl, rfl⟩ := here
      rw [idle, ← use]
      rfl
    · rfl
  | some u =>
    dsimp only
    rw [Hall.recomposeDesks, output_of_booths (recomposeAll_booths _ _), output_of_booths (freeing_booths _ _),
      output_setOutput]
    split
    · rw [takeOff_output, if_pos ⟨rfl, rfl⟩]
    next elsewhere => rw [takeOff_output, if_neg elsewhere]

/-- The channel of a cleared output is FREE, and the other channels stand. -/
theorem clearOutput_channels {h : Hall} {b : BoothId} {o : Out} {u : OutUse} (use : (h.output b o).use = some u)
    (used : (h.channels.get u.chan).use ≠ none) (cause : ReleaseCause) :
    (h.clearOutput b o cause).channels = h.channels.set u.chan Channel.reset := by
  have kept := takeOff_channels h b o cause
  unfold Hall.clearOutput
  rw [use]
  simp only []
  rw [Hall.recomposeDesks, recomposeAll_channels, freeing_channels (by simpa [kept] using used), setOutput_channels, kept]

theorem clearOutput_unused {h : Hall} {b : BoothId} {o : Out} (use : (h.output b o).use = none) (cause : ReleaseCause) :
    h.clearOutput b o cause = h := by
  simp only [Hall.clearOutput, use]

/-! ## A booth released (07 R126) -/

/-- After both outputs are cleared a release writes the floor alone: relays and tuned channels are of the desks. -/
theorem releaseBooth_booths (h : Hall) (b : BoothId) : (h.releaseBooth b).booths =
    ((h.clearOutput b .a .boothReleased).clearOutput b .b .boothReleased).booths.upd b
      fun r => { r with floor := none } := by
  unfold Hall.releaseBooth
  rw [Hall.retuneDesks, retune_booths]
  refine foldl_keeps (part := Hall.booths) (fun g n => ?_) _ _
  split
  · exact Hall.booths_of_sound (Sound.setDesk g n _)
  · rfl

theorem releaseBooth_spec (h : Hall) (b : BoothId) : ∃ outA outB, (h.releaseBooth b).booths.get b =
    { h.booths.get b with floor := none, outA := outA, outB := outB } ∧ outA.use = none ∧ outB.use = none := by
  have kept : (((h.clearOutput b .a .boothReleased).clearOutput b .b .boothReleased).booths.get b).setup =
      (h.booths.get b).setup :=
    setup_of_setups ((setups_clearOutput _ b .b _).trans (setups_clearOutput h b .a _)) b
  have cleared (o : Out) :
      (((h.clearOutput b .a .boothReleased).clearOutput b .b .boothReleased).output b o).use = none := by
    cases o <;> simp [clearOutput_output]
  simp only [Booth.setup, Prod.mk.injEq] at kept
  obtain ⟨-, policy, delay, desks⟩ := kept
  refine ⟨_, _, ?_, cleared .a, cleared .b⟩
  rw [releaseBooth_booths, Tbl.get_upd_self, policy, delay, desks]
  rfl

/-! ## A desk taken out of a list (07 R124) -/

theorem desk?_setDesk {h : Hall} {n : SeatId} {d : DeskFields} (held : h.desk? n = some d) (e : DeskFields) :
    (h.setDesk n e).desk? n = some e := by
  unfold Hall.setDesk
  rw [held]
  simp only []
  split
  next same => rw [held, same]
  · rw [Hall.desk?_of_desks (Desks.recompose _ n), Hall.retuneSeat, Hall.desk?_of_desks (Desks.retune _ _),
      Hall.desk?_of_desks (Desks.same (mark_seats _ n)), desk?_updSeat h held fun _ => rfl, if_pos rfl]

theorem removeDesk_desks (h : Hall) (b : BoothId) (n : SeatId) :
    ((Machine.removeDesk h b n).booths.get b).desks = (h.booths.get b).desks.filter fun m => m ≠ n := by
  have kept : ((h.deskLeaves n .deskRemoved).booths.get b).desks = (h.booths.get b).desks :=
    congrArg (fun x => x.2.2.2) (setup_of_setups (setups_deskLeaves h n .deskRemoved) b)
  unfold Machine.removeDesk
  simp only []
  rw [recompose_booths, Hall.retuneSeat, retune_booths, Machine.updBooth_booths, Tbl.get_upd_self]
  split
  · rw [Hall.booths_of_sound (Sound.setDesk _ n _), kept]
  · rw [kept]

/-- A desk without a booth hears FLOOR. -/
theorem removeDesk_relay (h : Hall) (b : BoothId) (n : SeatId) {d : DeskFields}
    (held : (Machine.removeDesk h b n).desk? n = some d) : d.relay = .floor := by
  unfold Machine.removeDesk at held
  simp only [] at held
  rw [Hall.desk?_of_desks (Desks.recompose _ n), Hall.retuneSeat, Hall.desk?_of_desks (Desks.retune _ _),
    Hall.desk?_of_desks (Desks.same (Machine.updBooth_seats _ b _))] at held
  split at held
  next e standing =>
    rw [desk?_setDesk standing] at held
    cases held
    rfl
  next none_ =>
    rw [none_] at held
    cases held

end Hall

namespace Machine

theorem exec_boothAssign {x y : Byte} {b : BoothId} {f : FloorId} {s : State} (h : s.takes) (hb : x.toNat = b.val + 1)
    (hf : y.toNat = f.val + 1) (unassigned : (s.world.hall.booths.get b).floor = none)
    (live : (s.world.hall.floor f).state = .live) :
    exec (.boothAssign x y) s = .next (s.answered 5 0x50#8 (done (inHall s.world
      ((updBooth s.world.hall b fun r => { r with floor := some f }).retuneDesks b)))) := by
  show execBoothAssign x y s = _
  refine request_answers h ?_
  rw [withBooth_eq hb, withFloor_eq hf, if_neg (by simp [unassigned, Floor.isLive, live])]

theorem exec_boothSet_handover {x delay : Byte} {b : BoothId} {s : State} (h : s.takes) (hb : x.toNat = b.val + 1)
    (short : delay.toNat ≤ 10) :
    exec (.boothSet x 1#8 delay) s = .next (s.answered 6 0x54#8 (done (inHall s.world
      (updBooth s.world.hall b fun r => { r with policy := .handover, delay := delay.toNat })))) := by
  show execBoothSet x 1#8 delay s = _
  refine request_answers h ?_
  rw [numbered_eq hb, within_eq (Nat.zero_le _) short]
  rfl

theorem exec_boothRelease {x : Byte} {b : BoothId} {s : State} (h : s.takes) (hb : x.toNat = b.val + 1)
    (assigned : (s.world.hall.booths.get b).floor ≠ none) :
    exec (.boothRelease x) s = .next (s.answered 4 0x55#8 (done (inHall s.world (s.world.hall.releaseBooth b)))) := by
  show execBoothRelease x s = _
  refine request_answers h ?_
  rw [withBooth_eq hb, if_pos (Option.isSome_iff_ne_none.mpr assigned)]

theorem exec_boothAddDesk {x : Byte} {y : Half} {b : BoothId} {n : SeatId} {r : Seat} {s : State} (h : s.takes)
    (hb : x.toNat = b.val + 1) (hn : y.toNat = n.val + 1) (held : s.world.hall.seat? n = some r) (role : r.role = .desk)
    (free : s.world.hall.boothOf n = none) (unlisted : (s.world.hall.booths.get b).desks.contains n = false)
    (room : (s.world.hall.booths.get b).desks.length < 4) :
    exec (.boothAddDesk x y) s = .next (s.answered 6 0x52#8 (done (inHall s.world
      (((updBooth s.world.hall b fun z => { z with desks := z.desks ++ [n] }).retuneSeat n).recompose n)))) := by
  show execBoothAddDesk x y s = _
  refine request_answers h ?_
  rw [withBoothSeat_eq hb hn held, if_neg (by simp [role]),
    if_neg (by rw [unlisted]; exact Bool.false_ne_true), if_neg (by simp [free]), if_neg (by omega)]

theorem exec_boothRemoveDesk {x : Byte} {y : Half} {b : BoothId} {n : SeatId} {r : Seat} {s : State} (h : s.takes)
    (hb : x.toNat = b.val + 1) (hn : y.toNat = n.val + 1) (held : s.world.hall.seat? n = some r)
    (listed : (s.world.hall.booths.get b).desks.contains n = true) :
    exec (.boothRemoveDesk x y) s =
      .next (s.answered 6 0x53#8 (done (inHall s.world (removeDesk s.world.hall b n)))) := by
  show execBoothRemoveDesk x y s = _
  refine request_answers h ?_
  rw [withBoothSeat_eq hb hn held, if_pos listed]

/-- Settles O48: the settings kept and written are followed by `Hall.setups`; a release clears both outputs
(`Hall.releaseBooth_spec`), and a desk that leaves is read back with relay source FLOOR (`Hall.removeDesk_relay`). -/
theorem boothRequests : Obligations.BoothRequests := by
  refine ⟨fun x y b f s h hb hf unassigned live => ?_, fun x delay b s h hb short => exec_boothSet_handover h hb short,
    fun x b f s h hb assigned => ?_, fun x y b n r s h hb hn held role free unlisted room => ?_,
    fun x y b n r s h hb hn held listed => ?_⟩
  · refine ⟨_, exec_boothAssign h hb hf unassigned live, ?_, ?_, (answered_port _ _ _ _).1⟩
    · simp [Hall.retuneDesks, Tbl.upd]
    · simp [Hall.retuneDesks]
  · obtain ⟨outA, outB, released, unusedA, unusedB⟩ := s.world.hall.releaseBooth_spec b
    refine ⟨_, exec_boothRelease h hb (by simp [assigned]), ?_⟩
    rw [State.answered_world, done_world, inHall_hall, released]
    exact ⟨rfl, unusedA, unusedB, rfl, rfl, rfl, (answered_port _ _ _ _).1⟩
  · refine ⟨_, exec_boothAddDesk h hb hn held role free unlisted room, ?_, ?_, (answered_port _ _ _ _).1⟩
    · simp [Hall.retuneSeat, Tbl.upd]
    · simp [Hall.retuneSeat]
  · refine ⟨_, exec_boothRemoveDesk h hb hn held listed, s.world.hall.removeDesk_desks b n, fun q d seated desk => ?_,
      (answered_port _ _ _ _).1⟩
    rw [State.answered_world, done_world, inHall_hall] at seated
    exact s.world.hall.removeDesk_relay b n (by rw [Hall.desk?, seated, Option.bind_some, desk])

end Machine

end Sys2Proof

/-! PROOFS. BOOTH_OUTPUT and the fallback delay (07 R118, R119, R121, R122, 06 R102, R103). An output enters a state together
with what its channel carries; that is one transition, made once by a delay's start or expiry and twice by a delay of 0. -/

namespace Sys2Proof

/-- Output o of booth b, in use for u, has entered a state, and its channel, in use for v, carries x: no other output or
channel changes, nor any floor or setting of a booth. -/
structure Hall.Enters (b : BoothId) (o : Out) (u : OutUse) (v : ChanUse) (st : OutState) (x : Content) (h g : Hall) :
    Prop where
  output : g.output b o = { h.output b o with use := some { u with state := st } }
  others : ∀ c p, ¬ (c = b ∧ p = o) → g.output c p = h.output c p
  channel : g.channels.get u.chan = ⟨some v, x⟩
  channels : ∀ d, d ≠ u.chan → g.channels.get d = h.channels.get d
  floors : g.floors = h.floors
  setups : g.setups = h.setups

namespace Hall

section

variable {h : Hall} {b : BoothId} {o : Out} {u : OutUse} {v : ChanUse} {f : FloorId}

/-- The state of an output and the content of its channel written (06 R104, 07 R118, R119). -/
theorem enters_outContent (use : (h.output b o).use = some u) (used : (h.channels.get u.chan).use = some v)
    (st : OutState) (x : Content) : Enters b o u v st x h ((h.setOutState b o st).outContent b o x) := by
  have moved : (h.setOutState b o st).output b o = { h.output b o with use := some { u with state := st } } := by
    rw [Hall.setOutState, output_setOutput, if_pos ⟨rfl, rfl⟩, use]
    rfl
  have carried (d : ChannelId) : ((h.setOutState b o st).outContent b o x).channels.get d =
      if d = u.chan then ⟨some v, x⟩ else h.channels.get d := by
    rw [outContent_eq (congrArg Output.use moved)]
    exact setContent_channel (h := h.setOutState b o st) used x d
  refine ⟨?_, fun c p elsewhere => ?_, ?_, fun d other => ?_, Hall.floors_of_talk (Talk.outContent _ b o x), ?_⟩
  · rw [output_of_booths (outContent_booths _ b o x), moved]
  · rw [output_of_booths (outContent_booths _ b o x), Hall.setOutState, output_setOutput, if_neg elsewhere]
  · rw [carried, if_pos rfl]
  · rw [carried, if_neg other]
  · exact (setups_of_booths (outContent_booths _ b o x)).trans (setups_setOutput h b o _)

/-- Of two states entered the second stands. -/
theorem Enters.trans {g k : Hall} {st sk : OutState} {x y : Content} (first : Enters b o u v st x h g)
    (next : Enters b o { u with state := st } v sk y g k) : Enters b o u v sk y h k where
  output := by rw [next.output, first.output]
  others c p elsewhere := (next.others c p elsewhere).trans (first.others c p elsewhere)
  channel := next.channel
  channels d other := (next.channels d other).trans (first.channels d other)
  floors := next.floors.trans first.floors
  setups := next.setups.trans first.setups

theorem Enters.serving {g : Hall} {st : OutState} {x : Content} (e : Enters b o u v st x h g) (c : BoothId) :
    g.serving c = h.serving c :=
  serving_of_setups e.setups e.floors c

/-- FALLBACK carries the serving floor's mix (07 R119). -/
theorem enters_fallback (use : (h.output b o).use = some u) (used : (h.channels.get u.chan).use = some v)
    (served : h.serving b = some f) : Enters b o u v .fallback (.floorMix f) h (h.enterFallback b o) := by
  have still : (h.setOutState b o .fallback).serving b = some f :=
    (serving_of_setups (setups_setOutput h b o _) rfl b).trans served
  have mixed := enters_outContent use used .fallback (.floorMix f)
  rw [← mixContent_eq still] at mixed
  exact ⟨mixed.output, mixed.others, mixed.channel, mixed.channels, mixed.floors, mixed.setups⟩

theorem enterFallback_stands (h : Hall) (b : BoothId) (o : Out) : (h.enterFallback b o).stands (.boothFallback b) = true :=
  Tbl.get_set_self _ _ _

/-- SILENT carries SILENCE, but for a delay of 0 (07 R118). -/
theorem enters_silent (use : (h.output b o).use = some u) (used : (h.channels.get u.chan).use = some v)
    (served : h.serving b = some f) :
    Enters b o u v (h.silence b) (if (h.booths.get b).delay = 0 then .floorMix f else .silence) h (h.enterSilent b o) := by
  have silent := enters_outContent use used (.silent ((h.booths.get b).delay * 10)) .silence
  unfold Hall.enterSilent Hall.silence
  simp only []
  split
  · exact silent.trans (enters_fallback (congrArg Output.use silent.output) (congrArg Channel.use silent.channel)
      ((silent.serving b).trans served))
  · exact silent

theorem enterSilent_stands (instant : (h.booths.get b).delay = 0) (o : Out) :
    (h.enterSilent b o).stands (.boothFallback b) = true := by
  simp only [Hall.enterSilent, instant, if_true]
  exact enterFallback_stands _ b o

/-! ## An output given a language (07 R121) -/

/-- An output in use for a language on a channel it has been allocated, SILENT from the start (07 R118). -/
def giveOutput (h : Hall) (b : BoothId) (o : Out) (l : Lang) (c : ChannelId) : Hall :=
  (h.setOutput b o { h.output b o with use := some ⟨l, c, .silent 0⟩ }).enterSilent b o

/-- What an output given on an allocated channel shows, beside the hall h before the allocation: the state and the content
of its delay, with the other outputs and channels as they were. -/
theorem giveOutput_spec {k : Hall} {c : ChannelId} (served : h.serving b = some f) (booths : k.booths = h.booths)
    (floors : k.floors = h.floors) (channels : k.channels = h.channels.set c ⟨some v, .silence⟩) (o : Out) (l : Lang) :
    ((k.giveOutput b o l c).output b o).use = some ⟨l, c, h.silence b⟩ ∧
      (∀ q, q ≠ o → (k.giveOutput b o l c).output b q = h.output b q) ∧
      (k.giveOutput b o l c).channels.get c =
        ⟨some v, if (h.booths.get b).delay = 0 then .floorMix f else .silence⟩ ∧
      (∀ d, d ≠ c → (k.giveOutput b o l c).channels.get d = h.channels.get d) ∧
      ((h.booths.get b).delay = 0 → (k.giveOutput b o l c).stands (.boothFallback b) = true) := by
  have kept : (k.setOutput b o { k.output b o with use := some ⟨l, c, .silent 0⟩ }).setups = h.setups :=
    (setups_setOutput k b o _).trans (setups_of_booths booths)
  have delay := delay_of_setups kept b
  have allocated : k.channels.get c = ⟨some v, .silence⟩ := by rw [channels, Tbl.get_set_self]
  have entered := enters_silent (h := k.setOutput b o { k.output b o with use := some ⟨l, c, .silent 0⟩ })
    (u := ⟨l, c, .silent 0⟩) (by rw [output_setOutput, if_pos ⟨rfl, rfl⟩]) (congrArg Channel.use allocated)
    ((serving_of_setups kept floors b).trans served)
  rw [Hall.silence, delay] at entered
  refine ⟨congrArg Output.use entered.output, fun q other => ?_, entered.channel, fun d other => ?_, fun instant => ?_⟩
  · have elsewhere : ¬ (b = b ∧ q = o) := fun here => other here.2
    rw [giveOutput, entered.others b q elsewhere, output_setOutput, if_neg elsewhere, output_of_booths booths]
  · rw [giveOutput, entered.channels d other, setOutput_channels, channels, Tbl.get_set_ne _ _ (Ne.symm other)]
  · exact enterSilent_stands (delay.trans instant) o

/-! ## What the checks of BOOTH_OUTPUT read (07 R116, R121) -/

/-- A language that no channel carries is taken on no floor, and no floor owns it (06 R106). -/
theorem language_free {l : Lang} (unspoken : ∀ d u, (h.channels.get d).use = some u → u.lang ≠ some l) (x : FloorId) :
    h.languageTaken x l = false ∧ h.ownsLanguage x l = false := by
  have silent (d : ChannelId) : ((h.channels.get d).use.elim false fun u => u.lang = some l) = false := by
    cases use : (h.channels.get d).use with
    | none => rfl
    | some u => simpa using unspoken d u use
  constructor
  · rw [Hall.languageTaken, Hall.carrying, Option.isSome_eq_false_iff, Option.isNone_iff_eq_none, Tbl.lowest_none]
    intro d
    rw [silent, Bool.and_false]
  · rw [Hall.ownsLanguage, Bool.eq_false_iff, Ne, Tbl.some?_iff]
    rintro ⟨d, owned⟩
    cases use : (h.channels.get d).use with
    | none => simp [use] at owned
    | some u =>
      have both : u.owner = x ∧ u.lang = some l := by simpa [use] using owned
      exact unspoken d u use both.2

/-- A booth is served by its floor while that is LIVE, and by the carrier while it is FOLDED (07 R116). -/
theorem serving_eq {g : FloorId} (home : (h.booths.get b).floor = some f)
    (state : (h.floor f).state = .live ∧ g = f ∨ (h.floor f).state = .folded g) : h.serving b = some g := by
  obtain ⟨live, rfl⟩ | folded := state
  · simp only [Hall.serving, home, live]
  · simp only [Hall.serving, home, folded]

end

end Hall

namespace Machine

/-! ## The requests -/

section

variable {w : World} {s : State} {x y : Byte} {b : BoothId} {o : Out} {f g : FloorId} {l : Lang} {c : ChannelId}

theorem outOf_eq (code : y = if o = .a then 0#8 else 1#8) : outOf y = some o := by
  subst code
  cases o <;> rfl

/-- BOOTH_OUTPUT with a language, once its checks pass: the channel allocated, the output given it, SILENT entered. -/
theorem outputRequest_given {h : Hall} {want : Option ChannelId} (home : (w.hall.booths.get b).floor = some f)
    (unused : (w.hall.output b o).use = none)
    (unspoken : ∀ d u, (w.hall.channels.get d).use = some u → u.lang ≠ some l)
    (given : w.hall.allocate want f (.output b o) l = some (h, c)) : outputRequest w b o l want =
      ⟨inHall w (h.giveOutput b o l c), .ok, .outputChannel c⟩ := by
  have untaken : ((w.hall.serving b).elim false fun x => w.hall.languageTaken x l) = false := by
    cases w.hall.serving b with
    | none => rfl
    | some x => exact (Hall.language_free unspoken x).1
  unfold outputRequest
  rw [home]
  simp only [unused, untaken, (Hall.language_free unspoken f).2, given, Option.isSome_none, Bool.or_false,
    Bool.false_eq_true, if_false]
  rfl

theorem exec_boothOutput {lang cb : Byte} {want : Option ChannelId} (h : s.takes) (hb : x.toNat = b.val + 1)
    (ho : y = if o = .a then 0#8 else 1#8) (hl : lang.toNat = l.val) (foreign : l.val ≠ 0)
    (hc : outputChannelOf cb = some want) :
    exec (.boothOutput x y lang cb) s = .next (s.answered 7 0x51#8 (outputRequest s.world b o l want)) := by
  have named : lang ≠ 0xFF#8 := by
    rintro rfl
    exact absurd hl (by simp; omega)
  show execBoothOutput x y lang cb s = _
  refine request_answers h ?_
  simp only [named, if_false, numbered_eq hb, outOf_eq ho, indexed_eq hl, hc, foreign]

theorem exec_boothOutputClear (h : s.takes) (hb : x.toNat = b.val + 1) (ho : y = if o = .a then 0#8 else 1#8)
    (home : (s.world.hall.booths.get b).floor = some f) : exec (.boothOutputClear x y) s =
      .next (s.answered 7 0x51#8 (done (inHall s.world (s.world.hall.clearOutput b o .outputCleared)))) := by
  show execBoothOutputClear x y s = _
  refine request_answers h ?_
  simp only [clearRequest, numbered_eq hb, outOf_eq ho, home, Option.isNone_some, Bool.false_eq_true, if_false]

theorem exec_fallbackDelayExpiry {u : OutUse} {left : Nat} (use : (s.world.hall.output b o).use = some u)
    (silent : u.state = .silent left) : exec (.fallbackDelayExpiry b o) s =
      .next (s.after (inHall s.world (s.world.hall.enterFallback b o))) := by
  have expires : fallbackExpires s.world.hall b o = s.world.hall.enterFallback b o := by
    simp only [fallbackExpires, use, silent]
  show execFallbackDelayExpiry b o s = _
  rw [execFallbackDelayExpiry, event_next, expires]

/-- The channel argument of BOOTH_OUTPUT names a FREE channel, or asks for the lowest (06 R102). -/
theorem outputChannelOf_takes {h : Hall} {cb : Byte} (free : (h.channels.get c).use = none)
    (wanted : cb = 0xFF#8 ∧ (∀ d, d < c → (h.channels.get d).use ≠ none) ∨ cb.toNat = c.val) :
    ∃ want, outputChannelOf cb = some want ∧ h.freeChannel want = some c := by
  obtain ⟨rfl, below⟩ | named := wanted
  · exact ⟨none, rfl, Hall.freeChannel_eq free (.inl ⟨rfl, below⟩)⟩
  · have one : cb ≠ 0xFF#8 := by
      rintro rfl
      exact absurd named (by simp; omega)
    refine ⟨some c, ?_, Hall.freeChannel_eq free (.inr rfl)⟩
    simp only [outputChannelOf, one, if_false, indexed_eq named, Option.map_some]

end

/-- Settles O49: a language goes to the channel `Hall.allocate_output` fills, and the output shows what its delay says
(`Hall.giveOutput_spec`); a clearing is `Hall.clearOutput_output` with its channel freed, and an expiry enters FALLBACK
(`Hall.enters_fallback`). -/
theorem boothOutputs : Obligations.BoothOutputs := by
  refine ⟨fun x y lang cb b o f g hold l c s h hb ho hl foreign home floor unused unspoken free wanted => ?_,
    fun x y b o f u s h hb ho home use used => ?_, fun x y b o f s h hb ho home unused => ?_,
    fun b o u left f v s use silent served used => ?_⟩
  · have served := Hall.serving_eq home (floor.imp (fun live => ⟨live.1, live.2.1⟩) fun folded => folded.1)
    obtain ⟨want, hc, taken⟩ := outputChannelOf_takes free wanted
    obtain ⟨k, given, booths, floors, channels⟩ := Hall.allocate_output taken
      (floor.imp (fun live => ⟨live.1, live.2.2⟩) fun folded => ⟨g, folded.1, folded.2⟩) b o l
    have run := exec_boothOutput h hb ho hl foreign hc
    rw [outputRequest_given home unused unspoken given] at run
    obtain ⟨state, others, channel, rest, raised⟩ := Hall.giveOutput_spec served booths floors channels o l
    exact ⟨_, run, state, others, channel, rest, raised, (answered_port _ _ _ _).1⟩
  · refine ⟨_, exec_boothOutputClear h hb ho home, ?_⟩
    rw [State.answered_world, done_world, inHall_hall]
    refine ⟨?_, ?_, fun q other => ?_, Hall.clearOutput_channels use used _, (answered_port _ _ _ _).1⟩
    · rw [Hall.clearOutput_output, if_pos ⟨rfl, rfl⟩]
    · rw [Hall.clearOutput_output, if_pos ⟨rfl, rfl⟩]
      cases state : u.state <;> simp [Output.liveDesk, use, state]
    · rw [Hall.clearOutput_output, if_neg fun here => other here.2]
  · rw [exec_boothOutputClear h hb ho home, Hall.clearOutput_unused unused]
    rfl
  · have entered := Hall.enters_fallback use used served
    exact ⟨_, exec_fallbackDelayExpiry use silent, congrArg Output.use entered.output, entered.channel,
      Hall.enterFallback_stands _ b o, entered.floors⟩

end Machine

end Sys2Proof

/-! PROOFS. The reads of booths, channels and chains (06 R110, 07 R125, 09 R172): each answers with the world as it was. -/

namespace Sys2Proof.Machine

/-- Two updates of one channel have one target, whichever of them pends (06 R112). -/
theorem sameTarget_channel (c : ChannelId) (x : Content) (u : RouteUpdate) :
    (RouteUpdate.channel c x).sameTarget u = (match u with | .channel d _ => decide (d = c) | .slot _ _ => false) := by
  cases u with
  | slot n v => rfl
  | channel d y => exact decide_eq_decide.mpr eq_comm

theorem targetOf_ring (r : RingId) : targetOf (if r = 0 then 0x0A#8 else 0x0B#8) = some (.ring r) := by
  revert r
  decide

/-- A paired ring named by its code is its primary port (09 R156). -/
theorem withTarget_ring {w : World} {b : Byte} {r : RingId} (code : b = if r = 0 then 0x0A#8 else 0x0B#8)
    (joined : (w.ring r).state ≠ .linear) (k : PortId → Handled) : withTarget w b k = k (primaryPort r) := by
  have pair : paired w.chain r = true := by simpa [paired, World.ring] using joined
  subst code
  simp only [withTarget, targetOf_ring, pair, if_true]

/-- A poll entry of a ring's primary port is reported with its row of the ring's last test (09 R172). -/
theorem entryReport_primary (w : World) (r : RingId) (e : PollEntry) : w.entryReport (primaryPort r) e =
    ⟨e, (w.hall.seat? e.seat).map (·.reach), (w.ring r).lastTest.bind fun t => t.answered e⟩ := by
  rw [World.entryReport, World.ringOfPort_primary]

theorem exec_boothRead {x : Byte} {b : BoothId} {s : State} (h : s.takes) (hb : x.toNat = b.val + 1) :
    exec (.boothRead x) s = .next (s.answered 4 0x56#8 ⟨s.world, .ok,
      .booth (s.world.hall.booths.get b).floor (s.world.hall.serving b) (s.world.hall.booths.get b).policy
        (s.world.hall.booths.get b).delay ((s.world.hall.booths.get b).desks.map (deskReport s.world.hall))
        (outputReport (s.world.hall.booths.get b).outA) (outputReport (s.world.hall.booths.get b).outB)⟩) := by
  show execBoothRead x s = _
  exact request_answers h (withBooth_eq hb _)

theorem exec_channelRead {x : Byte} {c : ChannelId} {s : State} (h : s.takes) (hc : x.toNat = c.val) :
    exec (.channelRead x) s = .next (s.answered 4 0x57#8 ⟨s.world, .ok, s.world.hall.channelPayload c⟩) := by
  have one : x ≠ 0xFF#8 := by
    rintro rfl
    exact absurd hc (by simp; omega)
  show execChannelRead x s = _
  refine request_answers h ?_
  simp only [one, if_false, indexed_eq hc]

theorem exec_channelRead_all {s : State} (h : s.takes) :
    exec (.channelRead 0xFF#8) s = .next (s.answered 4 0x57#8 ⟨s.world, .ok, s.world.hall.channelsPayload⟩) := by
  show execChannelRead 0xFF#8 s = _
  exact request_answers h (if_pos rfl)

/-- CHAIN_READ of a target that stands for a port, from an address in its range (09 R172). -/
theorem exec_chainRead {x a : Byte} {p : PortId} {s : State} (h : s.takes)
    (target : ∀ k, withTarget s.world x k = k p) (lo : 1 ≤ a.toNat) (hi : a.toNat ≤ 64) :
    exec (.chainRead x a) s = .next (s.answered 5 0x64#8 ⟨s.world, .ok, s.world.chainPayload p a.toNat⟩) := by
  show execChainRead x a s = _
  refine request_answers h ?_
  simp only [target, within_eq lo hi]

/-- Settles O50: each read answers with its payload as the model composes it; an unpaired port has no ring part
(`World.ringAt_linear`), and a ring's is that of its primary port (`World.ringAt_primary`). -/
theorem boothChannelAndChainReads : Obligations.BoothChannelAndChainReads := by
  refine ⟨fun x b s h hb => ?_, fun x c s h hc => ⟨_, _, rfl, rfl, ?_⟩, fun s h => exec_channelRead_all h,
    fun x a p s h hp alone lo hi => ?_, fun x a r s h code joined lo hi => ⟨_, rfl, ?_⟩⟩
  · refine ⟨_, _, _, _, exec_boothRead h hb, rfl, rfl, ?_, rfl, rfl⟩
    rw [List.map_map]
    exact List.map_id _
  · have target : (RouteUpdate.channel c .silence).sameTarget = _ := funext (sameTarget_channel c .silence)
    rw [exec_channelRead h hc, Hall.channelPayload, target]
    rfl
  · rw [exec_chainRead h (withTarget_port hp alone) lo hi, World.chainPayload, World.ringAt_linear alone]
    rfl
  · have rows : s.world.entryReport (primaryPort r) = _ := funext (entryReport_primary s.world r)
    rw [exec_chainRead h (withTarget_ring code joined) lo hi, World.chainPayload, World.ringAt_primary joined, rows]
    rfl

end Sys2Proof.Machine

/-! PROOFS. The Chain Controller (chapter 9): the pairing of a ring's ports, loop tests and their results, polls, enrolments and
chain resets. First what each operation leaves at its port and its ring, then what each command answers. -/

namespace Sys2Proof.Machine

/-! ## The pairing of a ring's ports (09 R157) -/

theorem paired_joined {w : World} {k : RingId} (joined : (w.ring k).state ≠ .linear) : paired w.chain k = true := by
  simpa [paired, World.ring] using joined

theorem pairPorts_linear {w : World} {k : RingId} (alone : (w.ring k).state = .linear) :
    pairPorts w k = w.updRing k fun x => { x with state := .untested } := by
  rw [pairPorts, paired_linear alone, if_neg Bool.false_ne_true]

theorem pairPorts_joined {w : World} {k : RingId} (joined : (w.ring k).state ≠ .linear) : pairPorts w k = w := by
  rw [pairPorts, if_pos (paired_joined joined)]

theorem unpairPorts_joined {w : World} {k : RingId} (joined : (w.ring k).state ≠ .linear) :
    unpairPorts w k = w.updRing k fun x =>
      { x with state := .linear, lastLoop := none, lastTest := none, inFlight := false, periodic := none, run := none } := by
  rw [unpairPorts, if_pos (paired_joined joined)]

theorem unpairPorts_linear {w : World} {k : RingId} (alone : (w.ring k).state = .linear) : unpairPorts w k = w := by
  rw [unpairPorts, paired_linear alone, if_neg Bool.false_ne_true]

theorem ringOf_code (k : RingId) : ringOf (if k = 0 then 0x0A#8 else 0x0B#8) = some k := by
  revert k
  decide

theorem ringOf_none {b : Byte} (notA : b ≠ 0x0A#8) (notB : b ≠ 0x0B#8) : ringOf b = none := by
  rw [ringOf, if_neg notA, if_neg notB]

theorem onOffOf_some {v : Nat} (small : v < 2) : onOffOf v = some (decide (v = 1)) := by
  obtain rfl | rfl : v = 0 ∨ v = 1 := by omega
  · rfl
  · rfl

theorem onOffOf_none {v : Nat} (large : 2 ≤ v) : onOffOf v = none := by
  unfold onOffOf
  split
  · omega
  · omega
  · rfl

section

variable {b v : Byte} {k : RingId} {s : State}

theorem exec_chainConfig_idle {on : Bool} (h : s.takes) (code : b = if k = 0 then 0x0A#8 else 0x0B#8)
    (value : onOffOf v.toNat = some on) (primary : (s.world.port (primaryPort k)).state = .idle)
    (secondary : (s.world.port (secondaryPort k)).state = .idle) : exec (.chainConfig b v) s =
      .next (s.answered 5 0x60#8 (done (if on then pairPorts s.world k else unpairPorts s.world k))) := by
  subst code
  show execChainConfig _ v s = _
  refine request_answers h ?_
  simp only [ringOf_code, value, primary, secondary, ne_eq, not_true_eq_false, or_self, if_false]

theorem exec_chainConfig_busy (h : s.takes) (code : b = if k = 0 then 0x0A#8 else 0x0B#8) (value : v.toNat < 2)
    (busy : (s.world.port (primaryPort k)).state ≠ .idle ∨ (s.world.port (secondaryPort k)).state ≠ .idle) :
    exec (.chainConfig b v) s = .next (s.answered 5 0x60#8 ⟨s.world, .wrongState, .empty⟩) := by
  subst code
  show execChainConfig _ v s = _
  refine request_answers h ?_
  simp only [ringOf_code, onOffOf_some value, busy, if_true]
  rfl

theorem exec_chainConfig_bad (h : s.takes) (bad : ringOf b = none ∨ onOffOf v.toNat = none) :
    exec (.chainConfig b v) s = .next (s.answered 5 0x60#8 ⟨s.world, .badArgument, .empty⟩) := by
  show execChainConfig b v s = _
  refine request_answers h ?_
  obtain ring | value := bad
  · simp only [ring]
    rfl
  · simp only [value]
    cases ringOf b <;> rfl

end

/-- Settles O55: on IDLE ports the request is `pairPorts` or `unpairPorts`, which write the one ring or nothing; the refusals
are `exec_chainConfig_bad` and `exec_chainConfig_busy`. -/
theorem chainConfig : Obligations.ChainConfig := by
  refine ⟨fun b k s h code primary secondary alone => ?_, fun b k s h code primary secondary joined => ?_,
    fun b v k s h code primary secondary still => ?_, fun b v s h bad => ?_,
    fun b v k s h code value busy => exec_chainConfig_busy h code value busy⟩
  · have run := exec_chainConfig_idle (v := 1#8) h code rfl primary secondary
    rw [if_pos rfl, pairPorts_linear alone] at run
    refine ⟨_, run, ?_⟩
    simp only [State.answered_world, done]
    exact ⟨World.ring_updRing_self _ _ _, fun j ne => (World.ring_updRing _ _ _ _).trans (if_neg ne.symm), rfl, rfl, rfl⟩
  · have run := exec_chainConfig_idle (v := 0#8) h code rfl primary secondary
    rw [if_neg Bool.false_ne_true, unpairPorts_joined joined] at run
    refine ⟨_, run, ?_⟩
    simp only [State.answered_world, done]
    refine ⟨?_, ?_, ?_, fun j ne => ?_, rfl, rfl, rfl⟩
    · rw [World.ring_updRing_self]
    · rw [World.ring_updRing_self]
    · rw [World.ring_updRing_self]
    · rw [World.ring_updRing, if_neg ne.symm]
  · obtain ⟨rfl, joined⟩ | ⟨rfl, alone⟩ := still
    · rw [exec_chainConfig_idle h code rfl primary secondary, if_pos rfl, pairPorts_joined joined]
      rfl
    · rw [exec_chainConfig_idle h code rfl primary secondary, if_neg Bool.false_ne_true, unpairPorts_linear alone]
      rfl
  · refine exec_chainConfig_bad h ?_
    obtain ⟨notA, notB⟩ | large := bad
    · exact .inl (ringOf_none notA notB)
    · exact .inr (onOffOf_none large)

end Sys2Proof.Machine

namespace Sys2Proof

/-! ## Attention items that stand -/

/-- A reach stored leaves every attention item standing. -/
theorem Hall.stands_setReach {h : Hall} {i : AttnItem} (stands : h.stands i = true) (n : SeatId) (x : Reach) :
    (h.setReach n x).stands i = true := by
  unfold Hall.setReach
  split
  · split
    · exact stands
    · exact Hall.stands_updSeat_mark stands n _
  · exact stands

theorem Hall.stands_allPrimary {h : Hall} {i : AttnItem} (stands : h.stands i = true) (p : PortId) :
    (h.allPrimary p).stands i = true :=
  foldl_rel (R := fun g g' : Hall => g.stands i = true → g'.stands i = true) (fun _ => id)
    (fun _ _ _ x y z => y (x z)) (fun _ n z => Hall.stands_setReach z n .primary) (h.seatsOf p) h stands

theorem Hall.stands_raise (h : Hall) (i : AttnItem) : (h.raise i).stands i = true := by
  simp [Hall.stands]

end Sys2Proof

namespace Sys2Proof.World

/-! ## Ring states (09 R163 to R165) -/

/-- A port record after a change of its ring's state: but for poll entries and second try it is as before. -/
def SameButPolls (x y : PortRec) : Prop :=
  y = { x with entries := y.entries, retry := y.retry }

/-- A ring state set: the ring's record has it and is else as before, the ports keep all but poll entries and second try, and
a change is raised (09 R165). -/
theorem setRing_spec (w : World) (k : RingId) (st : RingState) :
    (w.setRing k st).ring k = { w.ring k with state := st } ∧
      (∀ p, SameButPolls (w.port p) ((w.setRing k st).port p)) ∧
      ((w.ring k).state ≠ st → (w.setRing k st).hall.stands (.ringChanged k) = true) := by
  by_cases same : (w.ring k).state = st
  · rw [World.setRing, if_pos same]
    exact ⟨by rw [← same], fun _ => rfl, fun change => absurd same change⟩
  · rw [World.setRing, if_neg same]
    have ports : ∀ p, SameButPolls (w.port p) (((w.updRing k fun x => { x with state := st }).updPort (primaryPort k)
        fun x => x.ringSet ((w.ring k).state.clearsSecondary st)).port p) := by
      intro p
      rw [port_updPort]
      split
      next here =>
        subst here
        rfl
      · rfl
    dsimp only
    split
    · exact ⟨ring_updRing_self _ _ _, ports, fun _ => Hall.stands_allPrimary (Hall.stands_raise _ _) _⟩
    · exact ⟨ring_updRing_self _ _ _, ports, fun _ => Hall.stands_raise _ _⟩

/-! ## The result of a loop test (09 R164, R165) -/

/-- The ring state that a result leads to on a paired ring. -/
def resultState (passed : Bool) : RingState :=
  if passed then .closed else .opened

/-- The report of counted seats reaches no ring. -/
theorem reportCounted_ring (w : World) (p : PortId) (k : RingId) : (w.reportCounted p).ring k = w.ring k :=
  foldl_keeps (part := fun g : World => g.ring k) (fun g a => (reportMissing_chain g p a).1 k) _ w

/-- The state, the enrolment and the waiting RELEASE_ALL of a port: what decides how it goes on after a loop test. -/
def ongoing (w : World) (p : PortId) : PortState × Option Enrolment × Bool :=
  ((w.port p).state, (w.port p).enrol, (w.port p).releasePending)

theorem setRing_ongoing (w : World) (k : RingId) (st : RingState) (p : PortId) :
    (w.setRing k st).ongoing p = w.ongoing p := by
  obtain ⟨-, ports, -⟩ := setRing_spec w k st
  rw [ongoing, ports p]
  rfl

theorem reportCounted_ongoing (w : World) (q p : PortId) : (w.reportCounted q).ongoing p = w.ongoing p := by
  obtain ⟨state, enrol, -, pending⟩ := port_of_course (Course.reportCounted (p := p) w q)
  rw [ongoing, state, enrol, pending]
  rfl

/-- A result on a paired ring: the ring has the state it leads to and is else as before, its ports go on as before, and a
change is raised. -/
theorem loopResult_spec {w : World} {k : RingId} (joined : (w.ring k).state ≠ .linear) (passed : Bool) :
    (w.loopResult k passed).ring k = { w.ring k with state := resultState passed } ∧
      (∀ p, (w.loopResult k passed).ongoing p = w.ongoing p) ∧
      ((w.ring k).state ≠ resultState passed → (w.loopResult k passed).hall.stands (.ringChanged k) = true) := by
  unfold World.loopResult
  split
  next alone => exact absurd alone joined
  next closed =>
    refine ⟨?_, reportCounted_ongoing w _, fun change => absurd closed change⟩
    rw [reportCounted_ring, resultState, if_pos rfl, ← closed]
  · obtain ⟨ring, -, raised⟩ := setRing_spec w k .closed
    exact ⟨ring, setRing_ongoing w k .closed, raised⟩
  · obtain ⟨ring, -, raised⟩ := setRing_spec w k .opened
    exact ⟨ring, setRing_ongoing w k .opened, raised⟩

/-- On a RUNNING ring with no ring test, no enrolment and no RELEASE_ALL waiting, the result of a loop test is recorded,
leads to the ring state, and restarts the periodic timer; nothing more is due. -/
theorem loopEnded_running {w : World} {k : RingId} (flight : (w.ring k).inFlight = true)
    (joined : (w.ring k).state ≠ .linear) (untested : (w.ring k).run = none)
    (running : (w.port (primaryPort k)).state = .running) (enrol : (w.port (primaryPort k)).enrol = none)
    (pending : (w.port (primaryPort k)).releasePending = false) (passed : Bool) :
    (w.loopEnded k passed).ring k = { w.ring k with
        inFlight := false, state := resultState passed, lastLoop := some (passed, w.clock), periodic := some 10 } ∧
      ((w.ring k).state ≠ resultState passed → (w.loopEnded k passed).hall.stands (.ringChanged k) = true) := by
  have recorded : (w.recordLoop k passed).ring k =
      { w.ring k with inFlight := false, lastLoop := some (passed, w.clock) } := by
    rw [World.recordLoop, ring_updRing_self, untested, Option.map_none, ← untested]
  obtain ⟨ring, ports, raised⟩ := loopResult_spec (w := w.recordLoop k passed) (by rw [recorded]; exact joined) passed
  rw [recorded] at ring raised
  have port : ((w.recordLoop k passed).loopResult k passed).ongoing (primaryPort k) = (.running, none, false) := by
    rw [ports, ← running, ← enrol, ← pending]
    rfl
  obtain ⟨running', enrol', pending'⟩ : _ ∧ _ ∧ _ := by simpa only [ongoing, Prod.mk.injEq] using port
  have run' := congrArg RingRec.run ring
  have goesOn : (((w.recordLoop k passed).loopResult k passed).setPeriodic k).TestGoesOn (primaryPort k) :=
    .of_none (by rw [ringOfPort_primary, World.setPeriodic, ring_updRing_self]; exact run'.trans untested)
  have ends : w.loopEnded k passed = ((w.recordLoop k passed).loopResult k passed).setPeriodic k := by
    rw [World.loopEnded, if_pos flight]
    exact afterLoop_running (w := World.setPeriodic _ k) running' enrol' pending' goesOn passed
  rw [ends, World.setPeriodic, ring_updRing_self, if_pos running', ring]
  exact ⟨rfl, raised⟩

end Sys2Proof.World

namespace Sys2Proof.Machine

theorem exec_loopTimeout (k : RingId) (s : State) :
    exec (.loopTimeout k) s = .next (s.after (s.world.loopEnded k false)) := rfl

/-- Settles O60: arrival and time-out both end the loop test (`World.loopEnded_running`), with the result `true` and
`false`. -/
theorem loopResult : Obligations.LoopResult := by
  intro k s flight joined untested running enrol pending
  have result := World.loopEnded_running flight joined untested running enrol pending
  obtain ⟨arrived, closes⟩ := result true
  obtain ⟨expired, opens⟩ := result false
  exact ⟨⟨_, exec_loopArrival_due k s, congrArg RingRec.state arrived, congrArg RingRec.inFlight arrived,
      congrArg RingRec.lastLoop arrived, congrArg RingRec.periodic arrived, closes⟩,
    ⟨_, exec_loopTimeout k s, congrArg RingRec.state expired, congrArg RingRec.inFlight expired,
      congrArg RingRec.lastLoop expired, congrArg RingRec.periodic expired, opens⟩⟩

/-! ## Loop tests that start (09 R164, R166) -/

/-- RING_TEST on a paired RUNNING ring with no ring test: a ring test waits for the loop test started. -/
theorem exec_ringTest {b : Byte} {k : RingId} {s : State} (h : s.takes) (code : b = if k = 0 then 0x0A#8 else 0x0B#8)
    (joined : (s.world.ring k).state ≠ .linear) (running : (s.world.port (primaryPort k)).state = .running)
    (untested : (s.world.ring k).run = none) : exec (.ringTest b) s = .next (s.answered 4 0x65#8
      ⟨(s.world.updRing k fun x => { x with run := some ⟨none, []⟩ }).startLoop k, .accepted, .empty⟩) := by
  show execRingTest b s = _
  refine request_answers h ?_
  rw [withTarget_ring code joined]
  simp only [World.ringAt_primary joined, running, untested, ne_eq, not_true_eq_false, if_false, Option.isSome_none,
    Bool.false_eq_true]

/-- The periodic timer expires: it stops, and in RING_CLOSED and RING_OPEN a loop test starts. -/
theorem exec_periodicLoopTest {k : RingId} {n : Nat} {s : State} (timer : (s.world.ring k).periodic = some n) :
    exec (.periodicLoopTest k) s = .next (s.after
      (if (s.world.ring k).state = .closed ∨ (s.world.ring k).state = .opened then
        (s.world.updRing k fun x => { x with periodic := none }).startLoop k
      else s.world.updRing k fun x => { x with periodic := none })) := by
  show execPeriodicLoopTest k s = _
  simp only [execPeriodicLoopTest, event_next, timer, Option.isSome_some, if_true]

/-- Settles O59: `World.startLoop_spec` on the ring once the ring test is entered, or the timer stopped. -/
theorem loopTestStarts : Obligations.LoopTestStarts := by
  refine ⟨fun b k s h code joined running untested quiet => ?_, fun k n s timer closed quiet => ?_,
    fun k n s timer flight => ?_⟩
  · obtain ⟨hall, -, inFlight, starts, -⟩ :=
      World.startLoop_spec (s.world.updRing k fun x => { x with run := some ⟨none, []⟩ }) k
    have run := (World.ring_of_course (World.Course.startLoop (p := primaryPort k)
      (s.world.updRing k fun x => { x with run := some ⟨none, []⟩ }) k) k).2
    rw [World.ring_updRing_self] at starts run
    obtain ⟨number, sent⟩ := starts quiet
    exact ⟨_, exec_ringTest h code joined running untested, number, inFlight, run, sent, hall, rfl⟩
  · obtain ⟨hall, -, inFlight, starts, -⟩ :=
      World.startLoop_spec (s.world.updRing k fun x => { x with periodic := none }) k
    rw [World.ring_updRing_self] at starts
    obtain ⟨number, sent⟩ := starts quiet
    have step := exec_periodicLoopTest timer
    rw [if_pos (.inl closed)] at step
    exact ⟨_, step, number, inFlight, hall, sent⟩
  · obtain ⟨-, -, -, -, stays⟩ := World.startLoop_spec (s.world.updRing k fun x => { x with periodic := none }) k
    rw [World.ring_updRing_self] at stays
    refine ⟨_, exec_periodicLoopTest timer, ?_⟩
    rw [stays flight, ite_self, State.after_world, World.ring_updRing_self]
    exact ⟨rfl, rfl⟩

end Sys2Proof.Machine

namespace Sys2Proof.World

/-! ## The poll that a port begins (09 R160, R161, R164 to R166, R168) -/

section

variable {w : World} {p : PortId}

/-- A port polls while no exchange is open and no loop test of its ring is in flight (09 R164). -/
def Free (w : World) (p : PortId) : Prop :=
  (w.port p).wait = none ∧ ((w.ringAt p).isSome && w.loopInFlight p) = false

theorem Free.of_linear (alone : (w.ring (ringOfPort p)).state = .linear) (wait : (w.port p).wait = none) :
    w.Free p := by
  refine ⟨wait, ?_⟩
  rw [ringAt_linear alone]
  rfl

theorem Free.of_quiet (quiet : (w.ring (ringOfPort p)).inFlight = false) (wait : (w.port p).wait = none) :
    w.Free p := by
  refine ⟨wait, ?_⟩
  rw [World.loopInFlight, quiet, Bool.and_false]

theorem nextPoll_running (free : w.Free p) (running : (w.port p).state = .running)
    (untested : (w.ring (ringOfPort p)).run = none) : w.nextPoll p = w.normalPoll p := by
  obtain ⟨wait, quiet⟩ := free
  simp only [World.nextPoll, wait, quiet, running, untested, Option.isSome_none, Bool.or_self, Bool.false_eq_true,
    if_false]

theorem nextPoll_testing {run : RingRun} (free : w.Free p) (running : (w.port p).state = .running)
    (tested : (w.ring (ringOfPort p)).run = some run) : w.nextPoll p = run.next (w.port p).entries := by
  obtain ⟨wait, quiet⟩ := free
  simp only [World.nextPoll, wait, quiet, running, tested, Option.isSome_none, Bool.or_self, Bool.false_eq_true,
    if_false]

theorem nextPoll_enrolling {n : Enrolment} {after : Nat} (free : w.Free p) (enrolling : (w.port p).state = .enrolling)
    (enrol : (w.port p).enrol = some n) (stage : n.stage = .polling after) :
    w.nextPoll p = ((w.port p).entries.find? fun e => after < e.address).map fun e => ⟨e.address, .primary, false⟩ := by
  obtain ⟨wait, quiet⟩ := free
  simp only [World.nextPoll, wait, quiet, enrolling, PortRec.stage?, enrol, stage, Option.isSome_none, Bool.or_self,
    Option.map_some, Bool.false_eq_true, if_false]

theorem nextPoll_inFlight {k : RingId} (joined : (w.ring k).state ≠ .linear) (flight : (w.ring k).inFlight = true) :
    w.nextPoll (primaryPort k) = none := by
  have busy : w.loopInFlight (primaryPort k) = true := by rw [World.loopInFlight, ringOfPort_primary, flight]
  simp only [World.nextPoll, ringAt_primary joined, busy, Option.isSome_some, Bool.and_self, Bool.or_true, if_true]

theorem find_above_none {es : List PollEntry} {a : Nat} (below : ∀ x, x ∈ es → x.address ≤ a) :
    es.find? (fun x => a < x.address) = none := by
  simpa [List.find?_eq_none] using below

/-- The entry next above the cursor, and with none above it the first (09 R161). -/
theorem entry_due {es : List PollEntry} {cursor : Nat} {e : PollEntry}
    (due : es.find? (fun x => cursor < x.address) = some e ∨
      (∀ x, x ∈ es → x.address ≤ cursor) ∧ es.head? = some e) :
    (es.find? fun x => cursor < x.address).or es.head? = some e := by
  obtain above | ⟨below, first⟩ := due
  · rw [above, Option.some_or]
  · rw [find_above_none below, Option.none_or, first]

theorem normalPoll_first {e : PollEntry} (once : (w.port p).retry = none)
    (due : ((w.port p).entries.find? fun x => (w.port p).cursor < x.address).or (w.port p).entries.head? = some e) :
    w.normalPoll p = some ⟨e.address, w.firstVia p e.seat, false⟩ := by
  simp only [World.normalPoll, once, Option.bind_none, due, Option.map_some]

theorem normalPoll_second {e : PollEntry} (again : (w.port p).retry = some e.address)
    (entry : w.entry? p e.address = some e) :
    w.normalPoll p = some ⟨e.address, (w.firstVia p e.seat).other, false⟩ := by
  simp only [World.normalPoll, again, Option.bind_some, entry]

theorem firstVia_eq {n : SeatId} {r : Seat} (held : w.hall.seat? n = some r) :
    w.firstVia p n = if (w.ring (ringOfPort p)).state = .opened then r.reach else .primary := by
  rw [World.firstVia, held]
  rfl

/-- The first row of a ring test not yet polled from both ends, primary first, is the next (09 R166). -/
theorem next_row {run : RingRun} {pre post : List RingTestRow} {row : RingTestRow} {e : PollEntry}
    {es : List PollEntry} (rows : run.rows = pre ++ row :: post)
    (polled : ∀ x, x ∈ pre → x.viaPrimary ≠ none ∧ x.viaSecondary ≠ none) (address : row.address = e.address)
    (seat : row.seat = e.seat) (left : row.viaPrimary = none ∨ row.viaSecondary = none) (mem : e ∈ es) :
    run.next es = some ⟨e.address, if row.viaPrimary = none then .primary else .secondary, true⟩ := by
  have listed : (es.any fun x => x.address = row.address && x.seat = row.seat) = true :=
    List.any_eq_true.mpr ⟨e, mem, by simp [address, seat]⟩
  refine List.findSome?_eq_some_iff.mpr ⟨pre, row, post, rows, ?_, fun x before => ?_⟩
  · rw [if_pos listed, address]
    cases first : row.viaPrimary with
    | none => rfl
    | some answered =>
      have second : row.viaSecondary = none := left.resolve_left (by simp [first])
      simp [second]
  · obtain ⟨first, second⟩ := polled x before
    simp [Option.isNone_eq_false_iff.mpr (Option.isSome_iff_ne_none.mpr first),
      Option.isNone_eq_false_iff.mpr (Option.isSome_iff_ne_none.mpr second)]

/-! ## A poll begun (09 R160, R161) -/

/-- The POLL of an entry goes out from its end with the records standing, and the exchange is open. -/
theorem beginPoll_eq {ex : Exchange} {e : PollEntry} {r : Seat} (entry : w.entry? p ex.address = some e)
    (held : w.hall.seat? e.seat = some r) :
    w.beginPoll p ex = (w.send (endPort p ex.via) (w.hall.pollOf e r)).updPort p fun x => x.began ex := by
  simp only [World.beginPoll, entry, held]

end

end Sys2Proof.World

namespace Sys2Proof.Machine

theorem exec_poll_none {p : PortId} {s : State} (nothing : s.world.nextPoll p = none) :
    exec (.poll p) s = .next (s.after s.world) := by
  show execPoll p s = _
  rw [execPoll, event_next, nothing]

theorem exec_poll_some {p : PortId} {ex : Exchange} {s : State} (next : s.world.nextPoll p = some ex) :
    exec (.poll p) s = .next (s.after (s.world.beginPoll p ex)) := by
  show execPoll p s = _
  rw [execPoll, event_next, next]

/-- A port that begins the poll of an entry. -/
theorem exec_poll_begins {p : PortId} {e : PollEntry} {r : Seat} {via : Reach} {test : Bool} {s : State}
    (next : s.world.nextPoll p = some ⟨e.address, via, test⟩) (entry : s.world.entry? p e.address = some e)
    (held : s.world.hall.seat? e.seat = some r) : ∃ t, exec (.poll p) s = .next t ∧
      t.world.port p = (s.world.port p).began ⟨e.address, via, test⟩ ∧
      t.world.chain.sent.get (endPort p via) =
        pollFrame e.address e.lastBit (indicatorByte r.indicator) (tunedByte r.tuned)
          (r.desk.map (s.world.hall.deskDisplay e.seat)) ∧
      t.world.hall = s.world.hall := by
  have step := exec_poll_some next
  rw [World.beginPoll_eq (ex := ⟨e.address, via, test⟩) entry held] at step
  exact ⟨_, step, World.port_updPort_self _ _ _, Tbl.get_set_self _ _ _, rfl⟩

/-- A RUNNING port makes the normal poll that is due: the exchange is open, no second try waits, the cursor has moved to the
address polled (09 R160, R161). -/
theorem poll_running {p : PortId} {e : PollEntry} {r : Seat} {via : Reach} {s : State} (free : s.world.Free p)
    (running : (s.world.port p).state = .running) (untested : (s.world.ring (ringOfPort p)).run = none)
    (normal : s.world.normalPoll p = some ⟨e.address, via, false⟩) (entry : s.world.entry? p e.address = some e)
    (held : s.world.hall.seat? e.seat = some r) : ∃ t, exec (.poll p) s = .next t ∧
      t.world.port p =
        { s.world.port p with wait := some ⟨e.address, via, false⟩, retry := none, cursor := e.address } ∧
      t.world.chain.sent.get (endPort p via) =
        pollFrame e.address e.lastBit (indicatorByte r.indicator) (tunedByte r.tuned)
          (r.desk.map (s.world.hall.deskDisplay e.seat)) ∧
      t.world.hall = s.world.hall := by
  have next := (World.nextPoll_running free running untested).trans normal
  obtain ⟨t, step, port, rest⟩ := exec_poll_begins next entry held
  refine ⟨t, step, port.trans ?_, rest⟩
  simp [PortRec.began, running]

/-- A RUNNING port with a ring test polls the row due and leaves cursor and second try as they are (09 R166). -/
theorem poll_testing {p : PortId} {run : RingRun} {e : PollEntry} {r : Seat} {via : Reach} {s : State}
    (free : s.world.Free p) (running : (s.world.port p).state = .running)
    (tested : (s.world.ring (ringOfPort p)).run = some run)
    (row : run.next (s.world.port p).entries = some ⟨e.address, via, true⟩)
    (entry : s.world.entry? p e.address = some e) (held : s.world.hall.seat? e.seat = some r) :
    ∃ t, exec (.poll p) s = .next t ∧
      t.world.port p = { s.world.port p with wait := some ⟨e.address, via, true⟩ } ∧
      t.world.chain.sent.get (endPort p via) =
        pollFrame e.address e.lastBit (indicatorByte r.indicator) (tunedByte r.tuned)
          (r.desk.map (s.world.hall.deskDisplay e.seat)) ∧
      t.world.hall = s.world.hall :=
  exec_poll_begins ((World.nextPoll_testing free running tested).trans row) entry held

/-- An ENROLLING port polls the entry due from the primary end and leaves its cursor as it is (09 R168). -/
theorem poll_enrolling {p : PortId} {e : PollEntry} {r : Seat} {s : State}
    (enrolling : (s.world.port p).state = .enrolling)
    (next : s.world.nextPoll p = some ⟨e.address, .primary, false⟩) (entry : s.world.entry? p e.address = some e)
    (held : s.world.hall.seat? e.seat = some r) : ∃ t, exec (.poll p) s = .next t ∧
      t.world.port p = { s.world.port p with wait := some ⟨e.address, .primary, false⟩, retry := none } ∧
      t.world.chain.sent.get p =
        pollFrame e.address e.lastBit (indicatorByte r.indicator) (tunedByte r.tuned)
          (r.desk.map (s.world.hall.deskDisplay e.seat)) ∧
      t.world.hall = s.world.hall := by
  obtain ⟨t, step, port, rest⟩ := exec_poll_begins next entry held
  refine ⟨t, step, port.trans ?_, rest⟩
  simp [PortRec.began, enrolling]

end Sys2Proof.Machine

namespace Sys2Proof.World

/-! ## The polls between assignment steps (09 R168 step 5) -/

section

variable {w : World} {p : PortId}

/-- The addresses of a port's poll entries, in their order. -/
def addresses (w : World) (p : PortId) : List Nat :=
  (w.port p).entries.map (·.address)

theorem updEntry_addresses (w : World) (p : PortId) (a : Nat) {f : PollEntry → PollEntry}
    (keep : ∀ e, (f e).address = e.address) : (w.updEntry p a f).addresses p = w.addresses p := by
  simp only [addresses, World.updEntry, port_updPort_self, List.map_map]
  refine List.map_congr_left fun e _ => ?_
  rw [Function.comp_apply]
  split
  · exact keep e
  · rfl

theorem counted_addresses (w : World) (p : PortId) (ex : Exchange) : (w.counted p ex).addresses p = w.addresses p := by
  refine updEntry_addresses w p _ fun e => ?_
  cases ex.via <;> rfl

theorem reportMissing_addresses (w : World) (p : PortId) (a : Nat) :
    (w.reportMissing p a).addresses p = w.addresses p := by
  unfold World.reportMissing
  split
  · split
    · rfl
    · exact updEntry_addresses w p a fun _ => rfl
  · rfl

theorem judged_addresses (w : World) (p : PortId) (ex : Exchange) (due : Bool) :
    (w.judged p ex due).addresses p = w.addresses p := by
  unfold judged
  split
  · exact (reportMissing_addresses _ p _).trans (counted_addresses w p ex)
  · exact counted_addresses w p ex

/-- Off a RUNNING port a miss is counted, with its report where one is due, and starts no loop test. -/
theorem countMiss_stopped (stopped : (w.port p).state ≠ .running) (ex : Exchange) :
    ∃ due, w.countMiss p ex = w.judged p ex due := by
  unfold World.countMiss
  extract_lets g due v
  refine ⟨due, ?_⟩
  have vEq : v = w.judged p ex due := rfl
  clear_value v
  subst vEq
  have state : ((w.judged p ex due).port p).state ≠ .running := by
    rw [(port_of_course (judged_course w p ex due p)).1]
    exact stopped
  split
  next running _ => exact absurd running state
  · simp only [World.testOnMiss, state, false_and, and_false, if_false]

/-- The window of a poll between assignment steps closes: the miss is counted and the polls go on from its address. -/
theorem windowCloses_enrolling {port : PortId} {ex : Exchange} {n : Enrolment} {after : Nat}
    (open_ : w.exchangeAt port = some (p, ex)) (enrol : (w.port p).enrol = some n) (stage : n.stage = .polling after)
    (counts : ex.forTest = false) :
    w.windowCloses port = (((w.closeExchange p).countMiss p ex).afterPoll p ex).settle p := by
  have unprobed : w.probing? p = none := by simp [World.probing?, enrol, stage]
  simp only [World.windowCloses, open_, World.exchangeEnded, unprobed, counts]
  rfl

theorem updEnrol_port {n : Enrolment} (enrol : (w.port p).enrol = some n) (f : Enrolment → Enrolment) :
    (w.updEnrol p f).port p = { w.port p with enrol := some (f n) } := by
  rw [World.updEnrol, port_updPort_self, enrol]
  rfl

theorem setStage_port {n : Enrolment} (enrol : (w.port p).enrol = some n) (st : EnrolStage) :
    (w.setStage p st).port p = { w.port p with enrol := some { n with stage := st } } :=
  updEnrol_port enrol _

/-- After a poll between assignment steps the next step is due when no entry is above the address polled. -/
theorem settle_polling {n : Enrolment} {after : Nat} (enrolling : (w.port p).state = .enrolling)
    (enrol : (w.port p).enrol = some n) (stage : n.stage = .polling after) (wait : (w.port p).wait = none) :
    w.settle p = if (w.addresses p).any (fun a => after < a) then w else w.setStage p .assigning := by
  have above : (w.port p).entries.any (fun x => after < x.address) = (w.addresses p).any fun a => after < a := by
    rw [addresses, List.any_map]
    rfl
  simp only [World.settle, enrolling, enrol, stage, wait, above, Option.isNone_none, Bool.true_and]
  cases (w.addresses p).any fun a => after < a <;> rfl

/-- A miss between assignment steps leaves no exchange open, and the polls go on above its address or the next step is due. -/
theorem windowCloses_polling {port : PortId} {ex : Exchange} {n : Enrolment} {after : Nat}
    (open_ : w.exchangeAt port = some (p, ex)) (enrolling : (w.port p).state = .enrolling)
    (enrol : (w.port p).enrol = some n) (stage : n.stage = .polling after) (counts : ex.forTest = false) :
    ((w.windowCloses port).port p).wait = none ∧ ((w.windowCloses port).port p).enrol = some { n with
      stage := if (w.addresses p).any (fun a => ex.address < a) then .polling ex.address else .assigning } := by
  rw [windowCloses_enrolling open_ enrol stage counts]
  have closed := closeExchange_port w p
  have stopped : ((w.closeExchange p).port p).state ≠ .running := by
    rw [closed]
    simp [enrolling]
  obtain ⟨due, counted⟩ := countMiss_stopped stopped ex
  obtain ⟨state', enrol', wait', -⟩ := port_of_course (judged_course (w.closeExchange p) p ex due p)
  have same := judged_addresses (w.closeExchange p) p ex due
  rw [closed] at state' enrol' wait'
  rw [counted]
  generalize (w.closeExchange p).judged p ex due = v at state' enrol' wait' same
  have polled : (v.afterPoll p ex).port p = { v.port p with enrol := some { n with stage := .polling ex.address } } := by
    rw [World.afterPoll, updEnrol_port (enrol'.trans enrol), stage]
  have wait := (congrArg PortRec.wait polled).trans wait'
  have going := congrArg PortRec.enrol polled
  have above : (v.afterPoll p ex).addresses p = w.addresses p := by
    rw [addresses, polled]
    exact same.trans (congrArg (fun x => x.entries.map (·.address)) closed)
  rw [settle_polling ((congrArg PortRec.state polled).trans (state'.trans enrolling)) going rfl wait, above]
  cases (w.addresses p).any fun a => ex.address < a with
  | true => exact ⟨wait, going⟩
  | false =>
    have due := setStage_port going .assigning
    exact ⟨(congrArg PortRec.wait due).trans wait, congrArg PortRec.enrol due⟩

end

end Sys2Proof.World

namespace Sys2Proof.Machine

/-- Settles O52: what is due is `World.normalPoll`, the next row of the ring test, or the next entry of the polls between
steps; `exec_poll_begins` says what beginning it does, and `World.windowCloses_polling` how those polls go on. -/
theorem pollIsBuilt : Obligations.PollIsBuilt := by
  refine ⟨fun p e r s alone untested running wait once due entry held => ?_,
    fun k e r s joined quiet untested running wait once due entry held => ?_,
    fun k e r s opened quiet untested running wait again entry held => ?_,
    fun k run pre post row e r s joined quiet tested running wait rows polled address seat left entry held => ?_,
    fun k s joined flight => exec_poll_none (World.nextPoll_inFlight joined flight),
    fun p n after s unheld enrolling enrol stage wait => ?_, fun p n after address s alone enrolling enrol stage wait => ?_⟩
  · have normal := World.normalPoll_first once (World.entry_due due)
    rw [World.firstVia_eq held, alone, if_neg (by decide)] at normal
    obtain ⟨t, step, port, sent, hall⟩ := poll_running (.of_linear alone wait) running untested normal entry held
    exact ⟨t, step, by rw [port], by rw [port], by rw [port], sent, hall⟩
  · have ring := World.ringOfPort_primary k
    have normal := World.normalPoll_first once (World.entry_due due)
    rw [World.firstVia_eq held, ring] at normal
    obtain ⟨t, step, port, sent, hall⟩ := poll_running (.of_quiet (by rw [ring]; exact quiet) wait) running
      (by rw [ring]; exact untested) normal entry held
    rw [World.endPort_primaryPort] at sent
    exact ⟨t, _, rfl, step, by rw [port], by rw [port], by rw [port], sent, hall⟩
  · have ring := World.ringOfPort_primary k
    have normal := World.normalPoll_second again entry
    have other : r.reach.other = if r.reach = .primary then .secondary else .primary := by
      cases r.reach <;> rfl
    rw [World.firstVia_eq held, ring, opened, if_pos rfl, other] at normal
    obtain ⟨t, step, port, sent, hall⟩ := poll_running (.of_quiet (by rw [ring]; exact quiet) wait) running
      (by rw [ring]; exact untested) normal entry held
    rw [World.endPort_primaryPort] at sent
    exact ⟨t, _, rfl, step, by rw [port], by rw [port], sent, hall⟩
  · have ring := World.ringOfPort_primary k
    have next := World.next_row rows polled address seat left (List.mem_of_find?_eq_some entry)
    obtain ⟨t, step, port, sent, hall⟩ := poll_testing (.of_quiet (by rw [ring]; exact quiet) wait) running
      (by rw [ring]; exact tested) next entry held
    rw [World.endPort_primaryPort] at sent
    exact ⟨t, _, rfl, step, by rw [port], by rw [port], by rw [port], sent, hall⟩
  · have free : s.world.Free p := unheld.elim (.of_linear · wait) fun quiet => .of_quiet quiet.2 wait
    have next := World.nextPoll_enrolling free enrolling enrol stage
    refine ⟨fun e r above entry held => ?_, fun below => ?_⟩
    · rw [above] at next
      obtain ⟨t, step, port, sent, hall⟩ := poll_enrolling enrolling next entry held
      exact ⟨t, step, by rw [port], by rw [port]; exact enrol, by rw [port], by rw [port], sent, hall⟩
    · rw [World.find_above_none below] at next
      exact exec_poll_none next
  · have closes := World.windowCloses_polling (World.exchangeAt_linear alone wait rfl) enrolling enrol stage rfl
    rw [World.addresses, List.any_map] at closes
    exact ⟨_, exec_pollMiss_nil p s, closes⟩

end Sys2Proof.Machine

namespace Sys2Proof

/-! ## The Seat Table of a port (02 R20, R35) -/

theorem SeatPos.isFree_iff {x : SeatPos} : x.isFree = true ↔ x = .free := by
  cases x <;> simp [SeatPos.isFree]

/-- The lowest free number is the one reserved (09 R168). -/
theorem Hall.freeSeat_eq {h : Hall} {n : SeatId} (free : h.seats.get n = .free)
    (below : ∀ m, m < n → h.seats.get m ≠ .free) : h.freeSeat = some n :=
  Tbl.lowest_eq (SeatPos.isFree_iff.mpr free) fun m lt =>
    Bool.eq_false_iff.mpr fun found => below m lt (SeatPos.isFree_iff.mp found)

/-- A steady operation leaves the seats of every port. -/
theorem Steady.seatsOf {h g : Hall} (x : Steady h g) (p : PortId) : g.seatsOf p = h.seatsOf p := by
  simp only [Hall.seatsOf, Hall.seatsWhere, Tbl.positions_eq]
  refine List.filter_congr fun n _ => ?_
  have cores : (g.seats.get n).core = (h.seats.get n).core := by
    simpa [Hall.cores] using congrArg (fun t => t.get n) x.cores
  cases gp : g.seats.get n with
  | held q =>
    cases hp : h.seats.get n with
    | held r =>
      rw [gp, hp, SeatPos.core, SeatPos.core, SeatPos.held.injEq] at cores
      obtain ⟨port, -⟩ := Seat.eq_of_core cores
      simp [port]
    | free => simp [gp, hp, SeatPos.core] at cores
    | reserved => simp [gp, hp, SeatPos.core] at cores
  | free => cases hp : h.seats.get n <;> simp [gp, hp, SeatPos.core] at cores ⊢
  | reserved => cases hp : h.seats.get n <;> simp [gp, hp, SeatPos.core] at cores ⊢

/-- A position freed is no longer among the seats of any port. -/
theorem Hall.seatsOf_freed (h : Hall) (n : SeatId) (p : PortId) :
    ({ h with seats := h.seats.set n .free } : Hall).seatsOf p = (h.seatsOf p).filter (· ≠ n) := by
  simp only [Hall.seatsOf, Hall.seatsWhere, Tbl.positions_eq, List.filter_filter]
  refine List.filter_congr fun m _ => ?_
  by_cases here : n = m
  · simp [here]
  · simp [Tbl.get_set_ne _ _ here, Ne.symm here]

/-- A retirement takes its number from the seats of its port and leaves the others (02 R35). -/
theorem Hall.seatsOf_retire (now : Clock) (h : Hall) (n : SeatId) (c : RetireCause) (p : PortId) :
    (h.retire now n c).seatsOf p = (h.seatsOf p).filter (· ≠ n) := by
  have steady := (Steady.speechGone now h n c.turn c.removal).trans (Steady.deskRetired _ n c.release)
  rw [Hall.retire, (Steady.mark _ n).seatsOf p, Hall.seatsOf_freed, steady.seatsOf p]

end Sys2Proof

namespace Sys2Proof.World

/-! ## A port that becomes ENROLLING or sends RELEASE_ALL (09 R167, R171) -/

section

variable {w : World} {p : PortId}

/-- A ring test abandoned leaves the ring states. -/
theorem abandonTest_state (w : World) (p : PortId) (k : RingId) :
    ((w.abandonTest p).ring k).state = (w.ring k).state := by
  rw [World.abandonTest, ring_updRing]
  split
  next same =>
    subst same
    split <;> rfl
  · rfl

theorem root_primary {k : RingId} (joined : (w.ring k).state ≠ .linear) : w.root (primaryPort k) = primaryPort k :=
  root_endPort joined .primary

theorem secondary_ne_primary (k : RingId) : secondaryPort k ≠ primaryPort k := by
  revert k
  decide

/-- A port state set, at the port whose record stands: the rest of the record, rings, frames sent and hall are as before. -/
theorem setPortState_spec (root : w.root p = p) (st : PortState) :
    (w.setPortState p st).port p = { w.port p with state := st } ∧
      (∀ k, (w.setPortState p st).ring k = w.ring k) ∧ (w.setPortState p st).chain.sent = w.chain.sent ∧
      (w.setPortState p st).hall = w.hall := by
  unfold World.root at root
  unfold World.setPortState
  cases at_ : w.ringAt p with
  | none => exact ⟨port_updPort_self _ _ _, fun _ => rfl, rfl, rfl⟩
  | some k =>
    rw [at_] at root
    obtain rfl : primaryPort k = p := root
    refine ⟨?_, fun _ => rfl, rfl, rfl⟩
    dsimp only
    rw [port_updPort, if_neg (secondary_ne_primary k), port_updPort_self]

/-- An unpaired port that becomes ENROLLING has the enrolment and nothing waiting. -/
theorem enrolling_spec (alone : (w.ring (ringOfPort p)).state = .linear) (e : Enrolment) :
    (w.enrolling p e).port p = { w.port p with state := .enrolling, enrol := some e, wait := none, retry := none } ∧
      ((w.enrolling p e).ring (ringOfPort p)).state = .linear ∧ (w.enrolling p e).chain.sent = w.chain.sent ∧
      (w.enrolling p e).hall = w.hall := by
  have still : ((w.abandonTest p).ring (ringOfPort p)).state = .linear := (abandonTest_state w p _).trans alone
  obtain ⟨port, rings, sent, hall⟩ := setPortState_spec (p := p) (w := (w.abandonTest p).updPort p fun x =>
    { x with enrol := some e, wait := none, retry := none }) (root_linear still) .enrolling
  unfold World.enrolling
  dsimp only
  rw [ringAt_linear ((congrArg RingRec.state (rings _)).trans still)]
  refine ⟨?_, (congrArg RingRec.state (rings _)).trans still, sent, hall⟩
  rw [port, port_updPort_self]
  rfl

/-- The port record once RELEASE_ALL has gone out: the retirements of an enrolment that waited for it begin. -/
@[reducible] def releaseSent (x : PortRec) : PortRec :=
  { x with
    releasePending := false
    enrol := x.enrol.map fun e => if e.stage = .releasing then { e with stage := .retiring } else e }

/-- RELEASE_ALL sent by an unpaired port, nothing settled yet. -/
def released (w : World) (p : PortId) : World :=
  (w.send p releaseAllFrame).updPort p releaseSent

theorem release_linear (alone : (w.ring (ringOfPort p)).state = .linear) :
    w.release p = (w.released p).settle p := by
  rw [World.release, sendRelease_linear alone]
  rfl

theorem released_sent (w : World) (p : PortId) : (w.released p).chain.sent.get p = releaseAllFrame :=
  Tbl.get_set_self _ _ _

theorem released_port (w : World) (p : PortId) : (w.released p).port p = releaseSent (w.port p) :=
  port_updPort_self _ _ _

/-! ## Enrolments that begin on an unpaired port (09 R167) -/

/-- A FULL as it begins, at a stage. -/
@[reducible] def fullAt (st : EnrolStage) : Enrolment :=
  ⟨.full, 1, 0, none, none, st, false⟩

/-- An EXTEND as it begins above an address, at a stage. -/
@[reducible] def extendAt (highest : Nat) (st : EnrolStage) : Enrolment :=
  ⟨.extend, highest + 1, 0, none, none, st, false⟩

/-- Once an ENROLLING port has no seat left to retire, assignment begins. -/
theorem settle_retired {e : Enrolment} (enrolling : (w.port p).state = .enrolling)
    (enrol : (w.port p).enrol = some e) (stage : e.stage = .retiring) (goes : e.aborting = false)
    (empty : w.hall.seatsOf p = []) : w.settle p = w.setStage p .assigning := by
  simp only [World.settle, enrolling, enrol, stage, empty, List.isEmpty_nil, if_true, World.afterRetiring, goes,
    Bool.false_eq_true, if_false]

/-- FULL without seats to retire: RELEASE_ALL is sent, and the assignment of address 1 is next. -/
theorem beginFull_linear (alone : (w.ring (ringOfPort p)).state = .linear) (empty : w.hall.seatsOf p = []) :
    w.beginFull p = ((w.enrolling p (fullAt .releasing)).released p).setStage p .assigning := by
  obtain ⟨port, ring, -, hall⟩ := enrolling_spec alone (fullAt .releasing)
  unfold World.beginFull
  dsimp only
  rw [ringAt_linear ring]
  dsimp only
  rw [releaseWhenFree_linear ring, release_linear ring]
  refine settle_retired (e := fullAt .retiring) ?_ ?_ rfl rfl
    ((congrArg (fun h => h.seatsOf p) hall).trans empty)
  · rw [released_port, port]
  · rw [released_port, port]
    rfl

/-- EXTEND below address 64: the assignment of the address above the highest is next. -/
theorem beginExtend_linear (alone : (w.ring (ringOfPort p)).state = .linear) (room : w.hall.highest p < 64) :
    w.beginExtend p =
      (w.enrolling p (extendAt (w.hall.highest p) .looping)).setStage p .assigning := by
  obtain ⟨port, ring, -, -⟩ := enrolling_spec alone (extendAt (w.hall.highest p) .looping)
  unfold World.beginExtend
  dsimp only
  rw [ringAt_linear ring]
  dsimp only
  rw [World.extendReady, port]
  exact if_neg (show ¬ 64 < w.hall.highest p + 1 by omega)

/-! ## Enrolments that end (09 R169) -/

/-- The record of an enrolment that ends and the port state by its seats, no ring settled yet. -/
def ended (w : World) (p : PortId) (e : Enrolment) (res : EnrolResult) : World :=
  (w.updPort p fun x => x.endEnrol e res w.clock).setPortState p (w.endState p)

theorem ended_spec (root : w.root p = p) (e : Enrolment) (res : EnrolResult) :
    (w.ended p e res).port p = { (w.port p).endEnrol e res w.clock with state := w.endState p } ∧
      (∀ k, (w.ended p e res).ring k = w.ring k) ∧ (w.ended p e res).hall = w.hall := by
  obtain ⟨port, rings, -, hall⟩ := setPortState_spec (w := w.updPort p fun x => x.endEnrol e res w.clock) root
    (w.endState p)
  rw [port_updPort_self] at port
  exact ⟨port, rings, hall⟩

theorem endEnrol_eq_linear {e : Enrolment} (alone : (w.ring (ringOfPort p)).state = .linear)
    (enrol : (w.port p).enrol = some e) (res : EnrolResult) :
    w.endEnrol p res = (w.ended p e res).onHall fun h => h.raise (.enrollDone p) := by
  obtain ⟨-, rings, -⟩ := ended_spec (root_linear alone) e res
  have still : (w.ended p e res).ringAt p = none := ringAt_linear (by rw [rings]; exact alone)
  rw [ended] at still ⊢
  simp only [World.endEnrol, enrol, still]

theorem endEnrol_eq_done {e : Enrolment} {k : RingId} (joined : (w.ring k).state ≠ .linear)
    (enrol : (w.port (primaryPort k)).enrol = some e) :
    w.endEnrol (primaryPort k) .done = (((w.ended (primaryPort k) e .done).setPeriodic k).setRing k .closed).onHall
      fun h => h.raise (.enrollDone (primaryPort k)) := by
  obtain ⟨-, rings, -⟩ := ended_spec (root_primary joined) e .done
  have still : (w.ended (primaryPort k) e .done).ringAt (primaryPort k) = some k :=
    ringAt_primary (by rw [rings]; exact joined)
  rw [ended] at still ⊢
  simp only [World.endEnrol, enrol, still]
  rfl

/-- On an unpaired port an enrolment that ends leaves its record, the port IDLE or RUNNING by its seats, and ENROLL_DONE. -/
theorem endEnrol_linear {e : Enrolment} (alone : (w.ring (ringOfPort p)).state = .linear)
    (enrol : (w.port p).enrol = some e) (res : EnrolResult) :
    (w.endEnrol p res).port p = { (w.port p).endEnrol e res w.clock with state := w.endState p } ∧
      (w.endEnrol p res).hall = w.hall.raise (.enrollDone p) := by
  obtain ⟨port, -, hall⟩ := ended_spec (root_linear alone) e res
  rw [endEnrol_eq_linear alone enrol, port_onHall, onHall_hall, hall]
  exact ⟨port, rfl⟩

/-- On a paired ring an enrolment that ends DONE leaves its record and ENROLL_DONE, and closes the ring (log entry 16). -/
theorem endEnrol_done {e : Enrolment} {k : RingId} (joined : (w.ring k).state ≠ .linear)
    (enrol : (w.port (primaryPort k)).enrol = some e) :
    ((w.endEnrol (primaryPort k) .done).ring k).state = .closed ∧
      ((w.endEnrol (primaryPort k) .done).port (primaryPort k)).enrol = none ∧
      ((w.endEnrol (primaryPort k) .done).port (primaryPort k)).lastEnrol = some (e.record .done w.clock) ∧
      (w.endEnrol (primaryPort k) .done).hall.stands (.enrollDone (primaryPort k)) = true := by
  obtain ⟨port, -, -⟩ := ended_spec (root_primary joined) e .done
  obtain ⟨ring, ports, -⟩ := setRing_spec ((w.ended (primaryPort k) e .done).setPeriodic k) k .closed
  have periodic : ((w.ended (primaryPort k) e .done).setPeriodic k).port (primaryPort k) = _ := port
  rw [endEnrol_eq_done joined enrol, ring_onHall, port_onHall, onHall_hall, ring, ports, periodic]
  exact ⟨rfl, rfl, rfl, Hall.stands_raise _ _⟩

/-- An enrolment aborted between assignment steps ends at once (09 R170). -/
theorem abortEnrol_assigning {e : Enrolment} (stage : e.stage = .assigning) :
    w.abortEnrol p e = (w.updPort p fun x => { x with releasePending := false }).endEnrol p .aborted := by
  simp only [World.abortEnrol, stage]

/-! ## Assignment steps (09 R168) -/

theorem window_eq {e : Enrolment} {n : SeatId} (enrol : (w.port p).enrol = some e) (stage : e.stage = .window n) :
    w.window? p = some (n, e.nextAddr) := by
  simp only [World.window?, enrol, Option.bind_some, stage]

theorem assign_linear {e : Enrolment} {n : SeatId} (alone : (w.ring (ringOfPort p)).state = .linear)
    (enrol : (w.port p).enrol = some e) (stage : e.stage = .assigning) (free : w.hall.freeSeat = some n) :
    w.assign p =
      ((w.onHall fun h => h.setPos n .reserved).setStage p (.window n)).send p (assignFrame e.nextAddr) := by
  simp only [World.assign, enrol, stage, ringAt_linear alone, Option.isSome_none, Bool.false_and, Bool.not_false,
    Bool.and_true, decide_true, if_true, free]

/-- The acknowledged address has its seat and its poll entry, and the polls between steps begin. -/
theorem acknowledged_spec {e : Enrolment} {n : SeatId} (enrol : (w.port p).enrol = some e)
    (goes : e.aborting = false) (room : e.nextAddr < 64) (kind : UnitKind) :
    (w.acknowledged p n kind).port p = { w.port p with
        entries := (w.port p).entries ++ [⟨e.nextAddr, n, 0, 0, false, true⟩]
        enrol := some { e with
          nextAddr := e.nextAddr + 1, made := e.made + 1, first := some (e.first.getD e.nextAddr)
          last := some e.nextAddr, stage := .polling 0 } } ∧
      (w.acknowledged p n kind).hall = w.hall.makeSeat n p e.nextAddr kind := by
  have made : (w.seatMade p n kind).port p = { w.port p with
      entries := (w.port p).entries ++ [⟨e.nextAddr, n, 0, 0, false, true⟩]
      enrol := some { e with
        made := e.made + 1, first := some (e.first.getD e.nextAddr), last := some e.nextAddr } } := by
    simp only [World.seatMade, enrol, port_onHall, port_updPort_self]
  have hall : (w.seatMade p n kind).hall = w.hall.makeSeat n p e.nextAddr kind := by
    simp only [World.seatMade, enrol, onHall_hall, updPort_hall]
  have enrolled := congrArg PortRec.enrol made
  have goesOn : w.acknowledged p n kind =
      (w.seatMade p n kind).updEnrol p fun x => { x with nextAddr := x.nextAddr + 1, stage := .polling 0 } := by
    simp only [World.acknowledged, World.afterSeat, enrolled, goes, Bool.false_eq_true, if_false,
      if_neg (Nat.ne_of_lt room)]
  rw [goesOn, updEnrol_port enrolled, made]
  exact ⟨rfl, hall⟩

/-- The probing POLL: its stage, its exchange, the hall as it was (log entry 19). -/
theorem probe_spec {e : Enrolment} (enrol : (w.port p).enrol = some e) (n : SeatId) (a : Nat) :
    (w.probe p n a).port p =
        { w.port p with enrol := some { e with stage := .probing n }, wait := some ⟨a, .primary, false⟩ } ∧
      (w.probe p n a).hall = w.hall := by
  refine ⟨?_, rfl⟩
  have staged := setStage_port (w := w.send p (pollFrame a true Config.probeIndicator Config.probeTuned none)) enrol
    (.probing n)
  rw [World.probe, port_updPort_self, staged]
  rfl

theorem badAnswer_probes {n : SeatId} {a : Nat} {frame : List Byte} (window : w.window? p = some (n, a))
    (some_bytes : frame ≠ []) (bad : decodeUp frame = none) : w.badAnswer p frame = w.probe p n a := by
  cases frame with
  | nil => exact absurd rfl some_bytes
  | cons b bs => simp only [World.badAnswer, window, bad]

theorem endUnmade_eq {e : Enrolment} (enrol : (w.port p).enrol = some e) (goes : e.aborting = false) (n : SeatId)
    (res : EnrolResult) : w.endUnmade p n res = (w.unreserve n).endEnrol p res := by
  simp only [World.endUnmade, enrol, Option.elim_some, goes, Bool.false_eq_true, if_false]

theorem assignSilent_linear (alone : (w.ring (ringOfPort p)).state = .linear) (n : SeatId) :
    w.assignSilent p n = w.endUnmade p n .done := by
  rw [World.assignSilent, ringAt_linear alone]
  rfl

end

end Sys2Proof.World

namespace Sys2Proof.Machine

/-! ## The enrolment commands (09 R167 to R170) -/

section

variable {b : Byte} {p : PortId} {e : Enrolment} {n : SeatId} {s : State}

theorem exec_enrollFull (h : s.takes) (port : b.toNat = p.val) (alone : (s.world.ring (ringOfPort p)).state = .linear)
    (idle : (s.world.port p).state = .idle) : exec (.enrollFull b) s =
      .next (s.answered 5 0x61#8 ⟨s.world.beginFull p, .accepted, .empty⟩) := by
  show execEnrollFull b s = _
  refine request_answers h ?_
  rw [withTarget_port port alone, if_neg (by simp [idle])]

theorem exec_enrollExtend (h : s.takes) (port : b.toNat = p.val)
    (alone : (s.world.ring (ringOfPort p)).state = .linear) (running : (s.world.port p).state = .running) :
    exec (.enrollExtend b) s = .next (s.answered 5 0x61#8 ⟨s.world.beginExtend p, .accepted, .empty⟩) := by
  show execEnrollExtend b s = _
  refine request_answers h ?_
  rw [withTarget_port port alone, if_neg (by simp [running]), if_neg (not_not_intro running)]

theorem exec_enrollAbort (h : s.takes) (port : b.toNat = p.val)
    (alone : (s.world.ring (ringOfPort p)).state = .linear) (enrolling : (s.world.port p).state = .enrolling)
    (enrol : (s.world.port p).enrol = some e) : exec (.enrollAbort b) s =
      .next (s.answered 4 0x62#8 (done (s.world.abortEnrol p e))) := by
  show execEnrollAbort b s = _
  refine request_answers h ?_
  rw [withTarget_port port alone]
  simp only [enrolling, enrol]

theorem endState_eq (w : World) (p : PortId) :
    w.endState p = if w.hall.seatsOf p = [] then .idle else .running := by
  simp only [World.endState, List.isEmpty_iff]

/-- Settles O56: the starts by `World.beginFull_linear` and `World.beginExtend_linear`, the abort by
`World.endEnrol_linear`. -/
theorem enrolmentStartsAndAborts : Obligations.EnrolmentStartsAndAborts := by
  refine ⟨fun b p s h port alone idle empty => ?_, fun b p s h port alone running room => ?_,
    fun b p e s h port alone enrolling enrol stage => ?_⟩
  · obtain ⟨begun, -, -, -⟩ := World.enrolling_spec alone (World.fullAt .releasing)
    have started := World.setStage_port (w := (s.world.enrolling p (World.fullAt .releasing)).released p)
      (n := World.fullAt .retiring) (by rw [World.released_port, begun]; rfl) .assigning
    have sent := World.released_sent (s.world.enrolling p (World.fullAt .releasing)) p
    have run := exec_enrollFull h port alone idle
    rw [World.beginFull_linear alone empty] at run
    refine ⟨_, run, ?_, congrArg PortRec.enrol started, sent, rfl⟩
    rw [State.answered_world, started, World.released_port, begun]
  · obtain ⟨begun, -, sent, -⟩ :=
      World.enrolling_spec alone (World.extendAt (s.world.hall.highest p) .looping)
    have started := World.setStage_port (congrArg PortRec.enrol begun) .assigning
    have run := exec_enrollExtend h port alone running
    rw [World.beginExtend_linear alone room] at run
    refine ⟨_, run, ?_, congrArg PortRec.enrol started, sent, rfl⟩
    rw [State.answered_world, started, begun]
  · have endings := World.endEnrol_linear (w := s.world.updPort p fun x => { x with releasePending := false }) alone
      (by rw [World.port_updPort_self]; exact enrol) .aborted
    rw [← World.abortEnrol_assigning stage] at endings
    obtain ⟨ended, hall⟩ := endings
    refine ⟨_, exec_enrollAbort h port alone enrolling enrol, ?_⟩
    simp only [State.answered_world, done, ended, hall, endState_eq]
    exact ⟨rfl, rfl, rfl, Hall.stands_raise _ _, rfl⟩

end

section

variable {p : PortId} {e : Enrolment} {n : SeatId} {s : State}

theorem exec_assignStep (p : PortId) (s : State) : exec (.assignStep p) s = .next (s.after (s.world.assign p)) := rfl

theorem exec_assignAck {a : Byte} (window : s.world.window? p = some (n, a.toNat)) (kind : UnitKind) :
    exec (.assignAck p a kind) s = .next (s.after (s.world.acknowledged p n kind)) := by
  show execAssignAck p a kind s = _
  simp only [execAssignAck, event_next, World.ackArrives, window, if_true]

theorem exec_assignBadAnswer (p : PortId) (frame : List Byte) (s : State) :
    exec (.assignBadAnswer p frame) s = .next (s.after (s.world.badAnswer p frame)) := rfl

theorem exec_assignTimeout {a : Nat} (window : s.world.window? p = some (n, a)) :
    exec (.assignTimeout p) s = .next (s.after (s.world.assignSilent p n)) := by
  show execAssignTimeout p s = _
  simp only [execAssignTimeout, event_next, window]

theorem exec_assignReturned {k : RingId} {a : Nat} (joined : (s.world.ring k).state ≠ .linear)
    (window : s.world.window? (primaryPort k) = some (n, a)) :
    exec (.assignReturned k) s = .next (s.after (s.world.endUnmade (primaryPort k) n .done)) := by
  show execAssignReturned k s = _
  simp only [execAssignReturned, event_next, paired_joined joined, window]

/-- Settles O57: a step begins by `World.assign_linear`; what an answer or its absence does is `World.acknowledged_spec`,
`World.probe_spec`, and the end of the enrolment on a chain or on a ring. -/
theorem assignmentStep : Obligations.AssignmentStep := by
  refine ⟨fun p e n s alone enrol stage free below => ?_, fun p e n a kind s enrol stage goes address room => ?_,
    fun p e n frame s enrol stage bytes bad => ?_, fun p e n s alone enrol stage goes reserved => ?_,
    fun k e n s joined enrol stage goes => ?_⟩
  · have run := exec_assignStep p s
    rw [World.assign_linear alone enrol stage (Hall.freeSeat_eq free below)] at run
    have staged := World.setStage_port (w := s.world.onHall fun h => h.setPos n .reserved) enrol (.window n)
    exact ⟨_, run, rfl, congrArg PortRec.enrol staged, Tbl.get_set_self _ _ _⟩
  · obtain ⟨made, hall⟩ := World.acknowledged_spec (n := n) enrol goes room kind
    have window := World.window_eq enrol stage
    rw [← address] at window
    refine ⟨_, exec_assignAck window kind, ?_⟩
    simp only [State.after_world, made, hall]
    exact ⟨by simp [Hall.makeSeat, Hall.setPos], by simp [Hall.makeSeat], trivial, trivial⟩
  · obtain ⟨probes, hall⟩ := World.probe_spec enrol n e.nextAddr
    have run := exec_assignBadAnswer p frame s
    rw [World.badAnswer_probes (World.window_eq enrol stage) bytes bad] at run
    exact ⟨_, run, congrArg PortRec.enrol probes, congrArg PortRec.wait probes, hall⟩
  · obtain ⟨ended, hall⟩ := World.endEnrol_linear (w := s.world.unreserve n) alone enrol .done
    have freed : (s.world.unreserve n).hall = s.world.hall.setPos n .free := if_pos reserved
    have run := exec_assignTimeout (World.window_eq enrol stage)
    rw [World.assignSilent_linear alone, World.endUnmade_eq enrol goes] at run
    refine ⟨_, run, ?_⟩
    rw [State.after_world, ended, hall, freed]
    exact ⟨rfl, rfl, rfl, Hall.stands_raise _ _⟩
  · have run := exec_assignReturned joined (World.window_eq enrol stage)
    rw [World.endUnmade_eq enrol goes] at run
    exact ⟨_, run, World.endEnrol_done (w := s.world.unreserve n) joined enrol⟩

end

end Sys2Proof.Machine

namespace Sys2Proof.World

/-! ## Chain resets (09 R171) -/

section

variable {w : World} {p : PortId}

/-- The end of a chain reset on an unpaired port: the port IDLE without poll entries. -/
theorem finishReset_linear (alone : (w.ring (ringOfPort p)).state = .linear) :
    (w.finishReset p).port p =
        { w.port p with state := .idle, entries := [], releasePending := false, cursor := 0 } ∧
      (w.finishReset p).chain.sent = w.chain.sent := by
  have still : ((w.updPort p fun x => { x with entries := [], releasePending := false, cursor := 0 }).ring
    (ringOfPort p)).state = .linear := alone
  obtain ⟨port, rings, sent, -⟩ := setPortState_spec (root_linear still) .idle
  unfold World.finishReset
  dsimp only
  rw [ringAt_linear ((congrArg RingRec.state (rings _)).trans still)]
  refine ⟨?_, sent⟩
  rw [port, port_updPort_self]

/-- A RESETTING port whose RELEASE_ALL has gone out ends its reset once it has no seats. -/
theorem settle_resetting (resetting : (w.port p).state = .resetting) (sent : (w.port p).releasePending = false) :
    w.settle p = if w.hall.seatsOf p = [] then w.finishReset p else w := by
  simp only [World.settle, resetting, sent, Bool.not_false, Bool.true_and, List.isEmpty_iff]

theorem dropEnrol_unenrolled (unenrolled : (w.port p).enrol = none) : w.dropEnrol p = w := by
  simp only [World.dropEnrol, unenrolled]

/-- A chain reset of an unpaired port without enrolment: RELEASE_ALL is sent, the port RESETTING while it has seats. -/
theorem beginReset_linear (alone : (w.ring (ringOfPort p)).state = .linear) (unenrolled : (w.port p).enrol = none) :
    (w.beginReset p).chain.sent.get p = releaseAllFrame ∧
      ((w.beginReset p).port p).state = if w.hall.seatsOf p = [] then .idle else .resetting := by
  have still : (((w.abandonTest p).updPort p fun x => { x with wait := none, retry := none }).ring
    (ringOfPort p)).state = .linear := (abandonTest_state w p _).trans alone
  obtain ⟨port, rings, -, hall⟩ := setPortState_spec (root_linear still) .resetting
  unfold World.beginReset
  dsimp only
  rw [ringAt_linear ((congrArg RingRec.state (rings _)).trans still)]
  dsimp only
  rw [port_updPort_self] at port
  generalize ((w.abandonTest p).updPort p fun x => { x with wait := none, retry := none }).setPortState p .resetting = v
    at port rings hall
  have lone : (v.ring (ringOfPort p)).state = .linear := (congrArg RingRec.state (rings _)).trans still
  have seats : (v.released p).hall.seatsOf p = w.hall.seatsOf p := congrArg (fun h => h.seatsOf p) hall
  rw [dropEnrol_unenrolled ((congrArg PortRec.enrol port).trans unenrolled), releaseWhenFree_linear lone,
    release_linear lone, settle_resetting (by rw [released_port, port]) (by rw [released_port]), seats]
  split
  · obtain ⟨finished, sent⟩ := finishReset_linear (w := v.released p) lone
    rw [finished, sent]
    exact ⟨released_sent v p, rfl⟩
  · rw [released_port, port]
    exact ⟨released_sent v p, rfl⟩

theorem stopPolling_state (x : PortRec) (n : SeatId) : (x.stopPolling n).state = x.state := rfl

theorem stopPolling_releasePending (x : PortRec) (n : SeatId) : (x.stopPolling n).releasePending = x.releasePending :=
  rfl

/-- The last retirement of a chain reset leaves an unpaired port IDLE without poll entries. -/
theorem retireSeat_last {n : SeatId} (alone : (w.ring (ringOfPort p)).state = .linear)
    (resetting : (w.port p).state = .resetting) (sent : (w.port p).releasePending = false)
    (last : w.hall.seatsOf p = [n]) (c : RetireCause) :
    ((w.retireSeat p n c).port p).state = .idle ∧ ((w.retireSeat p n c).port p).entries = [] := by
  have gone : (w.hall.retire w.clock n c).seatsOf p = [] := by
    rw [Hall.seatsOf_retire, last]
    simp
  have stopped := port_updPort_self (w.onHall fun h => h.retire w.clock n c) p fun x => x.stopPolling n
  have settles := settle_resetting
    (by rw [stopped, stopPolling_state, port_onHall, resetting])
    (by rw [stopped, stopPolling_releasePending, port_onHall, sent])
  obtain ⟨finished, -⟩ := finishReset_linear (p := p)
    (w := (w.onHall fun h => h.retire w.clock n c).updPort p fun x => x.stopPolling n)
    (by rw [ring_updPort, ring_onHall, alone])
  rw [World.retireSeat, settles, updPort_hall, onHall_hall, if_pos gone, finished]
  exact ⟨rfl, rfl⟩

theorem retireNext_resetting {n : SeatId} {rest : List SeatId} (resetting : (w.port p).state = .resetting)
    (sent : (w.port p).releasePending = false) (seats : w.hall.seatsOf p = n :: rest) :
    w.retireNext p = w.retireSeat p n .chainReset := by
  simp only [World.retireNext, PortRec.retiring, resetting, sent, Bool.not_false, if_true, seats, List.head?_cons]

end

end Sys2Proof.World

namespace Sys2Proof.Machine

theorem exec_chainReset {b : Byte} {p : PortId} {s : State} (h : s.takes) (port : b.toNat = p.val)
    (alone : (s.world.ring (ringOfPort p)).state = .linear) (ready : (s.world.port p).state ≠ .resetting) :
    exec (.chainReset b) s = .next (s.answered 4 0x63#8 ⟨s.world.beginReset p, .accepted, .empty⟩) := by
  show execChainReset b s = _
  refine request_answers h ?_
  rw [withTarget_port port alone, if_neg ready]

theorem exec_chainSeatRetire {p : PortId} {s : State} (alone : (s.world.ring (ringOfPort p)).state = .linear) :
    exec (.chainSeatRetire p) s = .next (s.after (s.world.retireNext p)) := by
  show execChainSeatRetire p s = _
  rw [execChainSeatRetire, event_next, if_pos (World.root_linear alone)]

/-- Settles O58: the request by `World.beginReset_linear`; each retirement is `World.retireSeat_retired`, and the last one
ends the reset (`World.retireSeat_last`). -/
theorem chainReset : Obligations.ChainReset := by
  refine ⟨fun b p s h port alone ready unenrolled => ?_, fun p n rest s alone resetting sent seats => ?_⟩
  · obtain ⟨frame, state⟩ := World.beginReset_linear alone unenrolled
    refine ⟨_, exec_chainReset h port alone ready, ?_, ?_, rfl⟩
    · rw [State.answered_world, frame]
    · rw [State.answered_world, state]
  · have run := exec_chainSeatRetire alone
    rw [World.retireNext_resetting resetting sent seats] at run
    have retired := World.retireSeat_retired s.world p n .chainReset
    refine ⟨_, run, retired.free, retired.marked, ?_⟩
    rintro rfl
    exact World.retireSeat_last alone resetting sent seats .chainReset

end Sys2Proof.Machine

/-! PROOFS. The family of chapter 10: the Host Port and Attention. First the rules of the attention set and of
the port's own transitions, then the shape of every command, then what each statement of the family asks. -/

namespace Sys2Proof

/-! ## The attention set (10 R178 to R180) -/

theorem Hall.calls_iff {h : Hall} {mask : BitVec 12} :
    h.calls mask = true ↔ ∃ i ∈ attnItems, h.stands i = true ∧ mask.getLsbD i.kind.val = true := by
  simp [Hall.calls]

/-- An empty set calls under no mask. -/
theorem Hall.calls_of_empty {h : Hall} (empty : ∀ i, h.stands i = false) (mask : BitVec 12) : h.calls mask = false := by
  simp [Hall.calls, empty]

theorem Hall.stands_clearAttention (h : Hall) (i : AttnItem) : h.clearAttention.stands i = false :=
  Tbl.get_fill i.index false

theorem Hall.stands_startFrame (h : Hall) (i : AttnItem) : h.startFrame.stands i = h.stands i := by
  unfold Hall.stands
  rw [Hall.startFrame_attention]

/-! ## Transitions of the Host Port (10 R174, R175, R177) -/

namespace HostPort

theorem takesWrite_iff {p : HostPort} :
    p.takesWrite = true ↔ p.phase = .receiving ∨ p.phase = .idle ∧ p.cs = .released := by
  unfold takesWrite
  cases p.phase <;> cases p.cs <;> simp

/-- The end of a transaction that is no taken write, its phase by an equation. -/
theorem release_eq (p : HostPort) :
    p.release = { p with cs := .released, phase := if p.phase = .receiving then .idle else p.phase } := by
  unfold release
  cases p.phase <;> rfl

/-- A read of the whole of an UNREAD answer. -/
theorem readDone_whole {p : HostPort} {a : Answer} {n : Nat} (unread : p.buffer = .unread a)
    (whole : (answerFrame a).length ≤ n) : p.readDone n = { p with buffer := .read a, ready := false } := by
  simp only [readDone, unread, if_pos whole]

/-- Any other read changes neither the buffer nor READY. -/
theorem readDone_part {p : HostPort} {n : Nat}
    (part : ∀ a, p.buffer = .unread a → n < (answerFrame a).length) : p.readDone n = p := by
  unfold readDone
  split
  next a unread => exact if_neg (Nat.not_le.mpr (part a unread))
  · rfl

/-! ATTN and the mask are no part of a transaction. -/

theorem readDone_bell (p : HostPort) (n : Nat) : (p.readDone n).attn = p.attn ∧ (p.readDone n).mask = p.mask := by
  unfold readDone
  split
  · split <;> exact ⟨rfl, rfl⟩
  · exact ⟨rfl, rfl⟩

theorem read_bell (p : HostPort) (n : Nat) : (p.read n).attn = p.attn ∧ (p.read n).mask = p.mask := by
  unfold read
  split
  · exact ⟨rfl, rfl⟩
  · exact readDone_bell (p.transact n) n

theorem select_bell (p : HostPort) : p.select.attn = p.attn ∧ p.select.mask = p.mask := by
  unfold select
  split <;> exact ⟨rfl, rfl⟩

/-- The clauses of `PortInv` on READY, the port phase and the answer buffer, without the one on ATTN. -/
structure LinesFit (p : HostPort) : Prop where
  ready : p.ready = true ↔ ∃ a, p.buffer = .unread a
  receiving : p.phase = .receiving ↔ p.cs = .asserted
  executing : p.phase = .executing ↔ p.hall ≠ .none
  empty : p.phase = .executing → p.buffer = .empty

namespace LinesFit

variable {p : HostPort}

/-- An answer placed with chip select not followed; what stood before does not matter. -/
theorem place (q : HostPort) (cs : q.cs ≠ .asserted) (a : Answer) : (q.place a).LinesFit where
  ready := by simp
  receiving := by simp [cs]
  executing := by simp
  empty := by simp

/-- A hall reset begun with chip select not followed. -/
theorem execute (q : HostPort) (cs : q.cs ≠ .asserted) {st : HallStage} (stage : st ≠ .none) :
    (q.execute st).LinesFit where
  ready := by simp
  receiving := by simp [cs]
  executing := by simp [stage]
  empty := by simp

/-- ATTN, the mask, the bytes shifted out and the count of discards are free. -/
theorem congr {q : HostPort} (fit : p.LinesFit) (phase : q.phase = p.phase) (cs : q.cs = p.cs)
    (buffer : q.buffer = p.buffer) (ready : q.ready = p.ready) (hall : q.hall = p.hall) : q.LinesFit := by
  obtain ⟨r, c, x, e⟩ := fit
  exact ⟨by rwa [ready, buffer], by rwa [phase, cs], by rwa [phase, hall], by rwa [phase, buffer]⟩

/-- Chip select released, or asserted unfollowed, by a port that receives nothing. -/
theorem unselect {q : HostPort} (fit : p.LinesFit) (still : p.phase ≠ .receiving) (cs : q.cs ≠ .asserted)
    (phase : q.phase = p.phase) (buffer : q.buffer = p.buffer) (ready : q.ready = p.ready) (hall : q.hall = p.hall) :
    q.LinesFit := by
  obtain ⟨r, -, x, e⟩ := fit
  exact ⟨by rwa [ready, buffer], by simp [phase, still, cs], by rwa [phase, hall], by rwa [phase, buffer]⟩

/-- A write that is not taken finds the port receiving nothing. -/
theorem transact_untaken (fit : p.LinesFit) (untaken : p.takesWrite ≠ true) (n : Nat) : (p.transact n).LinesFit :=
  fit.unselect (fun e => untaken (takesWrite_iff.mpr (.inl e))) (by simp) rfl rfl rfl rfl

theorem discard_untaken (fit : p.LinesFit) (untaken : p.takesWrite ≠ true) : p.discard.LinesFit :=
  (fit.transact_untaken untaken 0).congr rfl rfl rfl rfl rfl

/-- While a hall reset executes, chip select is not followed. -/
theorem unfollowed (fit : p.LinesFit) (runs : p.hall ≠ .none) : p.cs ≠ .asserted := by
  intro followed
  have phase := fit.executing.mpr runs
  rw [fit.receiving.mpr followed] at phase
  cases phase

/-- A port that does not execute has no hall reset in execution. -/
theorem no_stage (fit : p.LinesFit) (still : p.phase ≠ .executing) : p.hall = .none :=
  not_not.mp fun runs => still (fit.executing.mpr runs)

/-- The end of a transaction, wherever chip select stood: RECEIVING becomes IDLE, any other phase stays. -/
theorem release {q : HostPort} (fit : p.LinesFit) (phase : q.phase = p.phase) (buffer : q.buffer = p.buffer)
    (ready : q.ready = p.ready) (hall : q.hall = p.hall) : q.release.LinesFit := by
  obtain ⟨r, -, x, e⟩ := id fit
  rw [release_eq, phase]
  by_cases receives : p.phase = .receiving
  · have unstaged := fit.no_stage (by simp [receives])
    exact ⟨by simpa [ready, buffer] using r, by simp [receives], by simp [receives, hall, unstaged], by simp [receives]⟩
  · exact ⟨by simpa [ready, buffer] using r, by simp [receives], by simpa [receives, hall] using x,
      by simpa [receives, buffer] using e⟩

/-- A whole UNREAD answer becomes READ as READY falls (10 R175). -/
theorem becomesRead {a : Answer} (fit : p.LinesFit) (unread : p.buffer = .unread a) :
    { p with buffer := .read a, ready := false }.LinesFit := by
  refine ⟨by simp, fit.receiving, fit.executing, fun phase => ?_⟩
  have empty := fit.empty phase
  rw [unread] at empty
  cases empty

/-- A read transaction, whole or in part. -/
theorem read (fit : p.LinesFit) (n : Nat) : (p.read n).LinesFit := by
  unfold HostPort.read
  split
  · exact fit.release rfl rfl rfl rfl
  · by_cases whole : ∃ a, p.buffer = .unread a ∧ (answerFrame a).length ≤ n
    · obtain ⟨a, unread, long⟩ := whole
      rw [readDone_whole (p := p.transact n) unread long]
      exact (fit.becomesRead unread).release rfl rfl rfl rfl
    · rw [readDone_part (p := p.transact n) fun a unread => Nat.not_le.mp fun long => whole ⟨a, unread, long⟩]
      exact fit.release rfl rfl rfl rfl

/-- The falling edge of chip select: followed from IDLE, not followed by a port that executes. -/
theorem select (fit : p.LinesFit) : p.select.LinesFit := by
  unfold HostPort.select
  split
  next idle =>
    have unstaged := fit.no_stage (by simp [idle])
    exact ⟨fit.ready, by simp, by simp [unstaged], by simp⟩
  next released _ =>
    refine fit.unselect (fun receives => ?_) (by simp) rfl rfl rfl rfl
    have followed := fit.receiving.mp receives
    rw [released] at followed
    cases followed
  · exact fit

/-- The next stage of a hall reset in execution. -/
theorem stage (fit : p.LinesFit) (runs : p.hall ≠ .none) {st : HallStage} (next : st ≠ .none) :
    { p with hall := st }.LinesFit :=
  ⟨fit.ready, fit.receiving, ⟨fun _ => next, fun _ => fit.executing.mpr runs⟩, fit.empty⟩

theorem afterReset (p : HostPort) : p.afterReset.LinesFit := by
  have cs : p.afterReset.cs ≠ .asserted := by
    simp only [HostPort.afterReset]
    split <;> simp
  exact ⟨by simp [HostPort.afterReset, HostPort.reset], ⟨nofun, fun followed => absurd followed cs⟩,
    by simp [HostPort.afterReset, HostPort.reset], by simp [HostPort.afterReset, HostPort.reset]⟩

end LinesFit

end HostPort

namespace Machine

theorem portInv_iff {p : HostPort} {h : Hall} : PortInv p h ↔ p.LinesFit ∧ p.attn = h.calls p.mask := by
  rw [Bool.eq_iff_iff, Hall.calls_iff]
  exact ⟨fun ⟨r, c, x, e, a⟩ => ⟨⟨r, c, x, e⟩, a⟩, fun ⟨⟨r, c, x, e⟩, a⟩ => ⟨r, c, x, e, a⟩⟩

/-- A port whose lines agree meets the invariant once ATTN is judged. -/
theorem PortInv.of_judge {p : HostPort} (fit : p.LinesFit) (h : Hall) : PortInv (p.judge h) h :=
  portInv_iff.mpr ⟨fit.congr rfl rfl rfl rfl rfl, rfl⟩

/-- A transition of the port alone that leaves ATTN and the mask. -/
theorem PortInv.of_lines {p q : HostPort} {h : Hall} (inv : PortInv p h) (fit : q.LinesFit)
    (bell : q.attn = p.attn ∧ q.mask = p.mask) : PortInv q h := by
  obtain ⟨attn, mask⟩ := bell
  exact portInv_iff.mpr ⟨fit, by rw [attn, mask, (portInv_iff.mp inv).2]⟩

end Machine

/-- Device reset empties the attention set (10 R183). -/
theorem World.stands_afterReset (w : World) (i : AttnItem) : w.afterReset.hall.stands i = false :=
  (Hall.stands_startFrame _ i).trans (Tbl.get_fill i.index false)

end Sys2Proof

namespace Sys2Proof.Machine

/-! ## What a request does to the part (10 R174 to R177)

Three outcomes cover every request: a write that is not taken is discarded, a hall reset begins, and any other request
taken is answered, ATTENTION_MASK alone with another mask. -/

/-- The state with another attention mask. -/
def State.withMask (s : State) (m : BitVec 12) : State :=
  { s with port := { s.port with mask := m } }

section

variable {i : Instr} {code : Byte} {args : List Byte} {s : State}

/-- A request that the port does not take is discarded whole (10 R175). -/
theorem exec_untaken (h : requestArgs i = some (code, args)) (untaken : ¬ s.takes) :
    exec i s = .next (s.discarded (args.length + 3)) := by
  have no : s.port.takesWrite = false := Bool.not_eq_true _ ▸ untaken
  by_cases reset : ∃ c, i = .hallReset c
  · obtain ⟨c, rfl⟩ := reset
    cases h
    simp only [exec, execHallReset, no, Bool.false_and, Bool.false_eq_true, if_false]
    exact request_untaken untaken
  by_cases mask : ∃ k, i = .attentionMask k
  · obtain ⟨k, rfl⟩ := mask
    cases h
    simp only [exec, execAttentionMask, no]
    exact request_untaken untaken
  obtain ⟨f, run⟩ := exec_request h (fun c e => reset ⟨c, e⟩) (fun k e => mask ⟨k, e⟩)
  rw [run]
  exact request_untaken untaken

/-- Every request taken but HALL_RESET is answered with the code's echo; ATTENTION_MASK may replace the mask before. -/
theorem exec_answered (h : requestArgs i = some (code, args)) (reset : ∀ c, i ≠ .hallReset c) (takes : s.takes) :
    ∃ m r, exec i s = .next ((s.withMask m).answered (args.length + 3) code r) := by
  by_cases mask : ∃ k, i = .attentionMask k
  · obtain ⟨k, rfl⟩ := mask
    cases h
    rw [exec_attentionMask takes]
    cases maskOf k with
    | none => exact ⟨s.port.mask, _, rfl⟩
    | some m => exact ⟨m, _, rfl⟩
  · obtain ⟨f, run⟩ := exec_request h reset fun k e => mask ⟨k, e⟩
    rw [run, request_taken takes]
    exact ⟨s.port.mask, _, rfl⟩

/-- What any request does. -/
theorem exec_request_cases (h : requestArgs i = some (code, args)) (s : State) :
    (¬ s.takes ∧ exec i s = .next (s.discarded (args.length + 3))) ∨
    (∃ n, exec i s = .next { s with port := (s.port.transact n).execute .closing }) ∨
    ∃ m r, exec i s = .next ((s.withMask m).answered (args.length + 3) code r) := by
  by_cases takes : s.takes
  · by_cases reset : ∃ c, i = .hallReset c
    · obtain ⟨c, rfl⟩ := reset
      cases h
      rw [exec_hallReset takes]
      split
      · exact .inr (.inl ⟨_, rfl⟩)
      · exact .inr (.inr ⟨s.port.mask, _, rfl⟩)
    · exact .inr (.inr (exec_answered h (fun c e => reset ⟨c, e⟩) takes))
  · exact .inl ⟨takes, exec_untaken h takes⟩

end

/-! ## The transitions of the port and the steps of a hall reset -/

/-- The commands that are neither requests nor events. -/
def isTransition : Instr → Bool
  | .answerRead _ | .requestFrameRefused _ | .writeDiscarded | .hallResetFloorClose | .hallResetSeatRefresh
  | .hallResetRouteRefill | .hallResetAttentionClear | .deviceReset | .chipSelectAsserted => true
  | _ => false

theorem request_or_event_or_transition (c : Instr) :
    (∃ code args, requestArgs c = some (code, args)) ∨ isEvent c = true ∨ isTransition c = true := by
  cases c
  case seatFind k => cases k <;> exact .inl ⟨_, _, rfl⟩
  all_goals first
    | exact .inl ⟨_, _, rfl⟩
    | exact .inr (.inl rfl)
    | exact .inr (.inr rfl)

/-- A transaction of bytes (10 R174 to R176): none at all, a read, a frame refused with a status, or a frame handed
to its owner (log entry 24). -/
theorem exec_frame_cases (bytes : List Byte) (s : State) :
    exec (.requestFrameRefused bytes) s = .next { s with port := s.port.release } ∨
    (∃ n, exec (.requestFrameRefused bytes) s = .next { s with port := s.port.read n }) ∨
    (∃ n code st, exec (.requestFrameRefused bytes) s = request n code (fun w => refusal w st) s) ∨
    (∃ i code args, requestArgs i = some (code, args) ∧ exec (.requestFrameRefused bytes) s = exec i s) ∨
    exec (.requestFrameRefused bytes) s = .next s := by
  simp only [exec]
  unfold execRequestFrameRefused
  split
  · exact .inl rfl
  · split
    · exact .inr (.inl ⟨_, rfl⟩)
    · unfold writeFrame
      split
      case h_5 i _ =>
        cases a : requestArgs i with
        | none => exact .inr (.inr (.inr (.inr (runRequest_none a s))))
        | some x => exact .inr (.inr (.inr (.inl ⟨i, x.1, x.2, a, runRequest_eq a s⟩)))
      all_goals exact .inr (.inr (.inl ⟨_, _, _, rfl⟩))

/-! ## The invariant of the Host Port through every command -/

section

variable {s t : State}

theorem discarded_portInv (inv : PortInv s.port s.world.hall) (untaken : ¬ s.takes) (n : Nat) :
    PortInv (s.discarded n).port (s.discarded n).world.hall := by
  obtain ⟨fit, attn⟩ := portInv_iff.mp inv
  exact portInv_iff.mpr ⟨fit.transact_untaken untaken n, attn⟩

theorem answered_portInv (s : State) (n : Nat) (code : Byte) (r : Handled) :
    PortInv (s.answered n code r).port (s.answered n code r).world.hall :=
  .of_judge (.place _ (by simp) _) r.world.hall

theorem request_portInv (inv : PortInv s.port s.world.hall) {n : Nat} {code : Byte} {f : World → Handled}
    (e : request n code f s = .next t) : PortInv t.port t.world.hall := by
  by_cases takes : s.takes
  · rw [request_taken takes] at e
    cases e
    exact answered_portInv s n code _
  · rw [request_untaken takes] at e
    cases e
    exact discarded_portInv inv takes n

theorem exec_portInv_of_request {i : Instr} {code : Byte} {args : List Byte} (inv : PortInv s.port s.world.hall)
    (h : requestArgs i = some (code, args)) (e : exec i s = .next t) : PortInv t.port t.world.hall := by
  obtain ⟨untaken, run⟩ | ⟨n, run⟩ | ⟨m, r, run⟩ := exec_request_cases h s <;> rw [run] at e <;> cases e
  · exact discarded_portInv inv untaken _
  · exact portInv_iff.mpr ⟨.execute _ (by simp) (by simp), (portInv_iff.mp inv).2⟩
  · exact answered_portInv _ _ code r

/-- A step of a hall reset: the next stage, and ATTN judged. -/
theorem stage_portInv {stage : HallStage} {f : World → World} (inv : PortInv s.port s.world.hall)
    (runs : s.port.hall ≠ .none) (next : stage ≠ .none)
    (e : event f { s with port := { s.port with hall := stage } } = .next t) : PortInv t.port t.world.hall := by
  cases e
  exact .of_judge ((portInv_iff.mp inv).1.stage runs next) _

/-- What is neither a request nor an event, a frame apart, keeps the invariant. -/
theorem exec_portInv_of_transition {c : Instr} (raw : ∀ bytes, c ≠ .requestFrameRefused bytes)
    (inv : PortInv s.port s.world.hall) (h : isTransition c = true) (e : exec c s = .next t) :
    PortInv t.port t.world.hall := by
  have fit := (portInv_iff.mp inv).1
  cases c <;> simp only [exec] at e
  case answerRead n =>
    cases e
    exact inv.of_lines (fit.read n) (HostPort.read_bell _ n)
  case chipSelectAsserted =>
    cases e
    exact inv.of_lines fit.select (HostPort.select_bell _)
  case writeDiscarded =>
    unfold execWriteDiscarded at e
    split at e <;> cases e
    · exact inv
    next untaken => exact inv.of_lines (fit.discard_untaken untaken) ⟨rfl, rfl⟩
  case deviceReset =>
    cases e
    exact portInv_iff.mpr ⟨.afterReset _, (Hall.calls_of_empty (World.stands_afterReset _) _).symm⟩
  case hallResetFloorClose =>
    unfold execHallResetFloorClose at e
    split at e <;> cases e
    · exact .of_judge fit _
    · exact inv
  case hallResetSeatRefresh =>
    unfold execHallResetSeatRefresh at e
    split at e
    next closing _ => exact stage_portInv inv (by simp [closing]) (by simp) e
    · cases e
      exact inv
  case hallResetRouteRefill =>
    unfold execHallResetRouteRefill at e
    split at e
    next refreshed => exact stage_portInv inv (by simp [refreshed]) (by simp) e
    · cases e
      exact inv
  case hallResetAttentionClear =>
    unfold execHallResetAttentionClear at e
    split at e <;> cases e
    next refilled => exact .of_judge (.place _ (fit.unfollowed (by simp [refilled])) _) _
    · exact inv
  case requestFrameRefused bytes => exact absurd rfl (raw bytes)
  all_goals cases h

/-- A transaction of bytes keeps the invariant, as a read, as a refused frame, or as the request it carries. -/
theorem exec_portInv_of_frame {bytes : List Byte} (inv : PortInv s.port s.world.hall)
    (e : exec (.requestFrameRefused bytes) s = .next t) : PortInv t.port t.world.hall := by
  have fit := (portInv_iff.mp inv).1
  obtain run | ⟨n, run⟩ | ⟨n, code, st, run⟩ | ⟨i, code, args, h, run⟩ | run := exec_frame_cases bytes s <;>
    rw [run] at e
  · cases e
    exact inv.of_lines (fit.release rfl rfl rfl rfl) ⟨rfl, rfl⟩
  · cases e
    exact inv.of_lines (fit.read n) (HostPort.read_bell _ n)
  · exact request_portInv inv e
  · exact exec_portInv_of_request inv h e
  · cases e
    exact inv

/-- Every command keeps the invariant of the Host Port. -/
theorem exec_portInv {c : Instr} (inv : PortInv s.port s.world.hall) (e : exec c s = .next t) :
    PortInv t.port t.world.hall := by
  obtain ⟨code, args, h⟩ | h | h := request_or_event_or_transition c
  · exact exec_portInv_of_request inv h e
  · obtain ⟨f, run⟩ := exec_event h
    rw [run, event_next] at e
    cases e
    exact .of_judge (portInv_iff.mp inv).1 _
  · by_cases raw : ∃ bytes, c = .requestFrameRefused bytes
    · obtain ⟨bytes, rfl⟩ := raw
      exact exec_portInv_of_frame inv e
    · exact exec_portInv_of_transition (fun bytes k => raw ⟨bytes, k⟩) inv h e

/-- Settles O8: every command keeps the invariant (`exec_portInv`), and an empty queue idles. -/
theorem hostPortInvariantIsKept : Obligations.HostPortInvariantIsKept := by
  intro s t inv e
  unfold step at e
  split at e
  · cases e
    exact inv
  next c rest _ => exact exec_portInv (s := s.withPending rest) inv e

end

/-! ## Every command runs (10 R177, R183) -/

/-- Settles O2: requests and events by their shapes, the port's own transitions case by case. -/
theorem everyCommandRuns : Obligations.EveryCommandRuns := by
  intro c s
  have request_runs_of : ∀ {i code args}, requestArgs i = some (code, args) →
      ∃ t, exec i s = .next t ∧ t.pending = s.pending := fun h => by
    obtain ⟨-, run⟩ | ⟨n, run⟩ | ⟨m, r, run⟩ := exec_request_cases h s <;> exact ⟨_, run, rfl⟩
  obtain ⟨code, args, h⟩ | h | h := request_or_event_or_transition c
  · exact request_runs_of h
  · obtain ⟨f, run⟩ := exec_event h
    exact ⟨_, run s, rfl⟩
  · cases c
    case requestFrameRefused bytes =>
      obtain run | ⟨n, run⟩ | ⟨n, code, st, run⟩ | ⟨i, code, args, h, run⟩ | run := exec_frame_cases bytes s <;>
        rw [run]
      · exact ⟨_, rfl, rfl⟩
      · exact ⟨_, rfl, rfl⟩
      · exact request_runs n code _ s
      · exact request_runs_of h
      · exact ⟨_, rfl, rfl⟩
    case answerRead | deviceReset | chipSelectAsserted => exact ⟨_, rfl, rfl⟩
    case writeDiscarded =>
      simp only [exec, execWriteDiscarded]
      split <;> exact ⟨_, rfl, rfl⟩
    case hallResetFloorClose =>
      simp only [exec, execHallResetFloorClose]
      split <;> exact ⟨_, rfl, rfl⟩
    case hallResetSeatRefresh =>
      simp only [exec, execHallResetSeatRefresh]
      split <;> exact ⟨_, rfl, rfl⟩
    case hallResetRouteRefill =>
      simp only [exec, execHallResetRouteRefill]
      split <;> exact ⟨_, rfl, rfl⟩
    case hallResetAttentionClear =>
      simp only [exec, execHallResetAttentionClear]
      split <;> exact ⟨_, rfl, rfl⟩
    all_goals cases h

/-- Settles O3: a request taken is answered (`exec_answered`), and `answered_port` says what that leaves. -/
theorem requestIsAnswered : Obligations.RequestIsAnswered := by
  intro i code args s h reset takes
  obtain ⟨m, r, run⟩ := exec_answered h reset takes
  obtain ⟨buffer, ready, phase, cs, out, mask, attn⟩ := answered_port (s.withMask m) (args.length + 3) code r
  exact ⟨_, r.status, r.payload, run, buffer, ready, phase, cs, by rw [attn, mask], out⟩

end Sys2Proof.Machine

namespace Sys2Proof.Machine

/-! ## Refusals (10 R176)

`Handled.Fair` is what a refusal may be; every request taken is answered by a fair one. -/

/-- The statuses of a request refused with no record changed: BAD_KEY relocks the layout (01 R2). -/
def refuses (st : Status) : Prop :=
  st ≠ .ok ∧ st ≠ .accepted ∧ st ≠ .badKey

/-- An answer that refuses changes no record and has an empty payload. -/
def Handled.Fair (w : World) (r : Handled) : Prop :=
  refuses r.status → r = refusal w r.status

namespace Handled.Fair

variable {w v : World}

@[simp] theorem refused (st : Status) : (refusal w st).Fair w := fun _ => rfl

@[simp] theorem ok (p : Payload) : Handled.Fair w ⟨v, .ok, p⟩ := fun ⟨no, _, _⟩ => absurd rfl no

@[simp] theorem accepted (p : Payload) : Handled.Fair w ⟨v, .accepted, p⟩ := fun ⟨_, no, _⟩ => absurd rfl no

@[simp] theorem badKey : (refusal v .badKey).Fair w := fun ⟨_, _, no⟩ => absurd rfl no

@[simp] theorem done : (done v).Fair w := ok .empty

/-! ### Arguments that name a record -/

theorem floor {b : Byte} {k : FloorId → Handled} (fair : ∀ f, (k f).Fair w) : (withFloor w b k).Fair w := by
  unfold withFloor
  split
  · exact fair _
  · exact refused _

theorem session {b : Byte} {k : FloorId → Session → Handled} (fair : ∀ f x, (k f x).Fair w) :
    (withSession w b k).Fair w := by
  refine floor fun f => ?_
  split
  · exact fair f _
  · exact refused _

theorem live {b : Byte} {k : FloorId → Handled} (fair : ∀ f, (k f).Fair w) : (withLive w b k).Fair w := by
  refine floor fun f => ?_
  split
  · exact fair f
  · exact refused _

theorem seat {b : Half} {k : SeatId → Seat → Handled} (fair : ∀ n r, (k n r).Fair w) : (withSeat w b k).Fair w := by
  unfold withSeat
  split
  · exact refused _
  · split
    · exact fair _ _
    · exact refused _

theorem booth {b : Byte} {k : BoothId → Handled} (fair : ∀ i, (k i).Fair w) : (withBooth w b k).Fair w := by
  unfold withBooth
  split
  · exact fair _
  · exact refused _

theorem boothSeat {b : Byte} {n : Half} {k : BoothId → SeatId → Seat → Handled} (fair : ∀ i m r, (k i m r).Fair w) :
    (withBoothSeat w b n k).Fair w :=
  booth fun i => seat fun m r => fair i m r

theorem wall {b : Byte} {k : WallId → Handled} (fair : ∀ i, (k i).Fair w) : (withWall w b k).Fair w := by
  unfold withWall
  split
  · exact fair _
  · exact refused _

theorem defined {b : Byte} {k : WallId → Wall → Handled} (fair : ∀ i x, (k i x).Fair w) :
    (withDefined w b k).Fair w := by
  refine wall fun i => ?_
  split
  · exact fair i _
  · exact refused _

theorem target {b : Byte} {k : PortId → Handled} (fair : ∀ p, (k p).Fair w) : (withTarget w b k).Fair w := by
  unfold withTarget
  split
  · exact refused _
  · split
    · exact refused _
    · exact fair _
  · split
    · exact fair _
    · exact refused _

/-! ### Requests with checks of their own -/

@[simp] theorem define {i : WallId} {a b : SectionId} {src : WallSource} {settle : Nat} {policy : MergePolicy} :
    (defineRequest w i a b src settle policy).Fair w := by
  unfold defineRequest
  (repeat' split) <;> simp

@[simp] theorem place {n : SeatId} {p : Option SectionId} : (placeRequest w n p).Fair w := by
  unfold placeRequest
  (repeat' split) <;> simp

@[simp] theorem openFloor {f : FloorId} {a : SectionId} {p : Nat} : (openRequest w f a p).Fair w := by
  unfold openRequest
  (repeat' split) <;> simp

@[simp] theorem grantSeat {f : FloorId} {n : SeatId} {r : Seat} {d : Bool} : (grantSeat w f n r d).Fair w := by
  unfold Machine.grantSeat
  (repeat' split) <;> simp

@[simp] theorem insertSeat {f : FloorId} {n : SeatId} {r : Seat} {pos : Nat} : (insertSeatAt w f n r pos).Fair w := by
  unfold insertSeatAt
  dsimp only
  (repeat' split) <;> simp

@[simp] theorem clear {b o : Byte} : (clearRequest w b o).Fair w := by
  unfold clearRequest
  (repeat' split) <;> simp

@[simp] theorem output {b : BoothId} {o : Out} {l : Lang} {want : Option ChannelId} :
    (outputRequest w b o l want).Fair w := by
  unfold outputRequest
  (repeat' split) <;> simp

end Handled.Fair

section

variable {s : State}

/-- A request answered by a fair answer. -/
def AnswersFairly (s : State) (o : Host.Outcome State Fault Refusal) : Prop :=
  ∃ n code r, o = .next (s.answered n code r) ∧ r.Fair s.world

theorem request_answersFairly {n : Nat} {code : Byte} {f : World → Handled} (takes : s.takes)
    (fair : (f s.world).Fair s.world) : AnswersFairly s (request n code f s) :=
  ⟨n, code, _, request_taken takes, fair⟩

/-- Every request answers fairly, grouped by the record its arguments name; HALL_RESET and ATTENTION_MASK, which are no
plain requests, apart. -/
theorem exec_answersFairly {i : Instr} {a : Byte × List Byte} (h : requestArgs i = some a)
    (reset : ∀ c, i ≠ .hallReset c) (mask : ∀ k, i ≠ .attentionMask k) (takes : s.takes) :
    AnswersFairly s (exec i s) := by
  cases i <;> simp only [exec]
  case hallReset c => exact absurd rfl (reset c)
  case attentionMask k => exact absurd rfl (mask k)
  case layoutOpen | layoutConfirm | layoutClose | sectionSet | wallDefine | seatPlace | seatFind | maskSet
      | rosterChanges | floorOpen | queueInsert | boothOutput | boothOutputClear | boothSet | channelRead | chainConfig
      | readAttention | clockRead | identify =>
    refine request_answersFairly takes ?_
    (repeat' split) <;> simp
  case wallRemove | wallRead =>
    refine request_answersFairly takes (.wall fun i => ?_)
    (repeat' split) <;> simp
  case mergeConfirm | mergeRefuse =>
    refine request_answersFairly takes (.defined fun i x => ?_)
    (repeat' split) <;> simp
  case wallSet =>
    refine request_answersFairly takes ?_
    split
    · exact .refused _
    · refine .defined fun i x => ?_
      (repeat' split) <;> simp
  case floorClose | floorRead | bankWrite | speakersRead | queueRead =>
    refine request_answersFairly takes (.floor fun f => ?_)
    (repeat' split) <;> simp
  case bankSwapNormal | bankSwapForce | bankCancel =>
    refine request_answersFairly takes (.session fun f x => ?_)
    (repeat' split) <;> simp
  case bankRead | floorSet =>
    refine request_answersFairly takes ?_
    split
    · exact .refused _
    · exact .session fun f x => .ok _
  case queueClear | floorPriorityOn | floorPriorityOff =>
    refine request_answersFairly takes (.live fun f => ?_)
    (repeat' split) <;> simp
  case grant =>
    refine request_answersFairly takes ?_
    split
    · refine .live fun f => ?_
      split <;> simp
    · exact .refused _
  case seatRead | seatRetire | closeMic | queueRemove =>
    refine request_answersFairly takes (.seat fun n r => ?_)
    (repeat' split) <;> simp
  case seatRole =>
    refine request_answersFairly takes ?_
    split
    · exact .refused _
    · refine .seat fun n r => ?_
      (repeat' split) <;> simp
  case boothRelease | boothRead =>
    refine request_answersFairly takes (.booth fun b => ?_)
    (repeat' split) <;> simp
  case boothAssign =>
    refine request_answersFairly takes (.booth fun b => .floor fun f => ?_)
    split <;> simp
  case boothAddDesk | boothRemoveDesk =>
    refine request_answersFairly takes (.boothSeat fun b n r => ?_)
    (repeat' split) <;> simp
  case ringTest | enrollFull | enrollExtend | enrollAbort | chainReset | chainRead =>
    refine request_answersFairly takes (.target fun p => ?_)
    (repeat' split) <;> simp
  all_goals cases h

/-- What a fair answer that refuses leaves. -/
theorem AnswersFairly.refused {t : State} {st : Status} {code : Byte} {p : Payload}
    {o : Host.Outcome State Fault Refusal} (fair : AnswersFairly s o) (run : o = .next t)
    (buffer : t.port.buffer = .unread ⟨st, code, p⟩) (bad : refuses st) :
    t.world = s.world ∧ p = .empty := by
  obtain ⟨n, echo, ⟨w, status, payload⟩, answered, fair⟩ := fair
  rw [answered] at run
  cases run
  cases buffer
  cases fair bad
  exact ⟨rfl, rfl⟩

/-- Settles O4: HALL_RESET and ATTENTION_MASK by their arguments, every other request by `exec_answersFairly`. -/
theorem refusedRequestChangesNothing : Obligations.RefusedRequestChangesNothing := by
  intro i code args s t st p h takes run buffer ok accepted badKey
  have bad : refuses st := ⟨ok, accepted, badKey⟩
  by_cases reset : ∃ c, i = .hallReset c
  · obtain ⟨c, rfl⟩ := reset
    rw [exec_hallReset takes] at run
    split at run
    · cases run
      cases buffer
    · exact AnswersFairly.refused ⟨_, _, _, rfl, .refused _⟩ run buffer bad
  by_cases mask : ∃ k, i = .attentionMask k
  · obtain ⟨k, rfl⟩ := mask
    rw [exec_attentionMask takes] at run
    split at run
    · cases run
      cases buffer
      exact absurd rfl ok
    · exact AnswersFairly.refused ⟨_, _, _, rfl, .refused _⟩ run buffer bad
  · exact (exec_answersFairly h (fun c e => reset ⟨c, e⟩) (fun k e => mask ⟨k, e⟩) takes).refused run buffer bad

end

end Sys2Proof.Machine

namespace Sys2Proof

/-! ## Request frames read back (10 R176, 11 R184, R185)

Two directions. A well-formed request is parsed from its own code and arguments. And what a code with arguments parses
to is a request of that code with as many argument bytes; this is a property of each row of the table of request codes. -/

/-- A well-formed request is what its code and arguments parse to. -/
theorem parseRequest_requestArgs {i : Instr} {code : Byte} {args : List Byte} (fits : i.wellFormed = true)
    (h : requestArgs i = some (code, args)) : parseRequest code args = .request i := by
  cases i
  case seatFind k =>
    cases k <;> cases h
    · rfl
    next c => exact congrArg (fun c => Parsed.request (.seatFind (.card c))) (word_bytes c)
  case bankWrite f items =>
    cases h
    have fit : bankItemsFit items = true := fits
    show argsBank (f :: _) = _
    simp only [argsBank, bankItems_bytes, fit, if_true]
  case boothOutput b o l c =>
    cases h
    have named : l ≠ 0xFF#8 := by simpa [Instr.wellFormed, languageNamed] using fits
    exact if_neg named
  case layoutOpen k => cases h; exact congrArg (fun k => Parsed.request (.layoutOpen k)) (half_bytes k)
  case layoutConfirm k => cases h; exact congrArg (fun k => Parsed.request (.layoutConfirm k)) (half_bytes k)
  case seatPlace n x => cases h; exact congrArg (fun n => Parsed.request (.seatPlace n x)) (half_bytes n)
  case seatRead n => cases h; exact congrArg (fun n => Parsed.request (.seatRead n)) (half_bytes n)
  case seatRole n x => cases h; exact congrArg (fun n => Parsed.request (.seatRole n x)) (half_bytes n)
  case seatRetire n => cases h; exact congrArg (fun n => Parsed.request (.seatRetire n)) (half_bytes n)
  case grant f n d => cases h; exact congrArg (fun n => Parsed.request (.grant f n d)) (half_bytes n)
  case closeMic n => cases h; exact congrArg (fun n => Parsed.request (.closeMic n)) (half_bytes n)
  case queueInsert f n p => cases h; exact congrArg (fun n => Parsed.request (.queueInsert f n p)) (half_bytes n)
  case queueRemove n => cases h; exact congrArg (fun n => Parsed.request (.queueRemove n)) (half_bytes n)
  case boothAddDesk b n => cases h; exact congrArg (fun n => Parsed.request (.boothAddDesk b n)) (half_bytes n)
  case boothRemoveDesk b n => cases h; exact congrArg (fun n => Parsed.request (.boothRemoveDesk b n)) (half_bytes n)
  case attentionMask k => cases h; exact congrArg (fun k => Parsed.request (.attentionMask k)) (half_bytes k)
  case hallReset c => cases h; exact congrArg (fun c => Parsed.request (.hallReset c)) (half_bytes c)
  all_goals cases h <;> rfl

/-- A row of the table: what its parser makes of arguments is a request of its code with as many argument bytes. -/
def RowFits (row : Byte × (List Byte → Parsed)) : Prop :=
  ∀ args i, row.2 args = .request i → ∃ back, requestArgs i = some (row.1, back) ∧ back.length = args.length

/-- The items of a BANK_WRITE are read from three bytes each. -/
theorem bankItems_length {args : List Byte} {items : List BankItem} (h : bankItems args = some items) :
    args.length = 3 * items.length := by
  induction args using bankItems.induct generalizing items with
  | case1 =>
    cases h
    rfl
  | case2 f a b rest ih =>
    obtain ⟨tail, read, rfl⟩ := Option.map_eq_some_iff.mp h
    simp only [List.length_cons, ih read]
    omega
  | case3 => simp_all [bankItems]

namespace RowFits

variable {code : Byte}

theorem none {i : Instr} (h : requestArgs i = some (code, [])) : RowFits (code, args0 i) := by
  intro args j e
  simp only [args0] at e
  split at e <;> cases e
  exact ⟨_, h, rfl⟩

theorem one {f : Byte → Instr} (h : ∀ a, requestArgs (f a) = some (code, [a])) : RowFits (code, args1 f) := by
  intro args j e
  simp only [args1] at e
  split at e <;> cases e
  exact ⟨_, h _, rfl⟩

theorem two {f : Byte → Byte → Instr} (h : ∀ a b, requestArgs (f a b) = some (code, [a, b])) :
    RowFits (code, args2 f) := by
  intro args j e
  simp only [args2] at e
  split at e <;> cases e
  exact ⟨_, h _ _, rfl⟩

theorem three {f : Byte → Byte → Byte → Instr} (h : ∀ a b c, requestArgs (f a b c) = some (code, [a, b, c])) :
    RowFits (code, args3 f) := by
  intro args j e
  simp only [args3] at e
  split at e <;> cases e
  exact ⟨_, h _ _ _, rfl⟩

theorem half {f : Half → Instr} (h : ∀ n, requestArgs (f n) = some (code, halfBytes n)) :
    RowFits (code, argsHalf f) := by
  intro args j e
  simp only [argsHalf] at e
  split at e <;> cases e
  exact ⟨_, h _, rfl⟩

theorem halfByte {f : Half → Byte → Instr}
    (h : ∀ n a, requestArgs (f n a) = some (code, halfBytes n ++ [a])) : RowFits (code, argsHalfByte f) := by
  intro args j e
  simp only [argsHalfByte] at e
  split at e <;> cases e
  exact ⟨_, h _ _, rfl⟩

theorem byteHalf {f : Byte → Half → Instr}
    (h : ∀ a n, requestArgs (f a n) = some (code, a :: halfBytes n)) : RowFits (code, argsByteHalf f) := by
  intro args j e
  simp only [argsByteHalf] at e
  split at e <;> cases e
  exact ⟨_, h _ _, rfl⟩

theorem byteHalfByte {f : Byte → Half → Byte → Instr}
    (h : ∀ a n b, requestArgs (f a n b) = some (code, a :: halfBytes n ++ [b])) :
    RowFits (code, argsByteHalfByte f) := by
  intro args j e
  simp only [argsByteHalfByte] at e
  split at e <;> cases e
  exact ⟨_, h _ _ _, rfl⟩

theorem kind {zero one : Byte → Instr} (hz : ∀ a, requestArgs (zero a) = some (code, [a, 0#8]))
    (ho : ∀ a, requestArgs (one a) = some (code, [a, 1#8])) : RowFits (code, argsKind zero one) := by
  intro args j e
  simp only [argsKind] at e
  split at e
  · split at e
    · cases e
      exact ⟨_, hz _, rfl⟩
    · split at e <;> cases e
      exact ⟨_, ho _, rfl⟩
  · cases e

theorem wall : RowFits (0x14#8, argsWall) := by
  intro args j e
  simp only [argsWall] at e
  split at e <;> cases e
  exact ⟨_, rfl, rfl⟩

theorem find : RowFits (0x22#8, argsFind) := by
  intro args j e
  simp only [argsFind] at e
  split at e <;> cases e <;> exact ⟨_, rfl, rfl⟩

theorem output : RowFits (0x51#8, argsOutput) := by
  intro args j e
  simp only [argsOutput] at e
  split at e
  · split at e <;> cases e <;> exact ⟨_, rfl, rfl⟩
  · cases e

theorem bank : RowFits (0x34#8, argsBank) := by
  intro args j e
  simp only [argsBank] at e
  split at e
  · cases e
  next f rest =>
    split at e
    next items read =>
      split at e <;> cases e
      refine ⟨_, rfl, ?_⟩
      rw [List.length_cons, List.length_cons, Machine.itemBytes_length, bankItems_length read]
    · cases e

end RowFits

/-- Every row of the table of request codes fits (11 R185). -/
theorem requestTable_fits : ∀ row ∈ requestTable, RowFits row := by
  simp only [requestTable, List.forall_mem_append, List.forall_mem_cons, List.not_mem_nil,
    false_implies, implies_true, and_true]
  refine ⟨⟨⟨⟨⟨?layoutAndSeats, ?floors⟩, ?speech⟩, ?booths⟩, ?chains⟩, ?port⟩
  case layoutAndSeats =>
    exact ⟨.half fun _ => rfl, .half fun _ => rfl, .none rfl, .two fun _ _ => rfl, .wall, .one fun _ => rfl,
      .two fun _ _ => rfl, .one fun _ => rfl, .one fun _ => rfl, .one fun _ => rfl, .halfByte fun _ _ => rfl,
      .half fun _ => rfl, .find, .halfByte fun _ _ => rfl, .half fun _ => rfl, .two fun _ _ => rfl, .none rfl⟩
  case floors =>
    exact ⟨.three fun _ _ _ => rfl, .one fun _ => rfl, .two fun _ _ => rfl, .one fun _ => rfl, .bank,
      .two fun _ _ => rfl, .kind (fun _ => rfl) fun _ => rfl, .one fun _ => rfl⟩
  case speech =>
    exact ⟨.byteHalfByte fun _ _ _ => rfl, .half fun _ => rfl, .byteHalfByte fun _ _ _ => rfl, .half fun _ => rfl,
      .one fun _ => rfl, .kind (fun _ => rfl) fun _ => rfl, .one fun _ => rfl, .two fun _ _ => rfl⟩
  case booths =>
    exact ⟨.two fun _ _ => rfl, .output, .byteHalf fun _ _ => rfl, .byteHalf fun _ _ => rfl,
      .three fun _ _ _ => rfl, .one fun _ => rfl, .one fun _ => rfl, .one fun _ => rfl⟩
  case chains =>
    exact ⟨.two fun _ _ => rfl, .kind (fun _ => rfl) fun _ => rfl, .one fun _ => rfl, .one fun _ => rfl,
      .two fun _ _ => rfl, .one fun _ => rfl⟩
  case port => exact ⟨.none rfl, .half fun _ => rfl, .half fun _ => rfl, .none rfl, .none rfl⟩

/-- A request parsed from a code and arguments is a request of that code with as many argument bytes. -/
theorem requestArgs_of_parseRequest {code : Byte} {args : List Byte} {i : Instr}
    (h : parseRequest code args = .request i) :
    ∃ back, requestArgs i = some (code, back) ∧ back.length = args.length := by
  unfold parseRequest at h
  split at h
  next f found =>
    obtain ⟨before, after, cut, -⟩ := List.lookup_eq_some_iff.mp found
    exact requestTable_fits (code, f) (by simp [cut]) args i h
  · cases h

/-! ## Frames judged -/

/-- A frame handed to its owner has the length of that request's frame. -/
theorem judgeFrame_length {bytes : List Byte} {i : Instr} (h : judgeFrame bytes = .request i) :
    ∃ code back, requestArgs i = some (code, back) ∧ bytes.length = back.length + 3 := by
  unfold judgeFrame at h
  split at h
  · cases h
  · split at h
    next code len args good =>
      split at h
      · split at h <;> cases h
        next parsed =>
          obtain ⟨back, echo, same⟩ := requestArgs_of_parseRequest parsed
          refine ⟨code, back, echo, ?_⟩
          rw [unsealed_some good, same]
          simp [sealed]
      · cases h
    · cases h

/-- A short frame, or one whose last byte is no check byte of those before it (10 R176 check 1). -/
theorem judgeFrame_bad {bytes : List Byte}
    (bad : bytes.length < 3 ∨ bytes.getLast? ≠ some (checkByte bytes.dropLast)) : judgeFrame bytes = .badFrame := by
  unfold judgeFrame
  split
  · rfl
  next long =>
    have unchecked : unsealed bytes = none := by
      unfold unsealed
      split
      next c last => exact if_neg fun check => (bad.resolve_left long) (by rw [last, check])
      · rfl
    rw [unchecked]

/-- A frame built from a code and arguments begins with the code and is three bytes longer than the arguments. -/
theorem requestFrame_eq (code : Byte) (args : List Byte) :
    ∃ rest, requestFrame code args = code :: rest ∧ rest.length = args.length + 2 :=
  ⟨_, rfl, by simp⟩

/-- The arguments of a well-formed request fit a frame (10 R174, 11 R185): a BANK_WRITE has the most. -/
theorem requestArgs_fit {i : Instr} {code : Byte} {args : List Byte} (fits : i.wellFormed = true)
    (h : requestArgs i = some (code, args)) : args.length ≤ 48 := by
  cases i
  case bankWrite f items =>
    cases h
    simp only [Instr.wellFormed, bankItemsFit, Bool.and_eq_true, decide_eq_true_eq] at fits
    rw [List.length_cons, Machine.itemBytes_length]
    omega
  case seatFind k => cases k <;> cases h <;> simp [wordBytes]
  all_goals cases h <;> simp [halfBytes]

/-- No request code is the idle filler. -/
theorem requestArgs_ne_filler {i : Instr} {code : Byte} {args : List Byte} (h : requestArgs i = some (code, args)) :
    code ≠ filler := by
  cases i
  case seatFind k => cases k <;> cases h <;> decide
  all_goals cases h <;> decide

namespace Machine

/-- A transaction whose first byte is no filler is a write (10 R174). -/
theorem exec_write {code : Byte} {rest : List Byte} (named : code ≠ filler) (s : State) :
    exec (.requestFrameRefused (code :: rest)) s = writeFrame code (code :: rest) s :=
  if_neg named

/-- Settles O6: the arguments of a well-formed request fit a frame, and they parse to it. -/
theorem requestFrameIsReadBack : Obligations.RequestFrameIsReadBack := by
  intro i code args fits h
  rw [judgeFrame_request code args (requestArgs_fit fits h), parseRequest_requestArgs fits h]
  rfl

/-- A refused frame is answered with its status, and no record changes. -/
theorem exec_refusedFrame {code : Byte} {rest : List Byte} {s : State} {st : Status} (named : code ≠ filler)
    (takes : s.takes)
    (refused : writeFrame code (code :: rest) s = request (rest.length + 1) code (fun w => refusal w st) s) :
    exec (.requestFrameRefused (code :: rest)) s = .next (s.answered (rest.length + 1) code ⟨s.world, st, .empty⟩) := by
  rw [exec_write named, refused, request_taken takes]
  rfl

theorem writeFrame_untaken {code : Byte} {bytes : List Byte} {s : State} (untaken : ¬ s.takes) :
    writeFrame code bytes s = .next (s.discarded bytes.length) := by
  unfold writeFrame
  split
  case h_5 i judged =>
    obtain ⟨echo, back, args, long⟩ := judgeFrame_length judged
    rw [runRequest_eq args, exec_untaken args untaken, long]
  all_goals exact request_untaken untaken

/-- Settles O5: requests by `exec_untaken`, frames by `writeFrame_untaken`. -/
theorem untakenWriteIsDiscarded : Obligations.UntakenWriteIsDiscarded := by
  refine ⟨fun i code args s h untaken => exec_untaken h untaken, fun code rest s named untaken => ?_,
    fun s untaken => ?_⟩
  · rw [exec_write named, writeFrame_untaken untaken]
    rfl
  · exact ⟨_, Nat.succ_pos _, if_neg untaken⟩

/-- Settles O7: a good frame is handed to its owner (`requestFrameIsReadBack`), and each refusal is a verdict of
`judgeFrame`. -/
theorem framesRunOrAreRefused : Obligations.FramesRunOrAreRefused := by
  refine ⟨fun i code args s fits h => ?_, fun code rest s takes named bad => ?_,
    fun code args s takes named short unknown => ?_, fun code args s takes named short length => ?_⟩
  · obtain ⟨rest, frame, -⟩ := requestFrame_eq code args
    have judged := requestFrameIsReadBack i code args fits h
    rw [frame] at judged ⊢
    rw [exec_write (requestArgs_ne_filler h), writeFrame, judged]
    exact runRequest_eq h s
  · exact exec_refusedFrame named takes (by rw [writeFrame, judgeFrame_bad bad]; rfl)
  · obtain ⟨rest, frame, long⟩ := requestFrame_eq code args
    have judged := judgeFrame_request code args short
    rw [frame] at judged ⊢
    rw [show args.length + 3 = rest.length + 1 by omega]
    refine exec_refusedFrame named takes ?_
    simp only [writeFrame, judged, parseRequest, unknown, Parsed.verdict, List.length_cons]
  · obtain ⟨rest, frame, long⟩ := requestFrame_eq code args
    have judged := judgeFrame_request code args short
    rw [frame] at judged ⊢
    rw [show args.length + 3 = rest.length + 1 by omega]
    refine exec_refusedFrame named takes ?_
    simp only [writeFrame, judged, length, Parsed.verdict, List.length_cons]

end Machine

end Sys2Proof

namespace Sys2Proof

/-! ## Read transactions (10 R174, R175) -/

theorem Buffer.shifted_of_held {x : Buffer} {a : Answer} (held : x.held = some a) (n : Nat) :
    x.shifted n = (answerFrame a).take n ++ List.replicate (n - (answerFrame a).length) 0xFF#8 := by
  simp only [shifted, held, filler]

theorem Buffer.shifted_of_empty {x : Buffer} (empty : x.held = none) (n : Nat) :
    x.shifted n = List.replicate n 0xFF#8 := by
  simp only [shifted, empty, filler]

/-- The port at the end of a transaction that was no taken write, with these bytes shifted out. -/
def HostPort.finished (p : HostPort) (out : List Byte) : HostPort :=
  { p with cs := .released, phase := if p.phase = .receiving then .idle else p.phase, readOut := out }

namespace HostPort

variable {p : HostPort} {a : Answer} {n : Nat}

/-- A read of the whole of an UNREAD answer: the answer becomes READ and READY falls. -/
theorem read_whole (unread : p.buffer = .unread a) (whole : (answerFrame a).length ≤ n) (bytes : 0 < n) :
    p.read n = { p with buffer := .read a, ready := false }.finished (p.buffer.shifted n) := by
  rw [read, if_neg (Nat.pos_iff_ne_zero.mp bytes), readDone_whole (p := p.transact n) unread whole]
  exact release_eq _

/-- Any other read of at least one byte shifts the bytes out alone. -/
theorem read_part (part : ∀ a, p.buffer = .unread a → n < (answerFrame a).length) (bytes : 0 < n) :
    p.read n = p.finished (p.buffer.shifted n) := by
  rw [read, if_neg (Nat.pos_iff_ne_zero.mp bytes), readDone_part (p := p.transact n) part]
  exact release_eq _

end HostPort

/-- Every answer frame has bytes: status, echo, length and check byte at least. -/
theorem answerFrame_pos (a : Answer) : 0 < (answerFrame a).length := by
  simp [answerFrame, sealed]

namespace Machine

theorem exec_answerRead (n : Nat) (s : State) : exec (.answerRead n) s = .next { s with port := s.port.read n } := rfl

/-- Settles O13: each read by `HostPort.read_whole` or `HostPort.read_part`, with the bytes of the frame held. -/
theorem readTransactions : Obligations.ReadTransactions := by
  refine ⟨fun s a n unread whole => ?_, fun s a n unread bytes short => ?_, fun s a n read bytes => ?_,
    fun s n empty bytes => ?_, fun s => ?_, fun s idle released => ?_, fun s executing released => ?_⟩
  · have bytes : 0 < n := Nat.lt_of_lt_of_le (answerFrame_pos a) whole
    have out : s.port.buffer.shifted n = _ := Buffer.shifted_of_held (by rw [unread]; rfl) n
    rw [exec_answerRead, HostPort.read_whole unread whole bytes, out, List.take_of_length_le whole]
    rfl
  · have part : ∀ b, s.port.buffer = .unread b → n < (answerFrame b).length := fun b held => by
      rw [unread] at held
      cases held
      exact short
    have out : s.port.buffer.shifted n = _ := Buffer.shifted_of_held (by rw [unread]; rfl) n
    rw [exec_answerRead, HostPort.read_part part bytes, out, Nat.sub_eq_zero_of_le (Nat.le_of_lt short),
      List.replicate_zero, List.append_nil]
    rfl
  · have out : s.port.buffer.shifted n = _ := Buffer.shifted_of_held (by rw [read]; rfl) n
    rw [exec_answerRead, HostPort.read_part (by simp [read]) bytes, out]
    rfl
  · have out : s.port.buffer.shifted n = _ := Buffer.shifted_of_empty (by rw [empty]; rfl) n
    rw [exec_answerRead, HostPort.read_part (by simp [empty]) bytes, out]
    rfl
  · rw [exec_answerRead, HostPort.read, if_pos rfl, HostPort.release_eq]
  · simp only [exec, execChipSelectAsserted, HostPort.select, idle, released]
  · simp only [exec, execChipSelectAsserted, HostPort.select, executing, released]

/-! ## Attention, identity and the start of a hall reset (10 R179 to R182) -/

theorem exec_readAttention {s : State} (takes : s.takes) :
    exec .readAttention s = .next (s.answered 3 0x70#8
      ⟨inHall s.world s.world.hall.clearAttention, .ok, .attention s.world.hall.items⟩) := by
  show execReadAttention s = _
  exact request_answers takes rfl

/-- Settles O14: the payload is the set in order, and the emptied set calls under no mask (`Hall.calls_of_empty`). -/
theorem readAttentionEmptiesTheSet : Obligations.ReadAttentionEmptiesTheSet := by
  intro s takes
  obtain ⟨buffer, -, -, -, -, mask, attn⟩ := answered_port s 3 0x70#8
    ⟨inHall s.world s.world.hall.clearAttention, .ok, .attention s.world.hall.items⟩
  refine ⟨_, exec_readAttention takes, buffer, Hall.stands_clearAttention _, ?_, mask, rfl⟩
  rw [attn]
  exact Hall.calls_of_empty (Hall.stands_clearAttention _) _

theorem maskOf_some {kinds : Half} (twelve : kinds.toNat < 4096) : maskOf kinds = some (kinds.setWidth 12) :=
  if_pos twelve

theorem maskOf_none {kinds : Half} (more : 4096 ≤ kinds.toNat) : maskOf kinds = none :=
  if_neg (Nat.not_lt.mpr more)

/-- Settles O15: `exec_attentionMask` by whether the argument names the twelve kinds alone. -/
theorem attentionMaskIsReplaced : Obligations.AttentionMaskIsReplaced := by
  refine ⟨fun kinds s takes twelve => ?_, fun kinds s takes more => ?_⟩
  · have run := exec_attentionMask (k := kinds) takes
    rw [maskOf_some twelve] at run
    exact ⟨_, run, rfl, rfl, rfl, rfl⟩
  · rw [exec_attentionMask takes, maskOf_none more]

/-- Settles O17: IDENTIFY by its answer, HALL_RESET by its argument (`exec_hallReset`). -/
theorem identifyAndHallReset : Obligations.IdentifyAndHallReset := by
  refine ⟨fun s takes => ?_, fun s takes => ?_, fun c s takes other => ?_⟩
  · show execIdentify s = _
    exact request_answers takes rfl
  · rw [exec_hallReset takes, if_pos (show 0x4F12#16 = partCode from rfl)]
    rfl
  · rw [exec_hallReset takes, if_neg (show ¬ c = partCode from other)]

end Machine

end Sys2Proof

namespace Sys2Proof

/-! ## The steps of a hall reset (10 R181) -/

/-- What a seat position says of listening: the desk fields and the tuned channel of its seat. -/
def SeatPos.listening : SeatPos → Option (Option DeskFields × Option ChannelId)
  | .held r => some (r.desk, r.tuned)
  | _ => none

namespace Hall

section

variable {h : Hall}

/-! ### The seat refresh (02 R39) -/

/-- Where no floor is LIVE, a section is a member of none. -/
theorem floorAt_eq_none (dead : ∀ f, (h.floor f).state ≠ .live) (k : SectionId) : h.floorAt k = none := by
  refine Tbl.lowest_none.mpr fun f => ?_
  have closed : (h.floors.get f).isLive = false := decide_eq_false (dead f)
  simp only [closed, Bool.false_and]

/-- So a seat that is no desk resolves to no channel (02 R29). -/
theorem resolve_eq_none (dead : ∀ f, (h.floor f).state ≠ .live) (n : SeatId) {r : Seat} (plain : r.desk = none) :
    h.resolve n r = none := by
  have nowhere : h.floorOf r = none := by
    unfold floorOf
    cases r.place with
    | none => rfl
    | some k => exact floorAt_eq_none dead k
  simp only [resolve, plain, tunedListener, nowhere, Option.bind_none]

theorem listening_recompose (h : Hall) (m n : SeatId) :
    ((h.recompose m).seats.get n).listening = (h.seats.get n).listening := by
  unfold recompose updSeat
  split
  next s held =>
    rw [Tbl.get_set]
    split
    next same =>
      rw [← same, held]
      rfl
    · rfl
  · rfl

theorem listening_refreshSeats (h : Hall) (n : SeatId) :
    (h.refreshSeats.seats.get n).listening = (h.retuned (fun _ _ => true) n (h.seats.get n)).listening := by
  have recomposed : ∀ g : Hall, ∀ ns, ((g.recomposeAll ns).seats.get n).listening = (g.seats.get n).listening :=
    fun g ns => foldl_keeps (part := fun k => (k.seats.get n).listening) (fun k m => listening_recompose k m n) ns g
  have seats : (h.retune fun _ _ => true).seats = h.seats.imap (h.retuned fun _ _ => true) := rfl
  rw [refreshSeats, recomposed, seats, Tbl.get_imap]

/-- With no floor LIVE, the refresh leaves every seat that is no desk with tuned channel NONE. -/
theorem refreshSeats_tuned (dead : ∀ f, (h.floor f).state ≠ .live) {n : SeatId} {r : Seat}
    (held : h.refreshSeats.seat? n = some r) (plain : r.desk = none) : r.tuned = none := by
  have view := listening_refreshSeats h n
  rw [seat?_held.mp held] at view
  cases before : h.seats.get n with
  | held s =>
    rw [before] at view
    obtain ⟨desk, tuned⟩ := Prod.mk.inj (Option.some.inj view)
    rw [tuned]
    exact resolve_eq_none dead n (desk.symm.trans plain)
  | free | reserved =>
    rw [before] at view
    cases view

theorem refreshSeats_floors (h : Hall) : h.refreshSeats.floors = h.floors :=
  (recomposeAll_floors _ _).trans (retune_floors h _)

theorem refreshSeats_channels (h : Hall) : h.refreshSeats.channels = h.channels :=
  (recomposeAll_channels _ _).trans (retune_channels h _)

/-! ### The route refill (06 R115) -/

theorem startFrame_of_inFlight (sending : h.inFlight.isSome = true) : h.startFrame = h := by
  unfold startFrame
  split
  next idle _ _ => simp [idle] at sending
  · rfl

theorem routeRefill_eq : routeRefill = .slot 0 none :: routeRefill.tail := rfl

/-- No frame begins while one is in flight or HOLD is ACTIVE. -/
theorem refillRoutes_waits (waits : h.inFlight.isSome = true ∨ h.hold = true) :
    h.refillRoutes = { h with routeQueue := routeRefill } := by
  obtain sending | active := waits
  · exact startFrame_of_inFlight (h := { h with routeQueue := routeRefill }) sending
  · exact startFrame_of_held (h := { h with routeQueue := routeRefill }) active

/-- The first target is sent at once on an idle link with HOLD INACTIVE. -/
theorem refillRoutes_begins (idle : h.inFlight = none) (inactive : h.hold = false) :
    h.refillRoutes = { h with
      routeQueue := routeRefill.tail, inFlight := some (.slot 0 none), link := routeFrame (.slot 0 none) } :=
  startFrame_begins_head (h := { h with routeQueue := routeRefill }) idle inactive routeRefill_eq

end

end Hall

namespace Machine

section

variable {s : State}

theorem lowestLive_eq {h : Hall} {f : FloorId} (live : (h.floor f).state = .live)
    (below : ∀ g, g < f → (h.floor g).state ≠ .live) : lowestLive h = some f :=
  Tbl.lowest_eq (decide_eq_true live) fun g lower => decide_eq_false (below g lower)

theorem lowestLive_none {h : Hall} (dead : ∀ f, (h.floor f).state ≠ .live) : lowestLive h = none :=
  Tbl.lowest_none.mpr fun f => decide_eq_false (dead f)

theorem exec_hallResetFloorClose {f : FloorId} (closing : s.port.hall = .closing)
    (lowest : lowestLive s.world.hall = some f) :
    exec .hallResetFloorClose s = .next (s.after (inHall s.world (s.world.hall.closeFloor s.world.clock f))) := by
  simp only [exec, execHallResetFloorClose, closing, lowest, event_next]

theorem exec_hallResetSeatRefresh (closing : s.port.hall = .closing) (dead : lowestLive s.world.hall = none) :
    exec .hallResetSeatRefresh s = .next ({ s with port := { s.port with hall := .refreshed } }.after
      (inHall s.world s.world.hall.refreshSeats)) := by
  simp only [exec, execHallResetSeatRefresh, closing, dead, event_next]

theorem exec_hallResetRouteRefill (refreshed : s.port.hall = .refreshed) :
    exec .hallResetRouteRefill s = .next ({ s with port := { s.port with hall := .refilled } }.after
      (inHall s.world s.world.hall.refillRoutes)) := by
  simp only [exec, execHallResetRouteRefill, refreshed, event_next]

theorem exec_hallResetAttentionClear (refilled : s.port.hall = .refilled) :
    exec .hallResetAttentionClear s = .next ({ s with port := s.port.place ⟨.ok, 0x72#8, .empty⟩ }.after
      (inHall s.world s.world.hall.clearAttention)) := by
  simp only [exec, execHallResetAttentionClear, refilled, event_next]

/-- Settles O18: each step by its run, with `Hall.closeFloor_floor`, `Hall.refreshSeats_tuned`, the route refill and the
emptied set. -/
theorem hallResetSteps : Obligations.HallResetSteps := by
  refine ⟨fun s f closing live below => ?_, fun s closing dead => ?_, fun s refreshed => ?_, fun s refilled => ?_⟩
  · refine ⟨_, exec_hallResetFloorClose closing (lowestLive_eq live below), ?_, closing⟩
    exact Hall.closeFloor_floor s.world.clock (by simp [live])
  · exact ⟨_, exec_hallResetSeatRefresh closing (lowestLive_none dead), rfl, Hall.refreshSeats_floors _,
      Hall.refreshSeats_channels _, fun n r held _ plain => Hall.refreshSeats_tuned dead held plain⟩
  · refine ⟨_, exec_hallResetRouteRefill refreshed, rfl, fun waits => ?_, fun idle inactive => ?_⟩
    · rw [State.after_world, inHall_hall, Hall.refillRoutes_waits waits]
      exact ⟨rfl, rfl⟩
    · rw [State.after_world, inHall_hall, Hall.refillRoutes_begins idle inactive]
      exact ⟨rfl, rfl⟩
  · refine ⟨_, exec_hallResetAttentionClear refilled, Hall.stands_clearAttention _, ?_, rfl, rfl, rfl, rfl, rfl⟩
    rw [State.after_port, HostPort.judge_attn]
    exact Hall.calls_of_empty (Hall.stands_clearAttention _) _

end

end Machine

/-! ## Device reset (10 R183) -/

namespace World

/-- The hall after a device reset, before the first frame begins: the reset one with the route queue full. -/
def resetHall (w : World) : Hall :=
  { Hall.reset with routeQueue := routeRefill, inFlight := none, link := [], hold := w.hall.hold }

theorem afterReset_hall (w : World) : w.afterReset.hall = w.resetHall.startFrame := rfl

/-- The 48 targets in order, the first perhaps in flight (06 R115). -/
theorem afterReset_routes (w : World) :
    w.afterReset.hall.inFlight.toList ++ w.afterReset.hall.routeQueue = routeRefill := by
  rw [afterReset_hall]
  cases hold : w.hall.hold with
  | false =>
    rw [Hall.startFrame_begins_head (h := w.resetHall) rfl hold Hall.routeRefill_eq]
    rfl
  | true =>
    rw [Hall.startFrame_of_held (h := w.resetHall) hold]
    rfl

end World

namespace Machine

/-- Settles O19: the Host Port and the records at their reset values by the definition, the hall through the frame that
may begin (`World.afterReset_routes`). -/
theorem deviceReset : Obligations.DeviceReset := by
  intro s
  obtain ⟨masks, cursor, hold⟩ := settings_iff.mp (Steady.startFrame s.world.resetHall).settings
  obtain ⟨delegate, chair, desk⟩ := masks
  refine ⟨_, rfl, rfl, rfl, rfl, rfl, rfl, rfl, rfl, rfl, World.stands_afterReset s.world, fun n => ?_, fun n => ?_,
    cursor, delegate, chair, desk, afterReset_floor s.world, fun n => ?_, fun c => ?_, fun b => ?_, hold,
    World.afterReset_routes s.world⟩
  all_goals simp [World.afterReset_hall, World.resetHall, Hall.reset]

/-- The invariant of the channels where every floor is CLOSED, every channel FREE and no booth assigned. -/
theorem channelInv_of_reset {h : Hall} (seats : ∀ n, h.seat? n = none) (floors : ∀ f, h.floor f = Floor.reset)
    (channels : ∀ c, h.channels.get c = Channel.reset) (booths : ∀ b, h.booths.get b = Booth.reset) : ChannelInv h := by
  have use : ∀ c, (h.channels.get c).use = none := fun c => by rw [channels c]; rfl
  have output : ∀ b o, (h.output b o).use = none := fun b o => by rw [Hall.output, booths b]; cases o <;> rfl
  have state : ∀ f, (h.floor f).state = .closed := fun f => by rw [floors f]; rfl
  refine ⟨fun c _ => by rw [channels c]; rfl, fun c u used => ?_, fun f => ?_, fun f c original => ?_,
    fun f x folded => ?_, fun b o v used => ?_, fun b _ => ⟨output b .a, output b .b⟩, fun b f home => ?_,
    fun n d held => ?_, fun f l c d u v _ _ used => ?_, fun l c d u v used => ?_⟩
  · simp [use] at used
  · simp [floors, Floor.reset]
  · simp [floors, Floor.reset, Floor.original?] at original
  · simp [state] at folded
  · simp [output] at used
  · simp [booths, Booth.reset] at home
  · simp [Hall.desk?, seats] at held
  · simp [use] at used
  · simp [use] at used

/-- Settles O12: the layout and the speech by what device reset leaves (`layoutInv_deviceReset`,
`speechInv_afterReset`), since a device reset of the reset part changes nothing; the port and the channels by their reset values. -/
theorem invariantsHoldAtReset : Obligations.InvariantsHoldAtReset := by
  have empty : ∀ i, State.reset.world.hall.stands i = false := fun i => Tbl.get_fill i.index false
  have lines : State.reset.port.LinesFit :=
    ⟨by simp [State.reset, HostPort.reset], by decide, by decide, fun _ => rfl⟩
  have again : State.reset.world = World.reset.afterReset := rfl
  have speech : SpeechInv State.reset.world.hall := again ▸ speechInv_afterReset World.reset
  refine ⟨portInv_iff.mpr ⟨lines, (Hall.calls_of_empty empty _).symm⟩,
    layoutInv_deviceReset Layout.reset, speech, channelInv_of_reset ?_ ?_ ?_ ?_⟩
  · exact fun n => by simp [Hall.seat?, State.reset, World.reset, Hall.reset]
  all_goals exact fun i => Tbl.get_fill i _

end Machine

end Sys2Proof

/-! PROOFS. What a step takes from the queue (log entry 1), and what the commands of one unit leave of another's records:
layout and chains, and between the Speech Arbiter and the Interpretation Unit floors, voice slots, channels and booths. -/

namespace Sys2Proof.Machine

/-! ## A step by its queue -/

theorem step_withPending_cons (c : Instr) (rest : List Instr) (s : State) :
    step (s.withPending (c :: rest)) = exec c (s.withPending rest) := rfl

theorem step_of_pending_nil {s : State} (empty : s.pending = []) : step s = .next s := by
  unfold step
  rw [empty]

/-- Settles O1: a queued command by the front of the queue, an empty queue by the idle branch. -/
theorem stepRunsFrontCommand : Obligations.StepRunsFrontCommand :=
  ⟨step_withPending_cons, fun _ => step_of_pending_nil⟩

end Sys2Proof.Machine

namespace Sys2Proof

/-! ## What lies outside one unit -/

/-- The records that no speech request writes: channels, booths and chains. -/
def World.soundAndChain (w : World) : (Tbl Channel 32 × Tbl Booth 12) × Chain :=
  (w.hall.sound, w.chain)

/-- The records that no booth request writes: floors, voice slots and chains. -/
def World.talkAndChain (w : World) : (Tbl Floor 6 × Tbl (Option HeldSlot) 16) × Chain :=
  (w.hall.talk, w.chain)

theorem World.soundAndChain_iff {w v : World} :
    v.soundAndChain = w.soundAndChain ↔
      (v.hall.channels = w.hall.channels ∧ v.hall.booths = w.hall.booths) ∧ v.chain = w.chain := by
  simp only [World.soundAndChain, Hall.sound, Prod.mk.injEq]

theorem World.talkAndChain_iff {w v : World} :
    v.talkAndChain = w.talkAndChain ↔
      (v.hall.floors = w.hall.floors ∧ v.hall.slots = w.hall.slots) ∧ v.chain = w.chain := by
  simp only [World.talkAndChain, Hall.talk, Prod.mk.injEq]

theorem World.chain_of_soundAndChain {w v : World} (k : v.soundAndChain = w.soundAndChain) : v.chain = w.chain :=
  congrArg Prod.snd k

theorem World.chain_of_talkAndChain {w v : World} (k : v.talkAndChain = w.talkAndChain) : v.chain = w.chain :=
  congrArg Prod.snd k

namespace Talk

/-- The last steps of a BOOTH_OUTPUT with a language (07 R121). -/
theorem fillOutput (h : Hall) (b : BoothId) (o : Out) (x : Output) :
    ((h.setOutput b o x).enterSilent b o).talk = h.talk :=
  (enterSilent _ b o).trans rfl

end Talk

namespace Machine

section

variable {w : World} {s t : State}

/-! ## The speech requests leave channels, booths and chains (04 section 4.9) -/

/-- An event of the Speech Arbiter, closed by its run. -/
theorem spoken_soundAndChain {h : Hall} (k : h.sound = w.hall.sound) : (spoken w h).soundAndChain = w.soundAndChain :=
  Prod.ext ((Sound.arbitrate _ h).trans k) rfl

theorem grantSeat_soundAndChain (w : World) (f : FloorId) (n : SeatId) (r : Seat) (d : Bool) :
    (grantSeat w f n r d).world.soundAndChain = w.soundAndChain := by
  unfold grantSeat
  split
  · rfl
  · split
    · split
      · split
        · exact spoken_soundAndChain (Sound.passTurn _ (w.hall.waitsOnlyOn f n) f n _)
        · rfl
      · rfl
    · split
      · exact spoken_soundAndChain (Sound.grant _ (w.hall.waitsOnlyOn f n) f n _)
      · rfl

theorem insertSeatAt_soundAndChain (w : World) (f : FloorId) (n : SeatId) (r : Seat) (k : Nat) :
    (insertSeatAt w f n r k).world.soundAndChain = w.soundAndChain := by
  unfold insertSeatAt
  extract_lets fl
  repeat' split
  all_goals first
    | rfl
    | exact spoken_soundAndChain (Sound.joinQueue _ f _ _)

/-- Speech requests reach neither channels nor booths nor chains. -/
theorem exec_speech {c : Instr} (h : isSpeech c = true) (e : exec c s = .next t) :
    t.world.soundAndChain = s.world.soundAndChain := by
  by_cases read : isRead c = true
  · rw [exec_read read e]
  cases c <;> simp only [exec] at e
  case grant =>
    refine request_keeps World.soundAndChain ?_ e
    split
    · refine withLive_keeps World.soundAndChain fun f => ?_
      split
      · exact grantSeat_soundAndChain _ f _ _ _
      · rfl
    · rfl
  case closeMic =>
    refine request_keeps World.soundAndChain (withSeat_keeps World.soundAndChain fun n _ => ?_) e
    split
    · exact spoken_soundAndChain (Sound.endTurn _ _ _ n _)
    · rfl
  case queueInsert =>
    refine request_keeps World.soundAndChain ?_ e
    repeat' split
    all_goals first
      | rfl
      | exact insertSeatAt_soundAndChain _ _ _ _ _
  case queueRemove =>
    refine request_keeps World.soundAndChain (withSeat_keeps World.soundAndChain fun n _ => ?_) e
    split
    · exact spoken_soundAndChain (Sound.removeEntry _ _ n _)
    · rfl
  case queueClear =>
    refine request_keeps World.soundAndChain (withLive_keeps World.soundAndChain fun f => ?_) e
    split
    · rfl
    · exact spoken_soundAndChain (Sound.removeEntries _ f _ _)
  case floorPriorityOn =>
    refine request_keeps World.soundAndChain (withLive_keeps World.soundAndChain fun f => ?_) e
    exact spoken_soundAndChain (Sound.priorityAct _ (s.world.hall.updFloor f _) f)
  case floorPriorityOff =>
    refine request_keeps World.soundAndChain (withLive_keeps World.soundAndChain fun f => ?_) e
    split
    · exact spoken_soundAndChain (Sound.liftIfEmpty (s.world.hall.updFloor f _) f)
    · rfl
  case speakersRead | queueRead => exact absurd rfl read
  all_goals cases h

/-! ## The booth requests leave floors, voice slots and chains (07 section 7.3) -/

theorem inHall_talkAndChain {h : Hall} (k : h.talk = w.hall.talk) : (inHall w h).talkAndChain = w.talkAndChain :=
  Prod.ext k rfl

theorem clearRequest_talkAndChain (w : World) (b o : Byte) :
    (clearRequest w b o).world.talkAndChain = w.talkAndChain := by
  unfold clearRequest
  split
  · split
    · rfl
    · exact inHall_talkAndChain (Talk.clearOutput _ _ _ _)
  · rfl

theorem outputRequest_talkAndChain (w : World) (b : BoothId) (o : Out) (l : Lang) (want : Option ChannelId) :
    (outputRequest w b o l want).world.talkAndChain = w.talkAndChain := by
  unfold outputRequest
  split
  · rfl
  · split
    · rfl
    · split
      · rfl
      · split
        · rfl
        next given => exact inHall_talkAndChain ((Talk.fillOutput _ b o _).trans (Talk.allocate given))

/-- Booth requests reach neither floors nor voice slots nor chains. -/
theorem exec_booth {c : Instr} (h : isBooth c = true) (e : exec c s = .next t) :
    t.world.talkAndChain = s.world.talkAndChain := by
  by_cases read : isRead c = true
  · rw [exec_read read e]
  cases c <;> simp only [exec] at e
  case boothAssign =>
    refine request_keeps World.talkAndChain (withBooth_keeps World.talkAndChain fun b =>
      withFloor_keeps World.talkAndChain fun f => ?_) e
    split
    · rfl
    · exact inHall_talkAndChain (Talk.retune (updBooth s.world.hall b _) _)
  case boothOutput b o _ _ =>
    refine request_keeps World.talkAndChain ?_ e
    split
    · exact clearRequest_talkAndChain _ b o
    · split
      · split
        · rfl
        · exact outputRequest_talkAndChain _ _ _ _ _
      · rfl
  case boothOutputClear b o => exact request_keeps World.talkAndChain (clearRequest_talkAndChain _ b o) e
  case boothAddDesk =>
    refine request_keeps World.talkAndChain (withBoothSeat_keeps World.talkAndChain fun b n _ => ?_) e
    repeat' split
    all_goals first
      | rfl
      | exact inHall_talkAndChain (Talk.tailOfRemoval _ b n _)
  case boothRemoveDesk =>
    refine request_keeps World.talkAndChain (withBoothSeat_keeps World.talkAndChain fun b n _ => ?_) e
    split
    · exact inHall_talkAndChain (Talk.removeDesk _ b n)
    · rfl
  case boothSet =>
    refine request_keeps World.talkAndChain ?_ e
    split <;> rfl
  case boothRelease =>
    refine request_keeps World.talkAndChain (withBooth_keeps World.talkAndChain fun b => ?_) e
    split
    · exact inHall_talkAndChain (Talk.releaseBooth _ b)
    · rfl
  case boothRead => exact absurd rfl read
  all_goals cases h

theorem changesLayout_of_isSpeech {c : Instr} (h : isSpeech c = true) : changesLayout c = false := by
  cases c <;> first | rfl | cases h

theorem changesLayout_of_isBooth {c : Instr} (h : isBooth c = true) : changesLayout c = false := by
  cases c <;> first | rfl | cases h

/-- Settles O23: the records of sound or of speech with the chains by `exec_speech` and `exec_booth`, the layout by
`exec_layout`. -/
theorem speechAndBoothFrames : Obligations.SpeechAndBoothFrames := by
  refine ⟨fun c s t speech e => ?_, fun c s t booth e => ?_⟩
  · obtain ⟨⟨channels, booths⟩, chain⟩ := World.soundAndChain_iff.mp (exec_speech speech e)
    exact ⟨channels, booths, exec_layout (changesLayout_of_isSpeech speech) e, chain⟩
  · obtain ⟨⟨floors, slots⟩, chain⟩ := World.talkAndChain_iff.mp (exec_booth booth e)
    exact ⟨floors, slots, exec_layout (changesLayout_of_isBooth booth) e, chain⟩

/-! ## The commands of the other blocks leave the chains -/

theorem sensedChange_chain (w : World) (i : WallId) (x : Wall) (pos : WallPos) :
    (w.sensedChange i x pos).chain = w.chain := by
  unfold World.sensedChange
  extract_lets y
  split
  · obtain ⟨_, _, chain⟩ := World.applySensed_hall (w.setWall i y) i y
    exact chain
  · rfl

theorem relock_chain (w : World) : w.relock.chain = w.chain := by
  obtain ⟨_, _, chain⟩ := World.relock_hall w
  exact chain

theorem settleExpires_chain (w : World) (i : WallId) : (w.settleExpires i).chain = w.chain := by
  unfold World.settleExpires
  split
  · split
    · exact sensedChange_chain w i _ _
    · rfl
  · rfl

/-- The commands that may change the layout leave the chains, but for the tick, device reset and raw frames, which reach
both. -/
theorem exec_chain_of_layout {c : Instr} (h : changesLayout c = true) (other : changesChain c = false)
    (e : exec c s = .next t) : t.world.chain = s.world.chain := by
  cases c <;> simp only [exec] at e
  case layoutOpen | sectionSet =>
    refine request_keeps World.chain ?_ e
    (repeat' split) <;> rfl
  case layoutConfirm =>
    refine request_keeps World.chain ?_ e
    split
    · split
      · rfl
      · rw [refusal_world, relock_chain]
    · rfl
  case layoutClose =>
    refine request_keeps World.chain ?_ e
    split
    · rfl
    · rw [done_world, relock_chain]
  case armWindowExpiry | idleTimerExpiry =>
    refine event_keeps World.chain ?_ e
    split
    · simp only [relock_chain]
    · rfl
  case wallDefine =>
    refine request_keeps World.chain ?_ e
    unfold defineRequest
    (repeat' split) <;> rfl
  case wallRemove =>
    refine request_keeps World.chain ?_ e
    exact withWall_keeps World.chain fun _ => by (repeat' split) <;> rfl
  case wallSet =>
    refine request_keeps World.chain ?_ e
    split
    · rfl
    · refine withDefined_keeps World.chain fun i x => ?_
      split
      · rfl
      · split
        · rfl
        · rw [done_world, sensedChange_chain]
  case mergeConfirm | mergeRefuse =>
    refine request_keeps World.chain ?_ e
    exact withDefined_keeps World.chain fun _ _ => by (repeat' split) <;> rfl
  case wallLineChange => exact event_keeps World.chain rfl e
  case settleTimerExpiry i => exact event_keeps World.chain (settleExpires_chain _ i) e
  case seatPlace =>
    refine request_keeps World.chain ?_ e
    unfold placeRequest
    (repeat' split) <;> rfl
  case sessionTick | deviceReset | requestFrameRefused => cases other
  all_goals cases h

/-- The requests of the Seat Table and of the Floor Table that change records of the floor blocks alone. -/
def isSeatOrFloor : Instr → Bool
  | .seatRole _ _ | .maskSet _ _ | .rosterChanges | .floorOpen _ _ _ | .floorClose _ | .floorSet _ _ | .bankWrite _ _
  | .bankSwapNormal _ | .bankSwapForce _ | .bankCancel _ => true
  | _ => false

theorem exec_chain_of_seatOrFloor {c : Instr} (h : isSeatOrFloor c = true) (e : exec c s = .next t) :
    t.world.chain = s.world.chain := by
  cases c <;> simp only [exec] at e
  case seatRole =>
    refine request_keeps World.chain ?_ e
    split
    · rfl
    · exact withSeat_keeps World.chain fun _ _ => by (repeat' split) <;> rfl
  case maskSet =>
    refine request_keeps World.chain ?_ e
    split <;> rfl
  case rosterChanges => exact request_keeps World.chain rfl e
  case floorOpen =>
    refine request_keeps World.chain ?_ e
    unfold openRequest
    (repeat' split) <;> rfl
  case floorClose | bankWrite =>
    refine request_keeps World.chain ?_ e
    exact withFloor_keeps World.chain fun _ => by (repeat' split) <;> rfl
  case floorSet =>
    refine request_keeps World.chain ?_ e
    split
    · rfl
    · exact withSession_keeps World.chain fun _ _ => rfl
  case bankSwapNormal | bankCancel =>
    refine request_keeps World.chain ?_ e
    exact withSession_keeps World.chain fun _ _ => by (repeat' split) <;> simp [refusal, done]
  case bankSwapForce =>
    refine request_keeps World.chain ?_ e
    exact withSession_keeps World.chain fun _ _ => by simp [done]
  all_goals cases h

/-- The transactions of the Host Port and the steps of a hall reset. -/
def isPortOrHallStep : Instr → Bool
  | .answerRead _ | .writeDiscarded | .chipSelectAsserted | .readAttention | .attentionMask _ | .hallReset _
  | .hallResetFloorClose | .hallResetSeatRefresh | .hallResetRouteRefill | .hallResetAttentionClear => true
  | _ => false

theorem exec_chain_of_port {c : Instr} (h : isPortOrHallStep c = true) (e : exec c s = .next t) :
    t.world.chain = s.world.chain := by
  cases c <;> simp only [exec] at e
  case answerRead | chipSelectAsserted =>
    cases e
    rfl
  case readAttention => exact request_keeps World.chain rfl e
  case writeDiscarded =>
    unfold execWriteDiscarded at e
    split at e <;> cases e <;> rfl
  case attentionMask =>
    unfold execAttentionMask at e
    split at e
    next m _ _ => exact request_keeps World.chain (s := { s with port := { s.port with mask := m } }) rfl e
    · exact request_keeps World.chain rfl e
  case hallReset =>
    unfold execHallReset at e
    split at e
    · cases e
      rfl
    · exact request_keeps World.chain rfl e
  case hallResetFloorClose =>
    unfold execHallResetFloorClose at e
    split at e <;> cases e <;> rfl
  case hallResetSeatRefresh =>
    unfold execHallResetSeatRefresh at e
    split at e <;> cases e <;> rfl
  case hallResetRouteRefill =>
    unfold execHallResetRouteRefill at e
    split at e <;> cases e <;> rfl
  case hallResetAttentionClear =>
    unfold execHallResetAttentionClear at e
    split at e <;> cases e <;> rfl
  all_goals cases h

/-- The ends of timers and the commands of the Route Output link. -/
def isTimerOrRoute : Instr → Bool
  | .turnTimerZeroCut _ | .turnTimerZeroWarn _ | .flashEnd _ | .graceExpiry _ | .fallbackDelayExpiry _ _
  | .routeFrameDone | .holdActive | .holdInactive => true
  | _ => false

theorem exec_chain_of_timerOrRoute {c : Instr} (h : isTimerOrRoute c = true) (e : exec c s = .next t) :
    t.world.chain = s.world.chain := by
  cases c <;> simp only [exec] at e
  case turnTimerZeroCut | turnTimerZeroWarn =>
    refine event_keeps World.chain ?_ e
    split <;> rfl
  case flashEnd | graceExpiry | fallbackDelayExpiry | routeFrameDone | holdActive | holdInactive =>
    exact event_keeps World.chain rfl e
  all_goals cases h

/-- Every command may change a chain or belongs to one of the families that do not. -/
theorem chain_families (c : Instr) :
    (changesChain c || isRead c || changesLayout c || isSeatOrFloor c || isSpeech c || isBooth c || isTimerOrRoute c ||
      isPortOrHallStep c) = true := by
  cases c <;> rfl

/-- Only the commands of the Chain Controller reach ports, rings and the frames sent. -/
theorem exec_chain {c : Instr} (other : changesChain c = false) (e : exec c s = .next t) :
    t.world.chain = s.world.chain := by
  have families := chain_families c
  simp only [other, Bool.false_or, Bool.or_eq_true] at families
  obtain ((((((read | layout) | seatOrFloor) | speech) | booth) | timerOrRoute) | port) := families
  · rw [exec_read read e]
  · exact exec_chain_of_layout layout other e
  · exact exec_chain_of_seatOrFloor seatOrFloor e
  · exact World.chain_of_soundAndChain (exec_speech speech e)
  · exact World.chain_of_talkAndChain (exec_booth booth e)
  · exact exec_chain_of_timerOrRoute timerOrRoute e
  · exact exec_chain_of_port port e

end

/-- Settles O22: `exec_layout` and `exec_chain`. -/
theorem layoutAndChainAreKept : Obligations.LayoutAndChainAreKept :=
  ⟨fun _ _ _ => exec_layout, fun _ _ _ => exec_chain⟩

end Machine

end Sys2Proof

/-! PROOFS. The invariant of channels, outputs and floors as a statement about a board, loosened so that it holds within a
fold: a channel may still fit the state its owner had before (08 R143, R144, R152). What one write of a channel, an output, a
desk or a booth keeps of it. -/

namespace Sys2Proof

/-- A channel's hold fits a state of its owner (06 R101, R105). -/
def ChanUse.fits (u : ChanUse) (st : FloorState) : Prop :=
  match u.hold with
  | .owned => st = .live
  | .lent x => st = .folded x
  | .reserved => (∃ x, st = .folded x) ∧ u.origin ≠ .original

/-- The floor in whose map a channel in use stands (06 R103). -/
def ChanUse.map (u : ChanUse) : Option FloorId :=
  match u.hold with
  | .owned => some u.owner
  | .lent x => some x
  | .reserved => none

namespace Board

/-- A channel's origin names it back (06 R101, 07 R117), but for what RESERVED says of its output. -/
def Names (m : Board) (c : ChannelId) (u : ChanUse) : Prop :=
  match u.origin with
  | .original => m.original u.owner = some c ∧ u.lang = if u.hold = .owned then some 0 else none
  | .output b o => ∃ v, m.out b o = some v ∧ v.chan = c ∧ u.lang = some v.lang ∧ v.lang ≠ 0 ∧ m.home b = some u.owner

/-- No language stands twice among channels that are alike. -/
def Distinct (m : Board) (alike : ChanUse → ChanUse → Prop) : Prop :=
  ∀ l c d u v, m.use c = some u → m.use d = some v → alike u v → u.lang = some l → v.lang = some l → c = d

/-- Channels of one map (06 R106). -/
def SameMap (u v : ChanUse) : Prop := ∃ f, u.map = some f ∧ v.map = some f

/-- Channels of one owner. -/
def SameOwner (u v : ChanUse) : Prop := u.owner = v.owner

/-- How channels, outputs and floors name one another, when some channels may still fit the state their owner had before. -/
structure Woven (m : Board) (old : FloorId → FloorState) : Prop where
  silent : ∀ c, (m.chan c).content = .silence
  holds : ∀ c u, m.use c = some u → u.fits (old u.owner) ∨ u.fits (m.state u.owner)
  names : ∀ c u, m.use c = some u → m.Names c u
  closed : ∀ f, m.state f = .closed ↔ m.original f = none
  originals : ∀ f c, m.original f = some c → ∃ u, m.use c = some u ∧ u.owner = f ∧ u.origin = .original
  carriers : ∀ f x, m.state f = .folded x → m.state x = .live
  outs : ∀ b o v, m.out b o = some v → ∃ u, m.use v.chan = some u ∧ u.origin = .output b o
  spare : ∀ b, m.home b = none → ∀ o, m.out b o = none
  assigned : ∀ b f, m.home b = some f → m.state f ≠ .closed
  desks : ∀ n o, m.live n = some o → ∃ b v g, m.boothOf n = some b ∧ m.out b o = some v ∧ v.state = .live n g
  maps : m.Distinct SameMap
  owners : m.Distinct SameOwner

/-- A channel is RESERVED exactly while its output is HELD (06 R105). -/
def Matched (m : Board) : Prop :=
  ∀ b o v u, m.out b o = some v → m.use v.chan = some u → (u.hold = .reserved ↔ v.state = .held)

/-- The invariant of channels, outputs and floors, through the changes that a fold or a split makes of floors and channels. -/
structure Linked (m : Board) (old : FloorId → FloorState) : Prop where
  woven : m.Woven old
  matched : m.Matched

/-- The invariant between two commands. -/
def Inv (m : Board) : Prop := m.Linked m.state

namespace Woven

variable {m : Board} {old : FloorId → FloorState}

/-! ## What the invariant says of one channel -/

theorem output_of_use (i : m.Woven old) {c : ChannelId} {u : ChanUse} {b : BoothId} {o : Out} (use : m.use c = some u)
    (origin : u.origin = .output b o) : ∃ v, m.out b o = some v ∧ v.chan = c ∧ u.lang = some v.lang ∧ v.lang ≠ 0 ∧
      m.home b = some u.owner := by
  have k := i.names c u use
  rw [Names, origin] at k
  exact k

theorem original_of_use (i : m.Woven old) {c : ChannelId} {u : ChanUse} (use : m.use c = some u)
    (origin : u.origin = .original) :
    m.original u.owner = some c ∧ u.lang = if u.hold = .owned then some 0 else none := by
  have k := i.names c u use
  rw [Names, origin] at k
  exact k

/-- The channel of an output in use. -/
theorem use_of_output (i : m.Woven old) {b : BoothId} {o : Out} {v : OutUse} (used : m.out b o = some v) :
    ∃ u, m.use v.chan = some u ∧ u.origin = .output b o ∧ u.lang = some v.lang ∧ v.lang ≠ 0 ∧
      m.home b = some u.owner := by
  obtain ⟨u, use, origin⟩ := i.outs b o v used
  obtain ⟨w, out, -, fits⟩ := i.output_of_use use origin
  obtain rfl := Option.some.inj (out.symm.trans used)
  exact ⟨u, use, origin, fits⟩

/-- Language 0 is that of OWNED original channels. -/
theorem original_of_zero (i : m.Woven old) {c : ChannelId} {u : ChanUse} (use : m.use c = some u)
    (lang : u.lang = some 0) : u.origin = .original ∧ u.hold = .owned := by
  cases origin : u.origin with
  | original =>
    refine ⟨rfl, ?_⟩
    obtain ⟨-, e⟩ := i.original_of_use use origin
    by_contra ne
    rw [if_neg ne, lang] at e
    cases e
  | output b o =>
    obtain ⟨v, -, -, e, spoken, -⟩ := i.output_of_use use origin
    exact absurd (Option.some.inj (e.symm.trans lang)) spoken

/-- A floor has one original channel. -/
theorem original_unique (i : m.Woven old) {c d : ChannelId} {u v : ChanUse} (use : m.use c = some u)
    (used : m.use d = some v) (origin : u.origin = .original) (origin' : v.origin = .original)
    (owner : u.owner = v.owner) : c = d := by
  have at_c := (i.original_of_use use origin).1
  have at_d := (i.original_of_use used origin').1
  rw [owner, at_d] at at_c
  exact (Option.some.inj at_c).symm

/-- The desk LIVE on an output is the one the output names. -/
theorem live_named (i : m.Woven old) {b : BoothId} {o : Out} {v : OutUse} (used : m.out b o = some v) {k : SeatId}
    (booth : m.boothOf k = some b) (live : m.live k = some o) : ∃ g, v.state = .live k g := by
  obtain ⟨b', v', g, booth', used', state⟩ := i.desks k o live
  obtain rfl := Option.some.inj (booth.symm.trans booth')
  obtain rfl := Option.some.inj (used.symm.trans used')
  exact ⟨g, state⟩

/-! ## Desks -/

theorem setOff (i : m.Woven old) (n : SeatId) : (m.setLive n none).Woven old := by
  refine { i with desks := fun k o live => ?_ }
  rw [setLive_live] at live
  split at live
  · cases live
  · exact i.desks k o live

/-- A desk LIVE on an output that names it. -/
theorem setOn (i : m.Woven old) {b : BoothId} {o : Out} {v : OutUse} {n : SeatId} {g : Bool}
    (booth : m.boothOf n = some b) (used : m.out b o = some v) (state : v.state = .live n g) :
    (m.setLive n (some o)).Woven old := by
  refine { i with desks := fun k p live => ?_ }
  rw [setLive_live] at live
  split at live
  next e =>
    obtain rfl := Option.some.inj live
    rw [e]
    exact ⟨b, v, g, booth, used, state⟩
  · exact i.desks k p live

/-- Desk lists changed for desks that are OFF. -/
theorem setBoothOf (i : m.Woven old) {f : SeatId → Option BoothId}
    (same : ∀ n o, m.live n = some o → f n = m.boothOf n) : ({ m with boothOf := f } : Board).Woven old := by
  refine { i with desks := fun n o live => ?_ }
  obtain ⟨b, v, g, booth, used, state⟩ := i.desks n o live
  exact ⟨b, v, g, (same n o live).trans booth, used, state⟩

/-! ## States of outputs -/

/-- States of outputs rewritten, so that a desk LIVE on one keeps it. -/
theorem restate (i : m.Woven old) (k : BoothId → Out → OutState → OutState)
    (live : ∀ b o v n g, m.out b o = some v → v.state = .live n g → m.boothOf n = some b → m.live n = some o →
      ∃ g', k b o v.state = .live n g') :
    ({ m with out := fun b o => (m.out b o).map fun v => { v with state := k b o v.state } } : Board).Woven old := by
  refine { i with
    names := fun c u use => ?_
    outs := fun b o v used => ?_
    spare := fun b home o => ?_
    desks := fun n o at_ => ?_ }
  · have fits := i.names c u use
    unfold Names at fits ⊢
    split
    next e =>
      rw [e] at fits
      exact fits
    next b o e =>
      rw [e] at fits
      obtain ⟨v, used, rest⟩ := fits
      exact ⟨{ v with state := k b o v.state }, by simp only [used, Option.map_some], rest⟩
  · obtain ⟨w, before, rfl⟩ := Option.map_eq_some_iff.mp used
    exact i.outs b o w before
  · simp only [i.spare b home o, Option.map_none]
  · obtain ⟨b, v, g, booth, used, state⟩ := i.desks n o at_
    obtain ⟨g', still⟩ := live b o v n g used state booth at_
    exact ⟨b, { v with state := k b o v.state }, g', booth, by simp only [used, Option.map_some], still⟩

theorem setState_eq (b : BoothId) (o : Out) (st : OutState) : m.setState b o st =
    { m with out := fun c p => (m.out c p).map fun v => { v with state := if c = b ∧ p = o then st else v.state } } := by
  refine Board.ext rfl rfl (funext fun c => funext fun p => ?_) rfl rfl rfl
  rw [Board.setState, setOut_out]
  split
  next e => simp [e]
  next e => simp [e]

/-- The state of one output rewritten. -/
theorem setState (i : m.Woven old) {b : BoothId} {o : Out} {st : OutState}
    (desks : ∀ n, m.boothOf n = some b → m.live n = some o → ∃ g, st = .live n g) : (m.setState b o st).Woven old := by
  rw [setState_eq]
  refine i.restate (fun c p s => if c = b ∧ p = o then st else s) fun c p v n g _ state booth live => ?_
  split
  next e =>
    obtain ⟨rfl, rfl⟩ := e
    exact desks n booth live
  · exact ⟨g, state⟩

/-! ## Holds of channels -/

theorem distinct_setUse {alike : ChanUse → ChanUse → Prop} (before : m.Distinct alike) {c : ChannelId} {u : ChanUse}
    (symm : ∀ u v, alike u v → alike v u)
    (new : ∀ d v l, d ≠ c → m.use d = some v → alike u v → u.lang = some l → v.lang ≠ some l) :
    (m.setUse c u).Distinct alike := by
  intro l d e v w hd he k ld le
  rw [setUse_use] at hd he
  split at hd <;> split at he
  next ed ee => rw [ed, ee]
  next ed ee =>
    cases hd
    exact absurd le (new e w l ee he k ld)
  next ed ee =>
    cases he
    exact absurd ld (new d v l ed hd (symm _ _ k) le)
  next ed ee => exact before l d e v w hd he k ld le

/-- The hold of a channel rewritten, and its language as its origin says. -/
theorem setUse (i : m.Woven old) {c : ChannelId} {u u' : ChanUse} (use : m.use c = some u) (owner : u'.owner = u.owner)
    (origin : u'.origin = u.origin) (names : m.Names c u') (fits : u'.fits (m.state u.owner))
    (alone : ∀ d v l, d ≠ c → m.use d = some v → SameMap u' v → u'.lang = some l → v.lang ≠ some l) :
    (m.setUse c u').Woven old := by
  have uses := setUse_use m c
  refine { i with
    silent := fun d => ?_
    holds := fun d v used => ?_
    names := fun d v used => ?_
    originals := fun f d org => ?_
    outs := fun b o v out => ?_
    maps := ?_
    owners := ?_ }
  · show (Function.update m.chan c ⟨some u', .silence⟩ d).content = .silence
    by_cases e : d = c
    · rw [e, Function.update_self]
    · rw [Function.update_of_ne e]
      exact i.silent d
  · rw [uses] at used
    split at used
    · obtain rfl := Option.some.inj used
      exact .inr (owner ▸ fits)
    · exact i.holds d v used
  · rw [uses] at used
    split at used
    next e =>
      obtain rfl := Option.some.inj used
      exact e ▸ names
    · exact i.names d v used
  · obtain ⟨v, used, owner', origin'⟩ := i.originals f d org
    by_cases e : d = c
    · subst e
      obtain rfl := Option.some.inj (use.symm.trans used)
      exact ⟨u', by rw [uses, if_pos rfl], owner.trans owner', origin.trans origin'⟩
    · exact ⟨v, by rw [uses, if_neg e, used], owner', origin'⟩
  · obtain ⟨w, used, origin'⟩ := i.outs b o v out
    by_cases e : v.chan = c
    · obtain rfl := Option.some.inj (use.symm.trans (e ▸ used))
      exact ⟨u', by rw [uses, if_pos e], origin.trans origin'⟩
    · exact ⟨w, by rw [uses, if_neg e, used], origin'⟩
  · exact distinct_setUse i.maps (fun u v ⟨f, a, b⟩ => ⟨f, b, a⟩) alone
  · refine distinct_setUse i.owners (fun u v k => k.symm) fun d v l ne used same lang lang' => ?_
    have same : u.owner = v.owner := owner.symm.trans same
    cases org : u'.origin with
    | original =>
      rw [Names, org] at names
      have zero : l = 0 := by
        obtain ⟨-, e⟩ := names
        rw [lang] at e
        split at e <;> simp_all
      obtain ⟨origin', -⟩ := i.original_of_zero used (zero ▸ lang')
      exact ne (i.original_unique use used (origin.symm.trans org) origin' same).symm
    | output b o =>
      rw [Names, org] at names
      obtain ⟨w, out, at_, e, -⟩ := names
      obtain ⟨u₀, use₀, -, lang₀, -⟩ := i.use_of_output out
      rw [at_] at use₀
      obtain rfl := Option.some.inj (use.symm.trans use₀)
      exact ne (i.owners l d c v u used use same.symm lang' (lang₀.trans (e.symm.trans lang)))

/-- An original channel lent, re-lent or returned (06 R105). -/
theorem moveOriginal (i : m.Woven old) {c : ChannelId} {u : ChanUse} (use : m.use c = some u)
    (origin : u.origin = .original) (k : ChanHold)
    (fits : ({ u with hold := k } : ChanUse).fits (m.state u.owner)) :
    (m.setUse c { u with hold := k, lang := if k = .owned then some 0 else none }).Woven old := by
  refine i.setUse use rfl rfl ?_ fits fun d v l ne used ⟨f, same, same'⟩ lang lang' => ?_
  · rw [Names, origin]
    exact ⟨(i.original_of_use use origin).1, rfl⟩
  · have owned : k = .owned ∧ l = 0 := by
      simp only at lang
      split at lang <;> simp_all
    obtain ⟨rfl, rfl⟩ := owned
    obtain ⟨origin', hold⟩ := i.original_of_zero used lang'
    simp only [ChanUse.map, hold, Option.some.injEq] at same same'
    exact ne (i.original_unique used use origin' origin (same'.trans same.symm))

end Woven

namespace Linked

variable {m : Board} {old : FloorId → FloorState}

/-- The states of outputs rewritten: HELD stays HELD and nothing else becomes it, and a desk LIVE on one keeps it. -/
theorem restate (i : m.Linked old) (k : BoothId → Out → OutState → OutState)
    (held : ∀ b o v, m.out b o = some v → (k b o v.state = .held ↔ v.state = .held))
    (live : ∀ b o v n g, m.out b o = some v → v.state = .live n g → m.boothOf n = some b → m.live n = some o →
      ∃ g', k b o v.state = .live n g') :
    ({ m with out := fun b o => (m.out b o).map fun v => { v with state := k b o v.state } } : Board).Linked old := by
  refine ⟨i.woven.restate k live, fun b o v u used use => ?_⟩
  obtain ⟨w, at_, rfl⟩ := Option.map_eq_some_iff.mp used
  exact (i.matched b o w u at_ use).trans (held b o w at_).symm

/-- The state of one output rewritten, which is HELD neither before nor after. -/
theorem setState (i : m.Linked old) {b : BoothId} {o : Out} {st : OutState} (unheld : st ≠ .held)
    (before : ∀ v, m.out b o = some v → v.state ≠ .held)
    (desks : ∀ n, m.boothOf n = some b → m.live n = some o → ∃ g, st = .live n g) : (m.setState b o st).Linked old := by
  refine ⟨i.woven.setState desks, fun c p v u used use => ?_⟩
  rw [Board.setState, setOut_out] at used
  split at used
  · obtain ⟨w, at_, rfl⟩ := Option.map_eq_some_iff.mp used
    exact (i.matched b o w u at_ use).trans ⟨fun k => absurd k (before w at_), fun k => absurd k unheld⟩
  · exact i.matched c p v u used use

theorem setOff (i : m.Linked old) (n : SeatId) : (m.setLive n none).Linked old := ⟨i.woven.setOff n, i.matched⟩

theorem setOn (i : m.Linked old) {b : BoothId} {o : Out} {v : OutUse} {n : SeatId} {g : Bool}
    (booth : m.boothOf n = some b) (used : m.out b o = some v) (state : v.state = .live n g) :
    (m.setLive n (some o)).Linked old := ⟨i.woven.setOn booth used state, i.matched⟩

theorem setBoothOf (i : m.Linked old) {f : SeatId → Option BoothId}
    (same : ∀ n o, m.live n = some o → f n = m.boothOf n) : ({ m with boothOf := f } : Board).Linked old :=
  ⟨i.woven.setBoothOf same, i.matched⟩

/-- An original channel lent, re-lent or returned (06 R105). -/
theorem moveOriginal (i : m.Linked old) {c : ChannelId} {u : ChanUse} (use : m.use c = some u)
    (origin : u.origin = .original) (k : ChanHold)
    (fits : ({ u with hold := k } : ChanUse).fits (m.state u.owner)) :
    (m.setUse c { u with hold := k, lang := if k = .owned then some 0 else none }).Linked old := by
  refine ⟨i.woven.moveOriginal use origin k fits, fun b o v w used use' => ?_⟩
  rw [setUse_use] at use'
  split at use'
  next e =>
    obtain ⟨x, use₀, origin₀, -⟩ := i.woven.use_of_output used
    rw [e, use] at use₀
    cases use₀
    rw [origin] at origin₀
    cases origin₀
  · exact i.matched b o v w used use'

/-- The hold of an output's channel and the state of the output rewritten together (06 R105, 07 R136). -/
theorem moveOutput (i : m.Linked old) {b : BoothId} {o : Out} {v : OutUse} {u : ChanUse} (used : m.out b o = some v)
    (use : m.use v.chan = some u) (k : ChanHold) (st : OutState)
    (fits : ({ u with hold := k } : ChanUse).fits (m.state u.owner)) (held : k = .reserved ↔ st = .held)
    (alone : ∀ d w, d ≠ v.chan → m.use d = some w → SameMap { u with hold := k } w → w.lang ≠ some v.lang)
    (desks : ∀ n, m.boothOf n = some b → m.live n = some o → ∃ g, st = .live n g) :
    ((m.setState b o st).setUse v.chan { u with hold := k }).Linked old := by
  obtain ⟨u', use', origin, lang, spoken, home⟩ := i.woven.use_of_output used
  obtain rfl := Option.some.inj (use'.symm.trans use)
  have out : (m.setState b o st).out b o = some { v with state := st } := by
    rw [Board.setState, setOut_out, if_pos ⟨rfl, rfl⟩, used]
    rfl
  refine ⟨(i.woven.setState desks).setUse (u := u') use rfl rfl ?_ fits fun d w l ne used' same lang' => ?_,
    fun c p x w used' use' => ?_⟩
  · rw [Names, origin]
    exact ⟨_, out, rfl, lang, spoken, home⟩
  · obtain rfl := Option.some.inj (lang.symm.trans lang')
    exact alone d w ne used' same
  · have used' : (m.setState b o st).out c p = some x := used'
    rw [setUse_use] at use'
    by_cases e : c = b ∧ p = o
    · obtain ⟨rfl, rfl⟩ := e
      obtain rfl := Option.some.inj (out.symm.trans used')
      rw [if_pos rfl] at use'
      obtain rfl := Option.some.inj use'
      exact held
    · rw [Board.setState, setOut_out, if_neg e] at used'
      split at use'
      next same =>
        obtain ⟨y, use₀, origin₀, -⟩ := i.woven.use_of_output used'
        rw [same, use] at use₀
        obtain rfl := Option.some.inj use₀
        rw [origin] at origin₀
        injection origin₀ with e₁ e₂
        exact absurd ⟨e₁.symm, e₂.symm⟩ e
      · exact i.matched c p x w used' use'

end Linked

end Board

end Sys2Proof

/-! PROOFS. The invariant of channels is that of the board; and the operations of the Speech Arbiter, of banks and of the Seat
Table leave the board. -/

namespace Sys2Proof

open Machine

/-! ## The invariant read off the board -/

namespace Hall

variable {h : Hall}

theorem board_silent (c : ChannelId) : (h.board.chan c).content = .silence ↔
    ((h.channels.get c).use = none → (h.channels.get c).content = .silence) := by
  simp only [board, Channel.line]
  cases (h.channels.get c).use <;> simp

theorem board_live {n : SeatId} {o : Out} :
    h.board.live n = some o ↔ ∃ d, h.desk? n = some d ∧ d.live = true ∧ d.selected = o := by
  simp only [board, Option.bind_eq_some_iff, DeskFields.station, Option.ite_none_right_eq_some, Option.some.injEq]

theorem board_fits (c : ChannelId) (u : ChanUse) : (h.holdFits u ↔ u.fits (h.board.state u.owner)) ∧
    (h.originFits c u ↔ h.board.Names c u ∧
      ∀ b o v, u.origin = .output b o → h.board.out b o = some v → (u.hold = .reserved ↔ v.state = .held)) := by
  refine ⟨Iff.rfl, ?_⟩
  unfold Hall.originFits Board.Names
  cases u.origin with
  | original => exact ⟨fun k => ⟨k, fun _ _ _ e => by cases e⟩, fun k => k.1⟩
  | output b o =>
    constructor
    · rintro ⟨v, use, chan, lang, spoken, home, held⟩
      refine ⟨⟨v, use, chan, lang, spoken, home⟩, fun b' o' w e out => ?_⟩
      cases e
      obtain rfl := Option.some.inj (use.symm.trans out)
      exact held
    · rintro ⟨⟨v, use, chan, lang, spoken, home⟩, held⟩
      exact ⟨v, use, chan, lang, spoken, home, held b o v rfl use⟩

end Hall

/-- The invariant of channels is that of the board. -/
theorem channelInv_iff {h : Hall} : ChannelInv h ↔ h.board.Inv := by
  have state : ∀ f, h.board.state f = (h.floor f).state := fun f => rfl
  have original : ∀ f, h.board.original f = (h.floor f).original? := fun f => rfl
  have use : ∀ c, h.board.use c = (h.channels.get c).use := Hall.board_use h
  have sess : ∀ f, (h.floor f).sess = none ↔ (h.floor f).original? = none := fun f => by
    simp [Floor.original?]
  have map : ∀ {f c u}, (h.channels.get c).use = some u → h.inMap f (h.channels.get c) = true → u.map = some f := by
    intro f c u used k
    simp only [Hall.inMap, used, Bool.and_eq_true] at k
    unfold ChanUse.map
    cases hold : u.hold <;> simp_all
  constructor
  · rintro ⟨silent, uses, closed, originals, carriers, outs, spare, assigned, desks, maps, owners⟩
    have live : ∀ {f c u}, (h.channels.get c).use = some u → u.map = some f → h.inMap f (h.channels.get c) = true := by
      intro f c u used k
      have fits := (uses c u used).1
      unfold ChanUse.map at k
      unfold Hall.holdFits at fits
      cases hold : u.hold with
      | owned =>
        simp only [hold, Option.some.injEq] at k fits
        simp [Hall.inMap, used, hold, Floor.isLive, ← k, fits]
      | lent x =>
        simp only [hold, Option.some.injEq] at k fits
        simp [Hall.inMap, used, hold, ← k, Floor.isLive, carriers _ _ fits]
      | reserved => simp [hold] at k
    refine ⟨⟨fun c => (Hall.board_silent c).mpr (silent c), fun c u k => .inr ?_, fun c u k => ?_, fun f => ?_,
      fun f c k => ?_, carriers, fun b o v k => ?_, fun b k o => ?_, assigned, fun n o k => ?_, ?_, ?_⟩, ?_⟩
    · exact (uses c u (use c ▸ k)).1
    · exact ((Hall.board_fits c u).2.mp (uses c u (use c ▸ k)).2).1
    · exact (closed f).trans (sess f)
    · simpa only [use] using originals f c k
    · simpa only [use] using outs b o v k
    · cases o
      · exact (spare b k).1
      · exact (spare b k).2
    · obtain ⟨d, held, on, rfl⟩ := Hall.board_live.mp k
      exact desks n d held on
    · rintro l c d u v hc hd ⟨f, mc, md⟩ lc ld
      rw [use] at hc hd
      exact maps f l c d u v (live hc mc) (live hd md) hc hd lc ld
    · intro l c d u v hc hd same lc ld
      rw [use] at hc hd
      exact owners l c d u v hc hd same lc ld
    · intro b o v u out k
      obtain ⟨w, used, origin⟩ := outs b o v out
      rw [use, used] at k
      cases k
      exact ((Hall.board_fits _ u).2.mp (uses _ u used).2).2 b o v origin out
  · rintro ⟨i, matched⟩
    refine ⟨fun c => (Hall.board_silent c).mp (i.silent c), fun c u k => ?_, fun f => (i.closed f).trans (sess f).symm,
      fun f c k => ?_, i.carriers, fun b o v k => ?_, fun b k => ⟨i.spare b k .a, i.spare b k .b⟩, i.assigned,
      fun n d held on => ?_, ?_, ?_⟩
    · have k := (use c).trans k
      refine ⟨(i.holds c u k).elim id id, (Hall.board_fits c u).2.mpr ⟨i.names c u k, fun b o v origin out => ?_⟩⟩
      obtain ⟨w, used, at_, -⟩ := i.output_of_use k origin
      obtain rfl := Option.some.inj (used.symm.trans out)
      exact matched b o w u used (at_ ▸ k)
    · simpa only [use] using i.originals f c k
    · simpa only [use] using i.outs b o v k
    · exact i.desks n d.selected (Hall.board_live.mpr ⟨d, held, on, rfl⟩)
    · intro f l c d u v hc hd uc ud lc ld
      exact i.maps l c d u v ((use c).trans uc) ((use d).trans ud) ⟨f, map uc hc, map ud hd⟩ lc ld
    · intro l c d u v hc hd same lc ld
      exact i.owners l c d u v ((use c).trans hc) ((use d).trans hd) same lc ld

/-! ## Speech, banks and seats leave the board -/

theorem LocalTo.board {x : FloorId} {h g : Hall} (k : LocalTo x h g) : g.board = h.board :=
  Hall.board_of_parts k.sound k.desks fun f => ⟨k.state f, by rw [Floor.original?, Floor.original?, k.sess]⟩

theorem Relists.board {x : FloorId} {h g : Hall} (k : Relists x h g) : g.board = h.board :=
  Hall.board_of_parts k.sound k.desks fun f => ⟨(k.each f).state, (k.each f).original⟩

namespace Hall

variable (h : Hall)

/-- A floor record rewritten but for its state and its original channel. -/
theorem board_updFloor (x : FloorId) {k : Floor → Floor} (state : (k (h.floor x)).state = (h.floor x).state)
    (original : (k (h.floor x)).original? = (h.floor x).original?) : (h.updFloor x k).board = h.board := by
  refine Hall.board_of_parts rfl rfl fun f => ?_
  rw [Hall.floor_updFloor]
  split
  next e => exact e ▸ ⟨state, original⟩
  · exact ⟨rfl, rfl⟩

@[simp] theorem board_raiseIf (b : Bool) (i : AttnItem) : (h.raiseIf b i).board = h.board := by
  unfold Hall.raiseIf
  split <;> rfl

theorem board_grant (now : Clock) (f : FloorId) (n : SeatId) (k : SlotId) : (h.grant now f n k).board = h.board := by
  refine Hall.board_of_parts (Sound.grant now h f n k) (Desks.grant now h f n k) fun g => ?_
  rw [Hall.floor_of_upd (Hall.grant_floors now h f n k)]
  split
  next e => exact e ▸ ⟨rfl, rfl⟩
  · exact ⟨rfl, rfl⟩

theorem board_handOuts (now : Clock) : ∀ (k : Nat) (h : Hall), (h.handOuts now k).board = h.board
  | 0, _ => rfl
  | k + 1, h => by
    unfold Hall.handOuts
    split
    next g given =>
      refine (board_handOuts now k g).trans ?_
      unfold Hall.handOut at given
      split at given
      next slot f _ _ =>
        obtain ⟨e, -, rfl⟩ := Option.map_eq_some_iff.mp given
        exact board_grant h now f _ slot
      · cases given
    · rfl

@[simp] theorem board_arbitrate (now : Clock) : (h.arbitrate now).board = h.board := board_handOuts now 16 h

theorem board_flip (f : FloorId) : (h.updFloor f Floor.flip).board = h.board := by
  refine board_updFloor h f rfl ?_
  simp only [Floor.original?, Floor.flip, Option.map_map]
  rfl

@[simp] theorem board_completeSwap (now : Clock) (f : FloorId) : (h.completeSwap now f).board = h.board := by
  unfold Hall.completeSwap
  exact (Relists.swapListen _ f).board.trans ((LocalTo.remute _ f).board.trans ((LocalTo.trimQueue _ f _).board.trans
    ((LocalTo.requireBadges now _ f).board.trans ((LocalTo.closeExcess now _ f _).board.trans (board_flip h f)))))

theorem board_quiet (now : Clock) (f : FloorId) : (h.quiet now f).board = h.board := by
  unfold Hall.quiet
  split
  · exact (board_raise _ _).trans (board_completeSwap h now f)
  · rfl

theorem board_endTurn (now : Clock) (f : FloorId) (n : SeatId) (c : TurnCause) :
    (h.endTurn now f n c).board = h.board := by
  have closed := (LocalTo.closeTurn now h f n c false).board
  unfold Hall.endTurn
  simp only []
  split
  · exact (board_quiet _ now f).trans closed
  · exact closed

theorem board_passTurn (now : Clock) (f : FloorId) (n : SeatId) (c : TurnCause) :
    (h.passTurn now f n c).board = h.board := by
  unfold Hall.passTurn
  split
  next e _ => exact (board_grant _ now f n e.slot).trans (LocalTo.closeTurn now h f e.seat c true).board
  · rfl

theorem board_endOldest (now : Clock) (f : FloorId) (c : TurnCause) : (h.endOldest now f c).board = h.board := by
  unfold Hall.endOldest
  split
  · exact board_endTurn h now f _ c
  · rfl

theorem board_priorityAct (now : Clock) (f : FloorId) : (h.priorityAct now f).board = h.board := by
  have closed : (h.priorityClose now f).board = h.board :=
    foldl_keeps (part := Hall.board) (fun g n => board_endTurn g now f n _) _ h
  unfold Hall.priorityAct
  split
  · exact (LocalTo.remute h f).board
  · exact closed
  · exact (LocalTo.removeEntries _ f _ _).board.trans closed

theorem board_liftIfEmpty (f : FloorId) : (h.liftIfEmpty f).board = h.board := by
  unfold Hall.liftIfEmpty
  split
  · rfl
  · exact (LocalTo.remute h f).board

theorem board_priorityDown (now : Clock) (f : FloorId) (n : SeatId) : (h.priorityDown now f n).board = h.board :=
  (board_priorityAct _ now f).trans (board_updFloor h f rfl rfl)

theorem board_leaveHolder (n : SeatId) (f : FloorId) : (Hall.leaveHolder n h f).board = h.board := by
  unfold Hall.leaveHolder
  split
  · exact (board_liftIfEmpty _ f).trans (board_updFloor h f rfl rfl)
  · rfl

theorem board_leaveHolders (n : SeatId) : (h.leaveHolders n).board = h.board :=
  foldl_keeps (part := Hall.board) (fun g f => board_leaveHolder g n f) _ h

theorem board_withdraw {now : Clock} {n : SeatId} {g : Hall} (k : h.withdraw now n = some g) : g.board = h.board := by
  unfold Hall.withdraw at k
  split at k
  · obtain rfl := Option.some.inj k
    exact board_endTurn h now _ n _
  · obtain rfl := Option.some.inj k
    exact (LocalTo.removeEntry h _ n _).board
  · cases k

theorem board_pressQueue (now : Clock) (f : FloorId) (n : SeatId) : (h.pressQueue now f n).hall.board = h.board := by
  unfold Hall.pressQueue
  split
  · rfl
  · exact (LocalTo.joinQueue h f _ _).board

theorem board_mic (now : Clock) (f : FloorId) (n : SeatId) (role : Role) : (h.mic now f n role).hall.board = h.board := by
  unfold Hall.mic
  split
  next g withdrawn => exact board_withdraw h withdrawn
  · split
    · unfold Hall.micChair
      split
      · exact board_grant h now f n _
      · rfl
    · unfold Hall.micDelegate
      split
      · unfold Hall.micOpen
        have queue : (if (h.floor f).queue.length < (h.floor f).bank.cap then h.pressQueue now f n
            else turnedDown h .floorFull).hall.board = h.board := by
          split
          · exact board_pressQueue h now f n
          · rfl
        simp only []
        split
        · rfl
        · split
          · split
            · exact board_grant h now f n _
            · exact queue
          · exact queue
      · unfold Hall.micRequest
        split
        · exact board_pressQueue h now f n
        · rfl
      · unfold Hall.micOverride
        simp only []
        split
        · rfl
        · split
          · split
            · exact board_grant h now f n _
            · rfl
          · exact board_passTurn h now f n _
      · rfl

theorem board_cancel (now : Clock) (n : SeatId) : (h.cancel now n).hall.board = h.board := by
  unfold Hall.cancel
  cases k : h.withdraw now n with
  | none => rfl
  | some g => exact board_withdraw h k

theorem board_nextKey (now : Clock) (f : FloorId) : (h.nextKey now f).hall.board = h.board := by
  unfold Hall.nextKey
  simp only []
  split
  · exact board_passTurn h now f _ _
  · exact board_endOldest h now f _
  · split
    · exact board_grant h now f _ _
    · rfl
  · rfl

/-! ### Reports of the Seat Table -/

theorem board_setMutes (f : FloorId) (e : Speaker) (p l : Bool) : (h.setMutes f e p l).board = h.board :=
  (LocalTo.setMutes h f e p l).board

theorem board_speechLink (now : Clock) (n : SeatId) (lost : Bool) : (h.speechLink now n lost).board = h.board := by
  have muted : (h.setLinkMute n lost).board = h.board := by
    unfold Hall.setLinkMute
    split
    · exact board_setMutes h _ _ _ _
    · rfl
  have marked : ((h.setLinkMute n lost).setUnreachable n lost).board = (h.setLinkMute n lost).board := by
    unfold Hall.setUnreachable
    split
    · exact (board_recomposeAll _ _).trans ((board_raise _ _).trans (board_updFloor _ _ rfl rfl))
    · rfl
  unfold Hall.speechLink
  split
  · exact (board_arbitrate _ now).trans (marked.trans muted)
  · rfl

theorem board_endRoles (now : Clock) (n : SeatId) (t : TurnCause) (c : RemovalCause) :
    (h.endRoles now n t c).board = h.board := by
  unfold Hall.endRoles
  split
  · exact board_endTurn h now _ n t
  · exact (LocalTo.removeEntry h _ n c).board
  · rfl

theorem board_speechGone (now : Clock) (n : SeatId) (t : TurnCause) (c : RemovalCause) :
    (h.speechGone now n t c).board = h.board :=
  (board_arbitrate _ now).trans ((board_leaveHolders _ n).trans (board_endRoles h now n t c))

theorem board_badgeRemoved (now : Clock) (n : SeatId) : (h.badgeRemoved now n).board = h.board := by
  unfold Hall.badgeRemoved
  split
  · split
    · exact (board_arbitrate _ now).trans (board_endRoles h now n _ _)
    · rfl
  · rfl

theorem board_setReach (n : SeatId) (x : Reach) : (h.setReach n x).board = h.board := by
  unfold Hall.setReach
  split
  · split
    · rfl
    · exact (board_mark _ n).trans (board_updSeat h n fun _ => rfl)
  · rfl

theorem board_setLink (n : SeatId) (l : Link) : (h.setLink n l).board = h.board :=
  (board_mark _ n).trans (board_updSeat h n fun _ => rfl)

theorem board_takeSlot (n : SeatId) (k : ListenSlot) : (h.takeSlot n k).board = h.board := by
  unfold Hall.takeSlot
  split
  · split
    · rfl
    · exact (board_retune _ _).trans ((board_mark _ n).trans (board_updSeat h n fun _ => rfl))
  · rfl

theorem board_setBadge (n : SeatId) (b : Option Badge) : (h.setBadge n b).board = h.board :=
  (board_mark _ n).trans (board_updSeat h n fun _ => rfl)

theorem board_dropBadge (now : Clock) (n : SeatId) : (h.dropBadge now n).board = h.board := by
  unfold Hall.dropBadge
  simp only []
  split
  · rw [board_badgeRemoved, board_setBadge]
  · exact board_setBadge h n none

theorem board_takeBadge (now : Clock) (n : SeatId) (b : Option Badge) : (h.takeBadge now n b).board = h.board := by
  unfold Hall.takeBadge
  split
  · split
    · rfl
    · exact board_setBadge h n _
    · exact board_dropBadge h now n
    · split
      · rfl
      · rw [board_setBadge, board_dropBadge]
  · rfl

theorem board_timeUp (now : Clock) (n : SeatId) : (h.timeUp now n).board = h.board := by
  unfold Hall.timeUp
  split
  · rw [board_arbitrate, board_endTurn]
  · rfl

theorem board_warnZero (n : SeatId) : (h.warnZero n).board = h.board := by
  unfold Hall.warnZero
  split
  · rw [board_recompose, board_updFloor h _ rfl rfl]
  · rfl

theorem board_endFlash (n : SeatId) : (h.endFlash n).board = h.board := by
  unfold Hall.endFlash
  split
  · exact (board_recompose _ n).trans (board_updSeat h n fun _ => rfl)
  · rfl

theorem board_placeSeat (n : SeatId) (place : Option SectionId) : (h.placeSeat n place).board = h.board := by
  unfold Hall.placeSeat
  split
  · simp only []
    rw [Hall.retuneSeat, board_retune]
    split
    · rfl
    · exact (board_mark _ n).trans (board_updSeat h n fun _ => rfl)
  · rfl

theorem board_refreshSeats : h.refreshSeats.board = h.board := by
  unfold Hall.refreshSeats
  simp only []
  rw [board_recomposeAll, board_retune]

theorem board_waitsOnlyOn (f : FloorId) (n : SeatId) : (h.waitsOnlyOn f n).board = h.board := by
  refine Hall.board_of_parts rfl rfl fun g => ?_
  have floor : (h.waitsOnlyOn f n).floor g = if g = f then h.floor g
      else { h.floor g with queue := (h.floor g).queue.filter fun e => e.seat ≠ n } := by
    simp [Hall.waitsOnlyOn, Hall.floor]
  rw [floor]
  split <;> exact ⟨rfl, rfl⟩

theorem board_settleSwap (now : Clock) (y : FloorId) : (h.settleSwap now y).board = h.board := by
  unfold Hall.settleSwap
  split
  · exact (board_raise _ _).trans (board_completeSwap h now y)
  · rfl

end Hall

end Sys2Proof

/-! PROOFS. The invariant of the board where channels, outputs and floors come and go: outputs cleared and given, booths
assigned and released, floors opened and closed, and floors that change state while their channels follow. -/

namespace Sys2Proof

namespace Board

/-- No desk is LIVE on an output. -/
def Quiet (m : Board) (b : BoothId) (o : Out) : Prop :=
  ∀ n, m.boothOf n = some b → m.live n ≠ some o

/-- A channel in use fits the state of its owner. -/
def Settled (m : Board) (c : ChannelId) : Prop :=
  ∀ u, m.use c = some u → u.fits (m.state u.owner)

variable {m : Board} {old : FloorId → FloorState}

theorem Distinct.shrink {alike : ChanUse → ChanUse → Prop} {g : Board} (k : m.Distinct alike)
    (fewer : ∀ c u, g.use c = some u → m.use c = some u) : g.Distinct alike :=
  fun l c d u v hc hd same lc ld => k l c d u v (fewer c u hc) (fewer d v hd) same lc ld

/-! ## Floors that change state -/

/-- Floors that change state: each channel fits the state its owner had. -/
theorem Inv.refloor (i : m.Inv) {floor : FloorId → FloorState × Option ChannelId}
    (original : ∀ f, (floor f).2 = m.original f) (closed : ∀ f, (floor f).1 = .closed ↔ m.state f = .closed)
    (carriers : ∀ f x, (floor f).1 = .folded x → (floor x).1 = .live) :
    ({ m with floor := floor } : Board).Linked m.state := by
  have same : ({ m with floor := floor } : Board).original = m.original := funext original
  obtain ⟨w, matched⟩ := i
  refine ⟨{ w with
    holds := fun c u use => .inl ((w.holds c u use).elim id id)
    names := fun c u use => ?_
    closed := fun f => (closed f).trans ((w.closed f).trans (by rw [same]))
    originals := fun f c k => w.originals f c ((original f).symm.trans k)
    carriers := carriers
    assigned := fun b f home k => w.assigned b f home ((closed f).mp k) }, matched⟩
  have names := w.names c u use
  unfold Names at names ⊢
  rwa [same]

/-- Once every channel fits the state its owner has, the invariant between two commands holds. -/
theorem Linked.settle (i : m.Linked old) (all : ∀ c, m.Settled c) : m.Inv :=
  ⟨{ i.woven with holds := fun c u use => .inr (all c u use) }, i.matched⟩

/-- A channel whose owner kept its state is settled. -/
theorem Linked.settled_of_same (i : m.Linked old) {c : ChannelId}
    (same : ∀ u, m.use c = some u → old u.owner = m.state u.owner) : m.Settled c := fun u use =>
  (i.woven.holds c u use).elim (fun k => same u use ▸ k) id

/-! ## Outputs cleared and given -/

/-- An output becomes UNUSED and its channel FREE (07 R122). -/
theorem Linked.clear (i : m.Linked old) {b : BoothId} {o : Out} {v : OutUse} (used : m.out b o = some v)
    (quiet : m.Quiet b o) : ((m.setOut b o none).setFree v.chan).Linked old := by
  obtain ⟨w, matched⟩ := i
  obtain ⟨u₀, use₀, origin₀, -⟩ := w.use_of_output used
  have uses := setFree_use (m.setOut b o none) v.chan
  have fewer : ∀ c u, ((m.setOut b o none).setFree v.chan).use c = some u → c ≠ v.chan ∧ m.use c = some u := by
    intro c u k
    rw [uses] at k
    split at k
    · cases k
    next ne => exact ⟨ne, k⟩
  have outs : ∀ {c p x}, ((m.setOut b o none).setFree v.chan).out c p = some x → m.out c p = some x ∧ ¬ (c = b ∧ p = o) := by
    intro c p x k
    have k : (m.setOut b o none).out c p = some x := k
    rw [setOut_out] at k
    split at k
    · cases k
    next ne => exact ⟨k, ne⟩
  have kept : ∀ {c p x}, m.out c p = some x → x.chan ≠ v.chan →
      ((m.setOut b o none).setFree v.chan).out c p = some x := by
    intro c p x k ne
    show (m.setOut b o none).out c p = some x
    rw [setOut_out, if_neg ?_]
    · exact k
    · rintro ⟨rfl, rfl⟩
      obtain rfl := Option.some.inj (used.symm.trans k)
      exact ne rfl
  have apart : ∀ {c p x}, m.out c p = some x → ¬ (c = b ∧ p = o) → x.chan ≠ v.chan := by
    intro c p x k ne e
    obtain ⟨u, use, origin, -⟩ := w.use_of_output k
    rw [e, use₀] at use
    cases use
    rw [origin₀] at origin
    injection origin with e₁ e₂
    exact ne ⟨e₁.symm, e₂.symm⟩
  refine ⟨{ w with
    silent := fun c => ?_
    holds := fun c u use => w.holds c u (fewer c u use).2
    names := fun c u use => ?_
    originals := fun f c org => ?_
    outs := fun c p x out => ?_
    spare := fun c home p => ?_
    desks := fun n p live => ?_
    maps := w.maps.shrink fun c u k => (fewer c u k).2
    owners := w.owners.shrink fun c u k => (fewer c u k).2 }, fun c p x u out use => ?_⟩
  · show (Function.update m.chan v.chan Channel.reset c).content = .silence
    by_cases e : c = v.chan
    · rw [e, Function.update_self]
      rfl
    · rw [Function.update_of_ne e]
      exact w.silent c
  · obtain ⟨ne, use⟩ := fewer c u use
    have names := w.names c u use
    unfold Names at names ⊢
    split
    next e =>
      rw [e] at names
      exact names
    next b' o' e =>
      rw [e] at names
      obtain ⟨x, out, rfl, rest⟩ := names
      exact ⟨x, kept out ne, rfl, rest⟩
  · obtain ⟨u, use, owner, origin⟩ := w.originals f c org
    refine ⟨u, ?_, owner, origin⟩
    rw [uses, if_neg ?_]
    · exact use
    · rintro rfl
      rw [use₀] at use
      cases use
      rw [origin₀] at origin
      cases origin
  · obtain ⟨out, ne⟩ := outs out
    obtain ⟨u, use, origin⟩ := w.outs c p x out
    exact ⟨u, by rw [uses, if_neg (apart out ne)]; exact use, origin⟩
  · show (m.setOut b o none).out c p = none
    rw [setOut_out]
    split
    · rfl
    · exact w.spare c home p
  · obtain ⟨c, x, g, booth, out, state⟩ := w.desks n p live
    refine ⟨c, x, g, booth, ?_, state⟩
    show (m.setOut b o none).out c p = some x
    rw [setOut_out, if_neg ?_]
    · exact out
    · rintro ⟨rfl, rfl⟩
      exact quiet n booth live
  · exact matched c p x u (outs out).1 (fewer _ u use).2

/-- An UNUSED output of an assigned booth takes a FREE channel for a language that neither the map it enters nor its owner
has (06 R102, 07 R121). -/
theorem Linked.give (i : m.Linked old) {b : BoothId} {o : Out} {c : ChannelId} {f : FloorId} {l : Lang} {k : ChanHold}
    {st : OutState} (free : m.use c = none) (unused : m.out b o = none) (home : m.home b = some f) (spoken : l ≠ 0)
    (fits : (⟨k, f, some l, .output b o⟩ : ChanUse).fits (m.state f)) (given : k ≠ .reserved) (unheld : st ≠ .held)
    (alone : ∀ d v, m.use d = some v → SameMap ⟨k, f, some l, .output b o⟩ v → v.lang ≠ some l)
    (own : ∀ d v, m.use d = some v → v.owner = f → v.lang ≠ some l) :
    ((m.setUse c ⟨k, f, some l, .output b o⟩).setOut b o (some ⟨l, c, st⟩)).Linked old := by
  obtain ⟨w, matched⟩ := i
  have uses := fun d => setUse_use m c d ⟨k, f, some l, .output b o⟩
  have used : ∀ {d v}, m.use d = some v → d ≠ c := fun h e => by
    rw [e, free] at h
    cases h
  have still : ∀ {d v}, m.use d = some v → (m.setUse c ⟨k, f, some l, .output b o⟩).use d = some v := fun h => by
    rw [uses, if_neg (used h)]
    exact h
  have outs : ∀ d p, ((m.setUse c ⟨k, f, some l, .output b o⟩).setOut b o (some ⟨l, c, st⟩)).out d p =
      if d = b ∧ p = o then some ⟨l, c, st⟩ else m.out d p := fun d p => setOut_out _ _ _ _ _ _
  have kept : ∀ {d p x}, m.out d p = some x →
      ((m.setUse c ⟨k, f, some l, .output b o⟩).setOut b o (some ⟨l, c, st⟩)).out d p = some x := by
    intro d p x h
    rw [outs, if_neg ?_]
    · exact h
    · rintro ⟨rfl, rfl⟩
      rw [unused] at h
      cases h
  refine ⟨{ w with
    silent := fun d => ?_
    holds := fun d v use => ?_
    names := fun d v use => ?_
    originals := fun g d org => ?_
    outs := fun d p x out => ?_
    spare := fun d spare p => ?_
    desks := fun n p live => ?_
    maps := Woven.distinct_setUse w.maps (fun u v ⟨g, a, b⟩ => ⟨g, b, a⟩) fun d v l' _ use same e => ?_
    owners := Woven.distinct_setUse w.owners (fun u v k => k.symm) fun d v l' _ use same e => ?_ },
    fun d p x u out use => ?_⟩
  · show (Function.update m.chan c ⟨some ⟨k, f, some l, .output b o⟩, .silence⟩ d).content = .silence
    by_cases e : d = c
    · rw [e, Function.update_self]
    · rw [Function.update_of_ne e]
      exact w.silent d
  · have use : (m.setUse c ⟨k, f, some l, .output b o⟩).use d = some v := use
    rw [uses] at use
    split at use
    · obtain rfl := Option.some.inj use
      exact .inr fits
    · exact w.holds d v use
  · have use : (m.setUse c ⟨k, f, some l, .output b o⟩).use d = some v := use
    rw [uses] at use
    split at use
    next e =>
      obtain rfl := Option.some.inj use
      exact ⟨_, (outs b o).trans (if_pos ⟨rfl, rfl⟩), e.symm, rfl, spoken, home⟩
    · have names := w.names d v use
      unfold Names at names ⊢
      split
      next e =>
        rw [e] at names
        exact names
      next b' o' e =>
        rw [e] at names
        obtain ⟨x, out, rest⟩ := names
        exact ⟨x, kept out, rest⟩
  · obtain ⟨u, use, rest⟩ := w.originals g d org
    exact ⟨u, still use, rest⟩
  · rw [outs] at out
    split at out
    next e =>
      obtain ⟨rfl, rfl⟩ := e
      obtain rfl := Option.some.inj out
      exact ⟨_, (uses c).trans (if_pos rfl), rfl⟩
    · obtain ⟨u, use, origin⟩ := w.outs d p x out
      exact ⟨u, still use, origin⟩
  · rw [outs, if_neg ?_]
    · exact w.spare d spare p
    · rintro ⟨rfl, -⟩
      exact absurd (home.symm.trans spare) (Option.some_ne_none f)
  · obtain ⟨d, x, g, booth, out, state⟩ := w.desks n p live
    exact ⟨d, x, g, booth, kept out, state⟩
  · obtain rfl := Option.some.inj e
    exact alone d v use same
  · obtain rfl := Option.some.inj e
    exact own d v use same.symm
  · rw [outs] at out
    have use : (m.setUse c ⟨k, f, some l, .output b o⟩).use x.chan = some u := use
    split at out
    · obtain rfl := Option.some.inj out
      rw [uses, if_pos rfl] at use
      obtain rfl := Option.some.inj use
      exact ⟨fun h => absurd h given, fun h => absurd h unheld⟩
    · obtain ⟨y, use', -⟩ := w.use_of_output out
      rw [uses, if_neg (used use')] at use
      exact matched d p x u out use

/-- A booth without outputs in use changes its floor (07 R120, R126). -/
theorem Linked.setHome (i : m.Linked old) {b : BoothId} {f : Option FloorId} (unused : ∀ o, m.out b o = none)
    (opened : ∀ g, f = some g → m.state g ≠ .closed) :
    ({ m with home := Function.update m.home b f } : Board).Linked old := by
  obtain ⟨w, matched⟩ := i
  refine ⟨{ w with
    names := fun c u use => ?_
    spare := fun c home o => ?_
    assigned := fun c g home => ?_ }, matched⟩
  · have names := w.names c u use
    unfold Names at names ⊢
    split
    next e =>
      rw [e] at names
      exact names
    next c' o e =>
      rw [e] at names
      obtain ⟨v, out, chan, lang, spoken, home⟩ := names
      refine ⟨v, out, chan, lang, spoken, ?_⟩
      show Function.update m.home b f c' = _
      rw [Function.update_of_ne ?_]
      · exact home
      · rintro rfl
        rw [unused] at out
        cases out
  · change Function.update m.home b f c = none at home
    by_cases e : c = b
    · rw [e]
      exact unused o
    · exact w.spare c (by rwa [Function.update_of_ne e] at home) o
  · change Function.update m.home b f c = some g at home
    by_cases e : c = b
    · rw [e, Function.update_self] at home
      exact opened g home
    · exact w.assigned c g (by rwa [Function.update_of_ne e] at home)

/-! ## Floors opened and closed -/

/-- A CLOSED floor owns no channel. -/
theorem Inv.unowned (i : m.Inv) {f : FloorId} (closed : m.state f = .closed) {c : ChannelId} {u : ChanUse}
    (use : m.use c = some u) : u.owner ≠ f := by
  rintro rfl
  have fits : u.fits (m.state u.owner) := (i.woven.holds c u use).elim id id
  unfold ChanUse.fits at fits
  rw [closed] at fits
  cases hold : u.hold <;> simp [hold] at fits

/-- A floor opened with a FREE channel for its own (03 R43). -/
theorem Inv.openFloor (i : m.Inv) {f : FloorId} {c : ChannelId} (closed : m.state f = .closed) (free : m.use c = none) :
    ({ m.setUse c ⟨.owned, f, some 0, .original⟩ with
      floor := Function.update m.floor f (.live, some c) } : Board).Inv := by
  have unowned := fun {d v} (use : m.use d = some v) => Inv.unowned i closed use
  obtain ⟨w, matched⟩ := i
  have uses := fun d => setUse_use m c d ⟨.owned, f, some 0, .original⟩
  generalize hg : ({ m.setUse c ⟨.owned, f, some 0, .original⟩ with
      floor := Function.update m.floor f (.live, some c) } : Board) = g
  have guses : ∀ d, g.use d = if d = c then some ⟨.owned, f, some 0, .original⟩ else m.use d := fun d => hg ▸ uses d
  have used : ∀ {d v}, m.use d = some v → d ≠ c := fun h e => by
    rw [e, free] at h
    cases h
  have still : ∀ {d v}, m.use d = some v → g.use d = some v := fun h => by rw [guses, if_neg (used h), h]
  have state : ∀ x, g.state x = if x = f then .live else m.state x := fun x => by
    subst hg
    by_cases e : x = f
    · simp [Board.state, e]
    · simp [Board.state, e]
  have original : ∀ x, g.original x = if x = f then some c else m.original x := fun x => by
    subst hg
    by_cases e : x = f
    · simp [Board.original, e]
    · simp [Board.original, e]
  have outs : g.out = m.out := by subst hg; rfl
  have homes : g.home = m.home := by subst hg; rfl
  have uncarried : ∀ {x}, m.state x ≠ .folded f := fun {x} h => by
    rw [w.carriers x f h] at closed
    cases closed
  refine ⟨⟨fun d => ?_, fun d v use => .inr ?_, fun d v use => ?_, fun x => ?_, fun x d org => ?_, fun x y folded => ?_,
    fun b o v out => ?_, fun b home o => ?_, fun b x home => ?_, ?_, ?_, ?_⟩, fun b o v u out use => ?_⟩
  · subst hg
    show (Function.update m.chan c ⟨some ⟨.owned, f, some 0, .original⟩, .silence⟩ d).content = .silence
    by_cases e : d = c
    · rw [e, Function.update_self]
    · rw [Function.update_of_ne e]
      exact w.silent d
  · rw [guses] at use
    split at use
    · obtain rfl := Option.some.inj use
      rw [state, if_pos rfl]
      rfl
    · rw [state, if_neg (unowned use)]
      exact (w.holds d v use).elim id id
  · rw [guses] at use
    split at use
    next e =>
      obtain rfl := Option.some.inj use
      exact ⟨by rw [original, if_pos rfl, e], rfl⟩
    · have names := w.names d v use
      unfold Names at names ⊢
      rwa [outs, homes, original, if_neg (unowned use)]
  · rw [state, original]
    by_cases e : x = f
    · simp [e]
    · simpa [e] using w.closed x
  · rw [original] at org
    split at org
    next e =>
      obtain rfl := Option.some.inj org
      exact ⟨_, (guses c).trans (if_pos rfl), e.symm, rfl⟩
    · obtain ⟨u, use, rest⟩ := w.originals x d org
      exact ⟨u, still use, rest⟩
  · rw [state] at folded ⊢
    split at folded
    · cases folded
    · split
      · rfl
      · exact w.carriers x y folded
  · rw [outs] at out
    obtain ⟨u, use, origin⟩ := w.outs b o v out
    exact ⟨u, still use, origin⟩
  · rw [outs]
    exact w.spare b (homes ▸ home) o
  · rw [state]
    split
    · exact FloorState.noConfusion
    · exact w.assigned b x (homes ▸ home)
  · subst hg
    exact w.desks
  · subst hg
    refine Woven.distinct_setUse w.maps (fun u v ⟨g, a, b⟩ => ⟨g, b, a⟩) fun d v l _ use same lang lang' => ?_
    obtain rfl := Option.some.inj lang
    obtain ⟨x, e, e'⟩ := same
    obtain ⟨-, hold⟩ := w.original_of_zero use lang'
    simp only [ChanUse.map, hold, Option.some.injEq] at e e'
    exact unowned use (e'.trans e.symm)
  · subst hg
    exact Woven.distinct_setUse w.owners (fun u v k => k.symm) fun d v l _ use same _ _ => unowned use same.symm
  · rw [outs] at out
    obtain ⟨y, use', -⟩ := w.use_of_output out
    rw [guses, if_neg (used use')] at use
    exact matched b o v u out use

/-- A floor closed with every channel it owned, once no booth is assigned to it and no floor folded into it (03 R40, R45,
08 R155). -/
theorem Inv.closeFloor (i : m.Inv) {g : Board} {f : FloorId} (unassigned : ∀ b, m.home b ≠ some f)
    (uncarried : ∀ x, m.state x ≠ .folded f) (silent : ∀ c, (g.chan c).content = .silence)
    (uses : ∀ c, g.use c = (m.use c).filter fun u => u.owner ≠ f)
    (floor : g.floor = Function.update m.floor f (.closed, none))
    (rest : g.out = m.out ∧ g.home = m.home ∧ g.boothOf = m.boothOf ∧ g.live = m.live) : g.Inv := by
  obtain ⟨w, matched⟩ := i
  obtain ⟨outs, homes, booths, lives⟩ := rest
  have state : ∀ x, g.state x = if x = f then .closed else m.state x := fun x => by
    by_cases e : x = f <;> simp [Board.state, floor, e]
  have original : ∀ x, g.original x = if x = f then none else m.original x := fun x => by
    by_cases e : x = f <;> simp [Board.original, floor, e]
  have fewer : ∀ {c u}, g.use c = some u → m.use c = some u ∧ u.owner ≠ f := fun {c u} k => by
    rw [uses] at k
    simpa using Option.mem_filter_iff.mp (Option.mem_def.mpr k)
  have still : ∀ {c u}, m.use c = some u → u.owner ≠ f → g.use c = some u := fun {c u} k ne => by
    rw [uses, k]
    simp [Option.filter, ne]
  refine ⟨⟨silent, fun c u use => .inr ?_, fun c u use => ?_, fun x => ?_, fun x c org => ?_, fun x y folded => ?_,
    fun b o v out => ?_, fun b home o => ?_, fun b x home => ?_, fun n o live => ?_,
    w.maps.shrink fun c u k => (fewer k).1, w.owners.shrink fun c u k => (fewer k).1⟩, fun b o v u out use => ?_⟩
  · obtain ⟨use, ne⟩ := fewer use
    rw [state, if_neg ne]
    exact (w.holds c u use).elim id id
  · obtain ⟨use, ne⟩ := fewer use
    have names := w.names c u use
    unfold Names at names ⊢
    rwa [outs, homes, original, if_neg ne]
  · rw [state, original]
    by_cases e : x = f
    · simp [e]
    · simpa [e] using w.closed x
  · rw [original] at org
    split at org
    · cases org
    next ne =>
      obtain ⟨u, use, owner, origin⟩ := w.originals x c org
      exact ⟨u, still use (owner ▸ ne), owner, origin⟩
  · rw [state] at folded ⊢
    split at folded
    · cases folded
    · rw [if_neg ?_]
      · exact w.carriers x y folded
      · rintro rfl
        exact uncarried x folded
  · rw [outs] at out
    obtain ⟨u, use, origin, -, -, home⟩ := w.use_of_output out
    exact ⟨u, still use fun e => unassigned b (e ▸ home), origin⟩
  · rw [outs]
    exact w.spare b (homes ▸ home) o
  · rw [homes] at home
    rw [state, if_neg ?_]
    · exact w.assigned b x home
    · rintro rfl
      exact unassigned b home
  · rw [lives] at live
    rw [outs, booths]
    exact w.desks n o live
  · exact matched b o v u (outs ▸ out) (fewer use).1

end Board

end Sys2Proof

/-! PROOFS. The operations of the Interpretation Unit keep the invariant of the board (07 R117, R122, R126 to R136), whatever
states the floors had before. -/

namespace Sys2Proof

/-- An operation that leaves every floor's state and keeps the invariant of the board. -/
structure Links (h g : Hall) : Prop where
  floor : g.board.floor = h.board.floor
  linked : ∀ old, h.board.Linked old → g.board.Linked old

namespace Links

theorem refl (h : Hall) : Links h h := ⟨rfl, fun _ i => i⟩

theorem trans {a b c : Hall} (p : Links a b) (q : Links b c) : Links a c :=
  ⟨q.floor.trans p.floor, fun old i => q.linked old (p.linked old i)⟩

theorem same {h g : Hall} (k : g.board = h.board) : Links h g := by
  refine ⟨by rw [k], fun old i => ?_⟩
  rwa [k]

theorem foldl {β : Type} {f : Hall → β → Hall} (step : ∀ h b, Links h (f h b)) (l : List β) (h : Hall) :
    Links h (l.foldl f h) :=
  foldl_rel refl (fun _ _ _ => trans) step l h

theorem inv {h g : Hall} (k : Links h g) (i : h.board.Inv) : g.board.Inv := by
  have state : g.board.state = h.board.state := by unfold Board.state; rw [k.floor]
  have i := k.linked _ i
  rwa [← state] at i

end Links

namespace Hall

variable (h : Hall)

/-! ## Desks -/

theorem board_setDeskOff (n : SeatId) : (h.setDeskLive n false).board = h.board.setLive n none := by
  unfold Hall.setDeskLive
  split
  next d held =>
    rw [board_setDesk h held]
    rfl
  next none_ =>
    refine (Board.setLive_same _ ?_).symm
    simp [Hall.board, none_]

theorem board_setDeskOn {n : SeatId} {d : DeskFields} (held : h.desk? n = some d) :
    (h.setDeskLive n true).board = h.board.setLive n (some d.selected) := by
  rw [Hall.setDeskLive, held]
  exact board_setDesk h held _

/-- What takes a desk off an output writes of the board: desks go OFF. -/
theorem board_takeOff (b : BoothId) (o : Out) (c : ReleaseCause) : (h.takeOff b o c).board =
    match (h.output b o).liveDesk with
    | some n => h.board.setLive n none
    | none => h.board := by
  unfold Hall.takeOff
  cases (h.output b o).liveDesk with
  | some n => simp only [board_setLastRelease, board_setDeskOff]
  | none => rfl

theorem board_takeOff_live (b : BoothId) (o : Out) (c : ReleaseCause) :
    ∃ l, (h.takeOff b o c).board = { h.board with live := l } ∧ ∀ n p, l n = some p → h.board.live n = some p := by
  rw [board_takeOff]
  split
  next n _ =>
    refine ⟨_, rfl, fun k p live => ?_⟩
    change (h.board.setLive n none).live k = some p at live
    rw [Board.setLive_live] at live
    split at live
    · cases live
    · exact live
  · exact ⟨_, rfl, fun _ _ live => live⟩

/-- The station of a LIVE desk, as the board shows it. -/
theorem liveOutput_eq {n : SeatId} {b : BoothId} {o : Out} :
    h.liveOutput n = some (b, o) ↔ h.board.boothOf n = some b ∧ h.board.live n = some o := by
  rw [board_live]
  simp only [Hall.liveOutput, board]
  cases h.boothOf n <;> cases h.desk? n <;> simp [and_comm, and_assoc]

theorem liveOutput_none {n : SeatId} (k : h.liveOutput n = none) (booth : h.boothOf n ≠ none) :
    h.board.live n = none := by
  obtain ⟨b, at_⟩ := Option.ne_none_iff_exists'.mp booth
  by_contra on
  obtain ⟨o, on⟩ := Option.ne_none_iff_exists'.mp on
  rw [(liveOutput_eq h).mpr ⟨at_, on⟩] at k
  cases k

theorem silence_cases (b : BoothId) : h.silence b = .fallback ∨ ∃ k, h.silence b = .silent k := by
  unfold Hall.silence
  split
  · exact .inl rfl
  · exact .inr ⟨_, rfl⟩

theorem silence_ne_held (b : BoothId) : h.silence b ≠ .held := by
  obtain e | ⟨k, e⟩ := h.silence_cases b <;> simp [e]

/-- A booth assigned to a floor or to none. -/
theorem board_setHome (b : BoothId) (f : Option FloorId) :
    ({ h with booths := h.booths.upd b fun r => { r with floor := f } } : Hall).board =
      { h.board with home := Function.update h.board.home b f } := by
  have booth : ∀ c, (h.booths.upd b fun r => { r with floor := f }).get c =
      if b = c then { h.booths.get c with floor := f } else h.booths.get c := fun c => by
    by_cases e : b = c
    · subst e
      simp
    · simp [Tbl.upd, Tbl.get_set_ne _ _ e, e]
  refine Board.ext rfl rfl (funext fun c => funext fun p => ?_) (funext fun c => ?_)
    (funext fun n => boothOf_upd h b (k := fun r => { r with floor := f }) (fun _ => rfl) n) rfl
  · show (((h.booths.upd b fun r => { r with floor := f }).get c).output p).use = ((h.booths.get c).output p).use
    rw [booth]
    split
    · cases p <;> rfl
    · rfl
  · show ((h.booths.upd b fun r => { r with floor := f }).get c).floor = Function.update h.board.home b f c
    rw [booth]
    by_cases e : b = c
    · simp [e]
    · rw [if_neg e, Function.update_of_ne (Ne.symm e)]
      rfl

/-! ## Seats that outputs leave -/

theorem setContent_seats (c : ChannelId) (x : Content) : (h.setContent c x).seats = h.seats := by
  unfold Hall.setContent
  split <;> simp

theorem outContent_seats (b : BoothId) (o : Out) (x : Content) : (h.outContent b o x).seats = h.seats := by
  unfold Hall.outContent
  split
  · exact setContent_seats h _ x
  · rfl

theorem enterSilent_seats (b : BoothId) (o : Out) : (h.enterSilent b o).seats = h.seats := by
  have silent : ((h.setOutState b o (.silent ((h.booths.get b).delay * 10))).outContent b o .silence).seats = h.seats :=
    outContent_seats _ b o _
  unfold Hall.enterSilent
  simp only []
  generalize (h.setOutState b o (.silent ((h.booths.get b).delay * 10))).outContent b o .silence = g at silent ⊢
  split
  · refine Eq.trans ?_ silent
    show ((g.setOutState b o .fallback).mixContent b o).seats = g.seats
    unfold Hall.mixContent
    split
    · exact outContent_seats _ b o _
    · rfl
  · exact silent

end Hall

open Hall

/-- An output whose desk, if it is LIVE, has been taken off is quiet. -/
theorem Hall.takeOff_quiet {h : Hall} {old : FloorId → FloorState} (i : h.board.Linked old) (b : BoothId) (o : Out)
    (c : ReleaseCause) : (h.takeOff b o c).board.Quiet b o := by
  intro n booth live
  obtain ⟨l, e, only⟩ := h.board_takeOff_live b o c
  have live' : h.board.live n = some o := only n o (by rw [e] at live; exact live)
  have booth' : h.board.boothOf n = some b := by rw [e] at booth; exact booth
  obtain ⟨b', v, g, at_, used, state⟩ := i.woven.desks n o live'
  obtain rfl := Option.some.inj (booth'.symm.trans at_)
  have used : (h.output b o).use = some v := used
  rw [Hall.board_takeOff, Output.liveDesk, used] at live
  simp [state] at live

namespace Links

theorem takeOff (h : Hall) (b : BoothId) (o : Out) (c : ReleaseCause) : Links h (h.takeOff b o c) := by
  obtain ⟨l, e, only⟩ := h.board_takeOff_live b o c
  refine ⟨by rw [e], fun old i => ?_⟩
  rw [Hall.board_takeOff]
  split
  · exact i.setOff _
  · exact i

/-- A LIVE output falls SILENT as its desk goes OFF. -/
theorem silenced {m : Board} {old : FloorId → FloorState} (i : m.Linked old) {n : SeatId} {b : BoothId} {o : Out}
    (booth : m.boothOf n = some b) (live : m.live n = some o) {st : OutState} (unheld : st ≠ .held) :
    ((m.setLive n none).setState b o st).Linked old := by
  obtain ⟨b', v, g, at_, used, state⟩ := i.woven.desks n o live
  obtain rfl := Option.some.inj (booth.symm.trans at_)
  refine (i.setOff n).setState unheld (fun w out held => ?_) fun k booth' live' => ?_
  · have out : m.out b o = some w := out
    obtain rfl := Option.some.inj (used.symm.trans out)
    rw [state] at held
    cases held
  · rw [Board.setLive_live] at live'
    split at live'
    · cases live'
    next ne =>
      obtain ⟨g', state'⟩ := i.woven.live_named used booth' live'
      rw [state] at state'
      cases state'
      exact absurd rfl ne

theorem deskLeaves (h : Hall) (n : SeatId) (c : ReleaseCause) : Links h (h.deskLeaves n c) := by
  unfold Hall.deskLeaves
  split
  next b o at_ =>
    obtain ⟨booth, live⟩ := (Hall.liveOutput_eq h).mp at_
    have board : (((h.setDeskLive n false).setLastRelease b o n c).enterSilent b o).board =
        (h.board.setLive n none).setState b o (Hall.silence ((h.setDeskLive n false).setLastRelease b o n c) b) := by
      rw [board_enterSilent, board_setLastRelease, board_setDeskOff]
    refine ⟨by rw [board]; rfl, fun old i => ?_⟩
    rw [board]
    exact silenced i booth live (silence_ne_held _ b)
  · exact refl h

/-- Afterwards the desk is LIVE nowhere, if it stands in a booth's list. -/
theorem deskLeaves_off (h : Hall) (n : SeatId) (c : ReleaseCause) (listed : h.boothOf n ≠ none) :
    (h.deskLeaves n c).board.live n = none := by
  unfold Hall.deskLeaves
  split
  next b o _ =>
    rw [board_enterSilent, board_setLastRelease, board_setDeskOff]
    show (h.board.setLive n none).live n = none
    simp
  next none_ => exact Hall.liveOutput_none h none_ listed

/-! ## Outputs cleared and held -/

theorem clearOutput (h : Hall) (b : BoothId) (o : Out) (c : ReleaseCause) : Links h (h.clearOutput b o c) := by
  unfold Hall.clearOutput
  split
  next v used =>
    obtain ⟨l, e, -⟩ := h.board_takeOff_live b o c
    have cut := (takeOff h b o c).linked
    have quiet := fun old (i : h.board.Linked old) => Hall.takeOff_quiet i b o c
    simp only []
    rw [Hall.recomposeDesks]
    generalize h.takeOff b o c = g at e cut quiet ⊢
    have at_ : g.board.out b o = some v := by rw [e]; exact used
    have board : (((g.setOutput b o { g.output b o with use := none }).freeing v.chan).recomposeAll
        (((g.setOutput b o { g.output b o with use := none }).freeing v.chan).booths.get b).desks).board =
        if ((g.board.setOut b o none).use v.chan).isSome then (g.board.setOut b o none).setFree v.chan
        else g.board.setOut b o none := by
      rw [board_recomposeAll, board_freeing, board_setOutput]
    refine ⟨?_, fun old i => ?_⟩
    · rw [board]
      split
      · show g.board.floor = _
        rw [e]
      · show g.board.floor = _
        rw [e]
    · obtain ⟨u, use, -⟩ := (cut old i).woven.use_of_output at_
      have use : (g.board.setOut b o none).use v.chan = some u := use
      rw [board, use]
      exact (cut old i).clear at_ (quiet old i)
  · exact refl h

/-- A desk's relay rewritten. -/
theorem setRelay (h : Hall) {n : SeatId} {d : DeskFields} (held : h.desk? n = some d) (r : RelaySrc) :
    Links h (h.setDesk n { d with relay := r }) :=
  same (board_setDesk_same h held rfl)

theorem releaseBooth (h : Hall) (b : BoothId) : Links h (h.releaseBooth b) := by
  have cleared := (clearOutput h b .a .boothReleased).trans (clearOutput _ b .b .boothReleased)
  have unused : ∀ o, ((h.clearOutput b .a .boothReleased).clearOutput b .b .boothReleased).board.out b o = none := by
    intro o
    show (((h.clearOutput b .a .boothReleased).clearOutput b .b .boothReleased).output b o).use = none
    cases o <;> simp [clearOutput_output]
  unfold Hall.releaseBooth
  generalize (h.clearOutput b .a .boothReleased).clearOutput b .b .boothReleased = g at cleared unused ⊢
  simp only []
  refine cleared.trans (trans (b := { g with booths := g.booths.upd b fun r => { r with floor := none } }) ?_ ?_)
  · have board := board_setHome g b none
    refine ⟨by rw [board], fun old i => ?_⟩
    rw [board]
    exact i.setHome unused fun g k => by cases k
  · rw [Hall.retuneDesks]
    refine trans (foldl (fun k n => ?_) _ _) (same (board_retune _ _))
    split
    next d held => exact setRelay k held .floor
    · exact refl k

/-! ## Desk keys -/

/-- A desk goes LIVE on an output of its booth that no other desk holds. -/
theorem wentLive {m : Board} {old : FloorId → FloorState} (i : m.Linked old) {n : SeatId} {b : BoothId} {o : Out}
    {v : OutUse} (booth : m.boothOf n = some b) (used : m.out b o = some v) (unheld : v.state ≠ .held)
    (quiet : ∀ k, m.boothOf k = some b → m.live k = some o → k = n) :
    ((m.setLive n (some o)).setState b o (.live n true)).Linked old := by
  have off : ((m.setLive n none).setState b o (.live n true)).Linked old := by
    refine (i.setOff n).setState (fun e => by cases e) (fun w out => ?_) fun k booth' live => ?_
    · have out : m.out b o = some w := out
      obtain rfl := Option.some.inj (used.symm.trans out)
      exact unheld
    · rw [Board.setLive_live] at live
      split at live
      · cases live
      next ne => exact absurd (quiet k booth' live) ne
  have out : ((m.setLive n none).setState b o (.live n true)).out b o = some { v with state := .live n true } := by
    rw [Board.setState, Board.setOut_out, if_pos ⟨rfl, rfl⟩]
    show (m.out b o).map _ = _
    rw [used]
    rfl
  have on := off.setOn (n := n) booth out rfl
  have twice : ((m.setLive n none).setState b o (.live n true)).setLive n (some o) =
      (m.setLive n (some o)).setState b o (.live n true) := by
    refine Board.ext rfl rfl rfl rfl rfl (funext fun k => ?_)
    show Function.update (Function.update m.live n none) n (some o) k = Function.update m.live n (some o) k
    rw [Function.update_idem]
  rwa [twice] at on

theorem takeOff_desk? {h : Hall} {b : BoothId} {o : Out} {c : ReleaseCause} {n : SeatId} {d : DeskFields}
    (held : h.desk? n = some d) : ∃ e, (h.takeOff b o c).desk? n = some e ∧ e.selected = d.selected := by
  unfold Hall.takeOff
  split
  next k _ =>
    show ∃ e, (h.setDeskLive k false).desk? n = some e ∧ _
    unfold Hall.setDeskLive
    split
    next x held' =>
      by_cases e : n = k
      · subst e
        obtain rfl := Option.some.inj (held.symm.trans held')
        exact ⟨_, desk?_setDesk held _, rfl⟩
      · refine ⟨d, ?_, rfl⟩
        unfold Hall.setDesk
        rw [held']
        simp only []
        split
        · exact held
        · rw [Hall.desk?_of_desks (Desks.recompose _ _), Hall.retuneSeat, Hall.desk?_of_desks (Desks.retune _ _),
            Hall.desk?_of_desks (Desks.same (Hall.mark_seats _ _)), Hall.desk?_updSeat h held' (fun _ => rfl), if_neg e,
            held]
    · exact ⟨d, held, rfl⟩
  · exact ⟨d, held, rfl⟩

theorem board_goLiveOver {h : Hall} {b : BoothId} {n : SeatId} {d : DeskFields} (held : h.desk? n = some d) :
    (h.goLiveOver b d.selected n).board = ((h.takeOff b d.selected .takenOver).board.setLive n
      (some d.selected)).setState b d.selected (.live n true) := by
  obtain ⟨e, still, selected⟩ := takeOff_desk? (b := b) (o := d.selected) (c := .takenOver) held
  rw [Hall.goLiveOver, Hall.goLive, board_outContent, board_setOutState, board_setDeskOn _ still, selected]

theorem liveRefusal_admits {h : Hall} {b : BoothId} {o : Out} {n : SeatId} (k : h.liveRefusal b o n = none) :
    ∃ v, h.board.out b o = some v ∧ v.state ≠ .held := by
  unfold Hall.liveRefusal at k
  split at k
  · cases k
  next v used =>
    refine ⟨v, used, fun held => ?_⟩
    rw [held] at k
    cases k

theorem assignedBooth_booth {h : Hall} {b : BoothId} {n : SeatId} (k : h.assignedBooth n = some b) :
    h.board.boothOf n = some b := by
  unfold Hall.assignedBooth at k
  exact (Option.mem_filter_iff.mp (Option.mem_def.mpr k)).1

theorem deskOn (h : Hall) {n : SeatId} {d : DeskFields} (held : h.desk? n = some d) : Links h (h.deskOn n d).hall := by
  unfold Hall.deskOn
  split
  · exact refl h
  split
  · exact refl h
  next b booth =>
    split
    · exact refl h
    next admitted =>
      obtain ⟨v, used, unheld⟩ := liveRefusal_admits admitted
      obtain ⟨l, e, only⟩ := h.board_takeOff_live b d.selected .takenOver
      have off := takeOff h b d.selected .takenOver
      show Links h (h.goLiveOver b d.selected n)
      refine ⟨by rw [board_goLiveOver held, e]; rfl, fun old i => ?_⟩
      rw [board_goLiveOver held]
      refine wentLive (off.linked old i) (v := v) ?_ ?_ unheld fun k booth' live => ?_
      · rw [e]
        exact assignedBooth_booth booth
      · rw [e]
        exact used
      · exact absurd live (Hall.takeOff_quiet i b d.selected .takenOver k booth')

theorem selectOut (h : Hall) {n : SeatId} {d : DeskFields} (held : h.desk? n = some d) (o : Out) :
    Links h (h.selectOut n d o).hall := by
  unfold Hall.selectOut
  split
  · exact refl h
  next other =>
  split
  next on =>
    split
    · exact refl h
    next b booth =>
      split
      · exact refl h
      next admitted =>
        obtain ⟨v, used, unheld⟩ := liveRefusal_admits admitted
        have booth' := assignedBooth_booth booth
        have live : h.board.live n = some d.selected := board_live.mpr ⟨d, held, on, rfl⟩
        show Links h ((((h.setLastRelease b d.selected n .moved).enterSilent b d.selected).setDesk n
          { d with selected := o }).goLiveOver b o n)
        -- the hall once the desk has left its output, and once it has selected the other
        have left : ((h.setLastRelease b d.selected n .moved).enterSilent b d.selected).board =
            h.board.setState b d.selected (Hall.silence (h.setLastRelease b d.selected n .moved) b) := by
          rw [board_enterSilent, board_setLastRelease]
        have unheld' := silence_ne_held (h.setLastRelease b d.selected n .moved) b
        generalize Hall.silence (h.setLastRelease b d.selected n .moved) b = st at left unheld'
        have desk : ((h.setLastRelease b d.selected n .moved).enterSilent b d.selected).desk? n = some d := by
          rw [← held]
          exact Hall.desk?_of_desks (Desks.same (enterSilent_seats (h.setLastRelease b d.selected n .moved) b _)) n
        generalize (h.setLastRelease b d.selected n .moved).enterSilent b d.selected = g at left desk ⊢
        have chosen : (g.setDesk n { d with selected := o }).board =
            (h.board.setState b d.selected st).setLive n (some o) := by
          rw [board_setDesk g desk, left, DeskFields.station, if_pos on]
        have desk' := desk?_setDesk desk { d with selected := o }
        generalize g.setDesk n { d with selected := o } = k at chosen desk' ⊢
        obtain ⟨l, e, only⟩ := k.board_takeOff_live b o .takenOver
        have board := board_goLiveOver (b := b) desk'
        change (k.goLiveOver b o n).board = _ at board
        refine ⟨by rw [board, e, chosen]; rfl, fun old i => ?_⟩
        -- the desk OFF, its output SILENT
        have off := silenced i booth' live unheld'
        have same : ((k.takeOff b o .takenOver).board.setLive n (some o)).setState b o (.live n true) =
            ((({ (h.board.setLive n none).setState b d.selected st with
              live := fun m => if m = n then none else l m } : Board)).setLive n (some o)).setState b o (.live n true) := by
          rw [e, chosen]
          refine Board.ext rfl rfl rfl rfl rfl (funext fun m => ?_)
          show Function.update l n (some o) m = Function.update (fun m => if m = n then none else l m) n (some o) m
          by_cases em : m = n <;> simp [em]
        have fewer : ∀ m p, m ≠ n → l m = some p → h.board.live m = some p := fun m p ne live => by
          have := only m p live
          rw [chosen, Board.setLive_live, if_neg ne] at this
          exact this
        have dropped : (({ (h.board.setLive n none).setState b d.selected st with
            live := fun m => if m = n then none else l m } : Board)).Linked old := by
          obtain ⟨w, matched⟩ := off
          refine ⟨{ w with desks := fun m p live => ?_ }, matched⟩
          change (if m = n then none else l m) = some p at live
          split at live
          · cases live
          next ne =>
            refine w.desks m p ?_
            show (h.board.setLive n none).live m = some p
            rw [Board.setLive_live, if_neg ne]
            exact fewer m p ne live
        rw [board, same]
        refine wentLive dropped (v := v) booth' ?_ unheld fun m booth'' live' => ?_
        · show ((h.board.setLive n none).setState b d.selected st).out b o = some v
          rw [Board.setState, Board.setOut_out, if_neg fun e => other e.2.symm]
          exact used
        · by_contra ne
          change (if m = n then none else l m) = some o at live'
          rw [if_neg ne] at live'
          -- the output went to the desk it names, which has been taken off
          obtain ⟨gate, state⟩ := i.woven.live_named used booth'' (fewer m o ne live')
          have out : (k.output b o).use = some v := by
            show k.board.out b o = some v
            rw [chosen]
            show (h.board.setState b d.selected st).out b o = some v
            rw [Board.setState, Board.setOut_out, if_neg fun e => other e.2.symm]
            exact used
          have gone : (k.takeOff b o .takenOver).board.live m = none := by
            rw [Hall.board_takeOff, Output.liveDesk, out]
            simp [state]
          rw [e] at gone
          change l m = none at gone
          rw [live'] at gone
          cases gone
  next off =>
    refine same (board_setDesk_same h held ?_)
    simp only [Bool.not_eq_true] at off
    simp [DeskFields.station, off]

theorem relayKey (h : Hall) {n : SeatId} {d : DeskFields} (held : h.desk? n = some d) (src : Option RelaySrc) :
    Links h (h.relayKey n d src).hall := by
  unfold Hall.relayKey
  split
  · exact setRelay h held _
  · split
    · exact refl h
    · split
      · exact refl h
      · split
        · exact refl h
        · exact setRelay h held _
  · exact refl h

/-! ## Links and retirement of desks -/

/-- The gate of a LIVE desk opened or GATED. -/
theorem gated {m : Board} {old : FloorId → FloorState} (i : m.Linked old) {n : SeatId} {b : BoothId} {o : Out}
    (booth : m.boothOf n = some b) (live : m.live n = some o) (g : Bool) : (m.setState b o (.live n g)).Linked old := by
  obtain ⟨b', v, g', at_, used, state⟩ := i.woven.desks n o live
  obtain rfl := Option.some.inj (booth.symm.trans at_)
  refine i.setState (fun e => by cases e) (fun w out held => ?_) fun k booth' live' => ?_
  · obtain rfl := Option.some.inj (used.symm.trans out)
    rw [state] at held
    cases held
  · obtain ⟨g'', state'⟩ := i.woven.live_named used booth' live'
    rw [state] at state'
    cases state'
    exact ⟨g, rfl⟩

theorem deskLinkLost (h : Hall) (n : SeatId) : Links h (h.deskLinkLost n) := by
  unfold Hall.deskLinkLost
  split
  next b o at_ =>
    obtain ⟨booth, live⟩ := (Hall.liveOutput_eq h).mp at_
    have board : ((h.setOutState b o (.live n false)).outContent b o .silence).board =
        h.board.setState b o (.live n false) := by
      rw [board_outContent, board_setOutState]
    refine ⟨by rw [board]; rfl, fun old i => ?_⟩
    rw [board]
    exact gated i booth live false
  · exact refl h

theorem deskLinkRegained (h : Hall) (n : SeatId) : Links h (h.deskLinkRegained n) := by
  unfold Hall.deskLinkRegained
  split
  next b o at_ =>
    obtain ⟨booth, live⟩ := (Hall.liveOutput_eq h).mp at_
    split
    · split
      · have board : ((h.setOutState b o (.live n true)).outContent b o (.desk n)).board =
            h.board.setState b o (.live n true) := by
          rw [board_outContent, board_setOutState]
        refine ⟨by rw [board]; rfl, fun old i => ?_⟩
        rw [board]
        exact gated i booth live true
      · exact refl h
    · exact refl h
  · exact refl h

end Links

end Sys2Proof

/-! PROOFS. The invariant of channels through keys, seats, ticks, booths and outputs given. -/

namespace Sys2Proof

open Hall

/-- The hold of a channel allocated to a floor in a state (06 R102). -/
def ChanHold.of : FloorState → ChanHold
  | .folded x => .lent x
  | _ => .owned

namespace Hall

variable (h : Hall)

/-! ## Positions of the Seat Table and desk lists on the board -/

/-- A position rewritten without a LIVE desk. -/
theorem board_setPos (n : SeatId) {p : SeatPos} (off : p.deskFields.bind DeskFields.station = none) :
    (h.setPos n p).board = h.board.setLive n none := by
  refine Board.ext rfl rfl rfl rfl rfl (funext fun k => ?_)
  rw [Board.setLive_live]
  show ((h.setPos n p).desk? k).bind DeskFields.station = _
  rw [Hall.desk?_eq]
  have desks : (h.setPos n p).desks.get k = if n = k then p.deskFields else h.desks.get k := by
    simp only [Hall.desks, Hall.setPos, Tbl.get_imap, Tbl.get_set]
    split <;> rfl
  rw [desks]
  by_cases e : k = n
  · rw [if_pos e, if_pos e.symm, off]
  · rw [if_neg e, if_neg (Ne.symm e), ← Hall.desk?_eq]
    rfl

/-- Desk lists rewritten; only a seat that a list gains or loses may have another booth. -/
theorem board_setDesks (b : BoothId) (k : List SeatId → List SeatId) :
    ({ h with booths := h.booths.upd b fun r => { r with desks := k r.desks } } : Hall).board = { h.board with
      boothOf := ({ h with booths := h.booths.upd b fun r => { r with desks := k r.desks } } : Hall).boothOf } := by
  have booth : ∀ c, (h.booths.upd b fun r => { r with desks := k r.desks }).get c =
      if b = c then { h.booths.get c with desks := k (h.booths.get c).desks } else h.booths.get c := fun c => by
    by_cases e : b = c
    · subst e
      simp
    · simp [Tbl.upd, Tbl.get_set_ne _ _ e, e]
  refine Board.ext rfl rfl (funext fun c => funext fun p => ?_) (funext fun c => ?_) rfl rfl
  · show (((h.booths.upd b fun r => { r with desks := k r.desks }).get c).output p).use = ((h.booths.get c).output p).use
    rw [booth]
    split
    · cases p <;> rfl
    · rfl
  · show ((h.booths.upd b fun r => { r with desks := k r.desks }).get c).floor = (h.booths.get c).floor
    rw [booth]
    split <;> rfl

theorem boothOf_setDesks (b : BoothId) {k : List SeatId → List SeatId} {n : SeatId}
    (same : ∀ l, (k l).contains n = l.contains n) :
    ({ h with booths := h.booths.upd b fun r => { r with desks := k r.desks } } : Hall).boothOf n = h.boothOf n := by
  unfold Hall.boothOf
  rw [Tbl.lowest_eq_find, Tbl.lowest_eq_find]
  congr 1
  funext c
  by_cases e : b = c
  · subst e
    simp only [Tbl.get_upd_self, same]
  · simp [Tbl.upd, Tbl.get_set_ne _ _ e]

/-- A floor record rewritten: its state and its original channel are all the board shows of it. -/
theorem board_putFloor (x : FloorId) (k : Floor → Floor) : (h.updFloor x k).board = { h.board with
    floor := Function.update h.board.floor x ((k (h.floor x)).state, (k (h.floor x)).original?) } := by
  refine Board.ext rfl (funext fun f => ?_) rfl rfl rfl rfl
  show (((h.updFloor x k).floor f).state, ((h.updFloor x k).floor f).original?) = Function.update h.board.floor x _ f
  rw [Hall.floor_updFloor]
  by_cases e : x = f
  · subst e
    simp
  · rw [if_neg e, Function.update_of_ne (Ne.symm e)]
    rfl

/-! ## The tick -/

theorem board_count : h.count.board = { h.board with
    out := fun b o => (h.board.out b o).map fun v => { v with state := v.state.tick } } := by
  have seats : h.count.desks = h.desks := by
    refine Tbl.ext_get fun n => ?_
    simp only [Hall.desks, Hall.count, Tbl.get_imap]
    cases h.seats.get n <;> rfl
  have booth : ∀ b, h.count.booths.get b = (h.booths.get b).tick := fun b => by simp [Hall.count]
  refine Board.ext rfl (funext fun f => ?_) (funext fun b => funext fun o => ?_) (funext fun b => ?_)
    (funext fun n => ?_) (funext fun n => ?_)
  · show ((h.count.floor f).state, (h.count.floor f).original?) = _
    have floor : h.count.floor f = (h.floor f).tick := by simp [Hall.count, Hall.floor]
    rw [floor]
    rfl
  · show ((h.count.booths.get b).output o).use = _
    rw [booth]
    cases o <;> rfl
  · show (h.count.booths.get b).floor = _
    rw [booth]
    rfl
  · show h.count.boothOf n = h.boothOf n
    unfold Hall.boothOf
    rw [Tbl.lowest_eq_find, Tbl.lowest_eq_find]
    congr 1
    funext c
    rw [booth]
    rfl
  · show (h.count.desk? n).bind _ = (h.desk? n).bind _
    rw [Hall.desk?_of_desks seats]

/-! ## Maps -/

/-- A channel stands in a LIVE floor's map (06 R106). -/
theorem inMap_iff {f : FloorId} {c : ChannelId} : h.inMap f (h.channels.get c) = true ↔
    h.board.state f = .live ∧ ∃ u, h.board.use c = some u ∧ u.map = some f := by
  rw [board_use]
  show _ ↔ (h.floor f).state = .live ∧ _
  unfold Hall.inMap ChanUse.map
  cases (h.channels.get c).use with
  | none => simp
  | some u => cases hold : u.hold <;> simp [Floor.isLive, hold]

/-- A language is taken on a LIVE floor when a channel of its map has it (06 R106). -/
theorem languageTaken_iff {f : FloorId} {l : Lang} : h.languageTaken f l = true ↔
    h.board.state f = .live ∧ ∃ c u, h.board.use c = some u ∧ u.map = some f ∧ u.lang = some l := by
  have each : ∀ c, (h.inMap f (h.channels.get c) && ((h.channels.get c).use.elim false fun u => u.lang = some l)) = true ↔
      h.board.state f = .live ∧ ∃ u, h.board.use c = some u ∧ u.map = some f ∧ u.lang = some l := fun c => by
    rw [Bool.and_eq_true, inMap_iff, board_use]
    cases (h.channels.get c).use <;> simp [and_assoc]
  unfold Hall.languageTaken Hall.carrying
  rw [Option.isSome_iff_ne_none, Ne, Tbl.lowest_none]
  push Not
  simp only [ne_eq, Bool.not_eq_false, each]
  exact ⟨fun ⟨c, live, u, k⟩ => ⟨live, c, u, k⟩, fun ⟨live, c, u, k⟩ => ⟨c, live, u, k⟩⟩

theorem ownsLanguage_false {f : FloorId} {l : Lang} (k : h.ownsLanguage f l = false) {c : ChannelId} {u : ChanUse}
    (use : h.board.use c = some u) (owner : u.owner = f) : u.lang ≠ some l := by
  intro lang
  have owns : h.ownsLanguage f l = true := (Tbl.some?_iff _ _).mpr ⟨c, by rw [← board_use, use]; simp [owner, lang]⟩
  rw [owns] at k
  cases k

/-- What an allocation gives: a FREE channel filled (06 R102). -/
theorem board_allocate {h g : Hall} {want : Option ChannelId} {f : FloorId} {o : ChanOrigin} {l : Lang} {c : ChannelId}
    (given : h.allocate want f o l = some (g, c)) : h.board.use c = none ∧
      g.board = h.board.setUse c ⟨.of (h.floor f).state, f, some l, o⟩ := by
  unfold Hall.allocate at given
  obtain ⟨d, free, e⟩ := Option.map_eq_some_iff.mp given
  simp only [Prod.mk.injEq] at e
  obtain ⟨rfl, rfl⟩ := e
  refine ⟨?_, ?_⟩
  swap
  · rw [board_mapReportOf, board_fillChannel]
    cases (h.floor f).state <;> rfl
  rw [board_use]
  cases want with
  | none =>
    unfold Hall.freeChannel at free
    simpa using Tbl.lowest_some free
  | some w =>
    simp only [Hall.freeChannel, Option.ite_none_right_eq_some, Option.some.injEq] at free
    obtain ⟨none_, rfl⟩ := free
    simpa using none_

end Hall

namespace Links

/-! ## Keys and seats -/

theorem onFloor (h : Hall) (r : Seat) {k : FloorId → KeyTaken} (step : ∀ f, (k f).hall.board = h.board) :
    Links h (h.onFloor r k).hall := by
  unfold Hall.onFloor
  split
  · exact refl h
  · split
    · exact refl h
    next f _ => exact same (step f)

theorem onDesk (h : Hall) {n : SeatId} {r : Seat} (held : h.seat? n = some r) {k : DeskFields → KeyTaken}
    (step : ∀ d, h.desk? n = some d → Links h (k d).hall) : Links h (h.onDesk r k).hall := by
  unfold Hall.onDesk
  split
  next d desk => exact step d (by rw [Hall.desk?, held]; exact desk)
  · exact refl h

theorem handKey (h : Hall) (now : Clock) {n : SeatId} {r : Seat} (held : h.seat? n = some r) (k : KeyEvent) :
    Links h (h.handKey now n r k).hall := by
  unfold Hall.handKey
  split
  · exact refl h
  cases k with
  | mic =>
    show Links h (h.onFloor r (h.micKey now n r)).hall
    refine onFloor h r fun f => ?_
    unfold Hall.micKey
    split
    · rfl
    · exact board_mic h now f n _
  | cancel =>
    show Links h (h.cancel now n).hall
    exact same (board_cancel h now n)
  | next =>
    show Links h (h.onFloor r (h.nextKey now)).hall
    exact onFloor h r fun f => board_nextKey h now f
  | priorityDown =>
    show Links h (h.onFloor r fun f => taken (h.priorityDown now f n)).hall
    refine onFloor h r fun f => ?_
    rw [taken_hall]
    exact board_priorityDown h now f n
  | priorityUp =>
    show Links h (taken (h.leaveHolders n)).hall
    rw [taken_hall]
    exact same (board_leaveHolders h n)
  | deskOn =>
    show Links h (h.onDesk r (h.deskOn n)).hall
    exact onDesk h held fun d desk => deskOn h desk
  | deskOff =>
    show Links h (h.onDesk r fun _ => taken (h.deskLeaves n .deskOff)).hall
    refine onDesk h held fun _ _ => ?_
    rw [taken_hall]
    exact deskLeaves h n _
  | outA =>
    show Links h (h.onDesk r fun d => h.selectOut n d .a).hall
    exact onDesk h held fun d desk => selectOut h desk .a
  | outB =>
    show Links h (h.onDesk r fun d => h.selectOut n d .b).hall
    exact onDesk h held fun d desk => selectOut h desk .b
  | relay a =>
    show Links h (h.onDesk r fun d => h.relayKey n d (relayArgOf a)).hall
    exact onDesk h held fun d desk => relayKey h desk _

theorem takeKey (h : Hall) (now : Clock) (n : SeatId) (k : KeyEvent) : Links h (h.takeKey now n k) := by
  unfold Hall.takeKey
  split
  next r held =>
    have handed := handKey h now held k
    simp only []
    split
    · refine handed.trans (same ((board_arbitrate _ now).trans ((board_recompose _ n).trans ((board_mark _ n).trans ?_))))
      exact board_updSeat _ n fun _ => rfl
    · exact handed.trans (same (board_arbitrate _ now))
  · exact refl h

theorem seatAnswered (h : Hall) (now : Clock) (n : SeatId) (via : Reach) (slot : ListenSlot) (badge : Option Badge)
    (keys : List KeyEvent) : Links h (h.seatAnswered now n via slot badge keys) := by
  unfold Hall.seatAnswered
  split
  next r _ =>
    have linked : Links (h.setReach n via) ((h.setReach n via).restoreLink now n r) := by
      unfold Hall.restoreLink
      split
      · exact refl _
      · refine (same ?_ : Links _ (((h.setReach n via).setLink n .reachable).speechLink now n false)).trans
          ((deskLinkRegained _ n).trans (same (board_recompose _ n)))
        rw [board_speechLink, board_setLink]
      · exact same (board_setLink _ n _)
    refine ((same (board_setReach h n via)).trans (linked.trans ((same (board_takeSlot _ n slot)).trans
      (same (board_takeBadge _ now n badge))))).trans ?_
    exact foldl (fun g k => takeKey g now n k) keys _
  · exact refl h

theorem seatMissing (h : Hall) (now : Clock) (n : SeatId) : Links h (h.seatMissing now n) := by
  unfold Hall.seatMissing
  split
  · split
    · refine (same ?_ : Links h _).trans (deskLinkLost _ n)
      rw [board_speechLink, board_raise, board_setLink]
    · exact refl h
  · exact refl h

theorem graceExpires (h : Hall) (now : Clock) (n : SeatId) : Links h (h.graceExpires now n) := by
  unfold Hall.graceExpires
  split
  · split
    · have gone : ((h.updSeat n fun s => { s with link := .gone, badge := none }).mark n).board = h.board :=
        (board_mark _ n).trans (board_updSeat h n fun _ => rfl)
      generalize (h.updSeat n fun s => { s with link := .gone, badge := none }).mark n = g at gone ⊢
      simp only []
      split
      · exact (same ((board_speechGone g now n _ _).trans gone)).trans
          ((deskLeaves _ n _).trans (same (board_recompose _ n)))
      · exact (same gone).trans ((deskLeaves _ n _).trans (same (board_recompose _ n)))
    · exact refl h
  · exact refl h

/-- A position rewritten without a LIVE desk. -/
theorem setPos (h : Hall) (n : SeatId) {p : SeatPos} (off : p.deskFields.bind DeskFields.station = none) :
    Links h (h.setPos n p) := by
  refine ⟨by rw [board_setPos h n off]; rfl, fun old i => ?_⟩
  rw [board_setPos h n off]
  exact i.setOff n

theorem makeSeat (h : Hall) (n : SeatId) (p : PortId) (a : Nat) (k : UnitKind) : Links h (h.makeSeat n p a k) :=
  (setPos h n (by cases k <;> rfl)).trans (same (board_mark _ n))

/-- The desk lists of a booth rewritten for a desk that is OFF. -/
theorem setDesks (h : Hall) (b : BoothId) {k : List SeatId → List SeatId} {n : SeatId} (off : h.board.live n = none)
    (others : ∀ m, m ≠ n → ∀ l, (k l).contains m = l.contains m) :
    Links h { h with booths := h.booths.upd b fun r => { r with desks := k r.desks } } := by
  refine ⟨by rw [board_setDesks], fun old i => ?_⟩
  rw [board_setDesks]
  refine i.setBoothOf fun m o live => boothOf_setDesks h b (others m ?_)
  rintro rfl
  rw [off] at live
  cases live

theorem filter_others {n m : SeatId} (ne : m ≠ n) (l : List SeatId) :
    (l.filter fun k => k ≠ n).contains m = l.contains m := by
  rw [Bool.eq_iff_iff]
  simp [ne]

theorem deskRetired (h : Hall) (n : SeatId) (c : ReleaseCause) : Links h (h.deskRetired n c) := by
  unfold Hall.deskRetired
  split
  next b booth =>
    have off := deskLeaves_off h n c (by rw [booth]; exact Option.some_ne_none b)
    exact (deskLeaves h n c).trans (setDesks _ b off fun m ne l => filter_others ne l)
  · exact refl h

theorem retire (h : Hall) (now : Clock) (n : SeatId) (c : RetireCause) : Links h (h.retire now n c) :=
  (same (board_speechGone h now n _ _)).trans ((deskRetired _ n _).trans ((setPos _ n rfl).trans (same (board_mark _ n))))

theorem unreserve (h : Hall) (n : SeatId) : Links h (h.unreserve n) := by
  unfold Hall.unreserve
  split
  · exact setPos h n rfl
  · exact refl h

/-- A desk that is OFF leaves a booth's list. -/
theorem leaveList (h : Hall) (b : BoothId) {n : SeatId} (off : h.board.live n = none) :
    Links h (((Machine.updBooth h b fun x => { x with desks := x.desks.filter fun m => m ≠ n }).retuneSeat n).recompose
      n) := by
  refine (setDesks h b off fun m ne l => filter_others ne l).trans (same ?_)
  rw [board_recompose, Hall.retuneSeat, board_retune]
  rfl

theorem removeDesk (h : Hall) {b : BoothId} {n : SeatId} (listed : n ∈ (h.booths.get b).desks) :
    Links h (Machine.removeDesk h b n) := by
  have booth : h.boothOf n ≠ none := by
    intro none_
    have := Tbl.lowest_none.mp none_ b
    simp [listed] at this
  have off := deskLeaves_off h n .deskRemoved booth
  refine (deskLeaves h n .deskRemoved).trans ?_
  unfold Machine.removeDesk
  simp only []
  generalize h.deskLeaves n .deskRemoved = g at off ⊢
  split
  next d held =>
    have unlinked : (g.setDesk n { d with relay := .floor }).board = g.board := board_setDesk_same g held rfl
    exact (same unlinked).trans (leaveList _ b (by rw [unlinked]; exact off))
  · exact leaveList g b off

/-! ## Booths -/

theorem fallbackExpires (h : Hall) (b : BoothId) (o : Out) : Links h (Machine.fallbackExpires h b o) := by
  unfold Machine.fallbackExpires
  split
  next v used =>
    split
    next left state =>
      refine ⟨by rw [board_enterFallback]; rfl, fun old i => ?_⟩
      rw [board_enterFallback]
      refine i.setState (fun e => by cases e) (fun w out held => ?_) fun n booth live => ?_
      · obtain rfl := Option.some.inj (used.symm.trans out)
        rw [state] at held
        cases held
      · obtain ⟨g, state'⟩ := i.woven.live_named used booth live
        rw [state] at state'
        cases state'
    · exact refl h
  · exact refl h

theorem count (h : Hall) : Links h h.count := by
  refine ⟨by rw [board_count], fun old i => ?_⟩
  rw [board_count]
  refine i.restate (fun _ _ s => s.tick) (fun b o v _ => ?_) fun b o v n g _ state _ _ => ⟨g, by rw [state]; rfl⟩
  cases v.state <;> simp [OutState.tick]

theorem tick (h : Hall) (now : Clock) : Links h (h.tick now) := by
  unfold Hall.tick
  refine (count h).trans ((same ((board_recomposeAll _ _).trans (board_recomposeAll _ _))).trans
    (foldl (fun g n => ?_) _ _))
  unfold Hall.timeUpIfDue
  split
  · exact same (board_timeUp g now n)
  · exact refl g

/-- A booth's policy and delay are not on the board. -/
theorem setBooth (h : Hall) (b : BoothId) (p : BoothPolicy) (d : Nat) :
    Links h (Machine.updBooth h b fun r => { r with policy := p, delay := d }) := by
  refine same ?_
  have booth : ∀ c, (h.booths.upd b fun r => { r with policy := p, delay := d }).get c =
      if b = c then { h.booths.get c with policy := p, delay := d } else h.booths.get c := fun c => by
    by_cases e : b = c
    · subst e
      simp
    · simp [Tbl.upd, Tbl.get_set_ne _ _ e, e]
  refine Board.ext rfl rfl (funext fun c => funext fun o => ?_) (funext fun c => ?_)
    (funext fun n => boothOf_upd h b (k := fun r => { r with policy := p, delay := d }) (fun _ => rfl) n) rfl
  · show (((h.booths.upd b fun r => { r with policy := p, delay := d }).get c).output o).use =
      ((h.booths.get c).output o).use
    rw [booth]
    split
    · cases o <;> rfl
    · rfl
  · show ((h.booths.upd b fun r => { r with policy := p, delay := d }).get c).floor = (h.booths.get c).floor
    rw [booth]
    split <;> rfl

end Links

/-! ## Events that need the states of the floors -/

namespace Board.Inv

variable {h : Hall}

theorem assignBooth (i : h.board.Inv) {b : BoothId} {f : FloorId} (spare : (h.booths.get b).floor = none)
    (live : (h.floor f).state = .live) :
    ((Machine.updBooth h b fun r => { r with floor := some f }).retuneDesks b).board.Inv := by
  rw [Hall.retuneDesks, board_retune]
  show (({ h with booths := h.booths.upd b fun r => { r with floor := some f } } : Hall).board).Inv
  rw [board_setHome]
  refine i.setHome (i.woven.spare b spare) fun g e => ?_
  obtain rfl := Option.some.inj e
  show (h.floor f).state ≠ .closed
  rw [live]
  exact FloorState.noConfusion

theorem addDesk (i : h.board.Inv) (b : BoothId) {n : SeatId} (free : h.boothOf n = none) :
    (((Machine.updBooth h b fun x => { x with desks := x.desks ++ [n] }).retuneSeat n).recompose n).board.Inv := by
  have off : h.board.live n = none := by
    by_contra on
    obtain ⟨o, on⟩ := Option.ne_none_iff_exists'.mp on
    obtain ⟨b', -, -, booth, -⟩ := i.woven.desks n o on
    have booth : h.boothOf n = some b' := booth
    rw [free] at booth
    cases booth
  rw [board_recompose, Hall.retuneSeat, board_retune]
  refine (Links.setDesks h b (k := fun l => l ++ [n]) off fun m ne l => ?_).inv i
  rw [Bool.eq_iff_iff]
  simp [ne]

/-- The map a channel enters that is allocated to a floor which is not CLOSED (06 R102, 07 R116). -/
theorem addOutput (i : h.board.Inv) {b : BoothId} {o : Out} {l : Lang} {f : FloorId} {want : Option ChannelId} {g : Hall}
    {c : ChannelId} (home : (h.booths.get b).floor = some f) (unused : (h.output b o).use = none)
    (served : (h.serving b).elim false (fun x => h.languageTaken x l) = false) (own : h.ownsLanguage f l = false)
    (spoken : l ≠ 0) (given : h.allocate want f (.output b o) l = some (g, c)) :
    ((g.setOutput b o { g.output b o with use := some ⟨l, c, .silent 0⟩ }).enterSilent b o).board.Inv := by
  obtain ⟨free, filled⟩ := board_allocate given
  have opened : h.board.state f ≠ .closed := i.woven.assigned b f home
  have owned : ∀ d v, h.board.use d = some v → v.owner = f → v.lang ≠ some l := fun d v use => h.ownsLanguage_false own use
  rw [board_enterSilent, board_setOutput, filled]
  have unheld := silence_ne_held (g.setOutput b o { g.output b o with use := some ⟨l, c, .silent 0⟩ }) b
  generalize Hall.silence (g.setOutput b o { g.output b o with use := some ⟨l, c, .silent 0⟩ }) b = st at unheld ⊢
  -- the hold by the owner's state, and the map it enters
  obtain ⟨k, same, fits, unreserved, x, map, taken⟩ : ∃ k : ChanHold, ChanHold.of (h.floor f).state = k ∧ (⟨k, f, some l, .output b o⟩ : ChanUse).fits (h.board.state f) ∧ k ≠ .reserved ∧
      ∃ x, (⟨k, f, some l, .output b o⟩ : ChanUse).map = some x ∧ h.languageTaken x l = false := by
    cases state : (h.floor f).state with
    | closed => exact absurd state opened
    | live =>
      rw [Hall.serving, home] at served
      simp only [state] at served
      exact ⟨.owned, rfl, state, ChanHold.noConfusion, f, rfl, served⟩
    | folded x =>
      rw [Hall.serving, home] at served
      simp only [state] at served
      exact ⟨.lent x, rfl, state, ChanHold.noConfusion, x, rfl, served⟩
  rw [same]
  have enters : ((h.board.setUse c ⟨k, f, some l, .output b o⟩).setOut b o (some ⟨l, c, .silent 0⟩)).setState b o st =
      (h.board.setUse c ⟨k, f, some l, .output b o⟩).setOut b o (some ⟨l, c, st⟩) := by
    refine Board.ext rfl rfl (funext fun d => funext fun p => ?_) rfl rfl rfl
    simp only [Board.setState, Board.setOut_out, and_self, if_true, Option.map_some]
    split <;> rfl
  show ((((h.board.setUse c ⟨k, f, some l, .output b o⟩).setOut b o (some ⟨l, c, .silent 0⟩)).setState b o st)).Inv
  rw [enters]
  refine i.give free unused home spoken fits unreserved unheld (fun d v use shared lang => ?_) owned
  obtain ⟨y, map', map''⟩ := shared
  obtain rfl := Option.some.inj (map.symm.trans map')
  have live : h.board.state x = .live := by
    unfold ChanUse.fits at fits
    unfold ChanUse.map at map
    cases k with
    | owned =>
      obtain rfl := Option.some.inj map
      exact fits
    | lent y =>
      obtain rfl := Option.some.inj map
      exact i.woven.carriers f _ fits
    | reserved => exact absurd rfl unreserved
  rw [h.languageTaken_iff.mpr ⟨live, d, v, use, map'', lang⟩] at taken
  cases taken

theorem floorOpened (i : h.board.Inv) (walls : Tbl (Option Wall) 16) {f : FloorId} (a : SectionId) (p : Nat) {g : Hall}
    {c : ChannelId} (closed : (h.floor f).state = .closed) (given : h.allocate none f .original 0 = some (g, c)) :
    (g.openFloor walls f a p c).board.Inv := by
  obtain ⟨free, filled⟩ := board_allocate given
  rw [closed] at filled
  have opened := Board.Inv.openFloor i closed free
  have board : (g.openFloor walls f a p c).board = { h.board.setUse c ⟨.owned, f, some 0, .original⟩ with
      floor := Function.update h.board.floor f (.live, some c) } := by
    have floor : g.board.floor = h.board.floor := by rw [filled]; rfl
    rw [Hall.openFloor, Hall.membersReport, board_retune]
    rw [board_putFloor, floor, filled]
    rfl
  rw [board]
  exact opened

end Board.Inv

end Sys2Proof

/-! PROOFS. The invariant of channels through floors that close (03 R45, 08 R155). -/

namespace Sys2Proof

open Hall

theorem Hall.board_state (h : Hall) (f : FloorId) : h.board.state f = (h.floor f).state := rfl

/-! ## Booths released with their floor -/

theorem Hall.mem_boothsOf {h : Hall} {fs : List FloorId} {b : BoothId} :
    b ∈ h.boothsOf fs ↔ ∃ f ∈ fs, h.board.home b = some f := by
  unfold Hall.boothsOf
  rw [Tbl.mem_positions]
  show _ ↔ ∃ f ∈ fs, (h.booths.get b).floor = some f
  cases (h.booths.get b).floor <;> simp

namespace Hall

theorem releaseBooth_home (h : Hall) (b : BoothId) :
    (h.releaseBooth b).board.home = Function.update h.board.home b none := by
  have kept : ∀ c, (((h.clearOutput b .a .boothReleased).clearOutput b .b .boothReleased).booths.get c).floor =
      (h.booths.get c).floor := fun c =>
    congrArg Prod.fst (setup_of_setups ((setups_clearOutput _ b .b _).trans (setups_clearOutput h b .a _)) c)
  funext c
  show ((h.releaseBooth b).booths.get c).floor = _
  rw [releaseBooth_booths]
  by_cases e : b = c
  · subst e
    simp
  · rw [Function.update_of_ne (Ne.symm e), Tbl.upd, Tbl.get_set_ne _ _ e, kept]
    rfl

theorem releases_home (bs : List BoothId) (h : Hall) (c : BoothId) :
    (bs.foldl Hall.releaseBooth h).board.home c = if c ∈ bs then none else h.board.home c := by
  induction bs generalizing h with
  | nil => rfl
  | cons b bs ih =>
    rw [List.foldl_cons, ih, releaseBooth_home]
    by_cases e : c = b
    · subst e
      simp
    · simp [e]

/-- No booth is assigned to a floor whose booths have been released, and none to another floor than before. -/
theorem releaseBooths_home (h : Hall) (f : FloorId) (b : BoothId) :
    (h.releaseBooths f).board.home b = if h.board.home b = some f then none else h.board.home b := by
  rw [Hall.releaseBooths, releases_home]
  simp only [mem_boothsOf, List.mem_singleton, exists_eq_left]

/-! ## Channels freed -/

theorem freeing_rest (h : Hall) (c : ChannelId) : ∃ k, (h.freeing c).board = { h.board with chan := k } ∧
    ((∀ d, (h.board.chan d).content = .silence) → ∀ d, (k d).content = .silence) := by
  rw [board_freeing]
  split
  · refine ⟨_, rfl, fun silent d => ?_⟩
    by_cases e : d = c
    · rw [e, Function.update_self]
      rfl
    · rw [Function.update_of_ne e]
      exact silent d
  · exact ⟨_, rfl, id⟩

theorem freeings_rest (cs : List ChannelId) (h : Hall) : ∃ k, (cs.foldl Hall.freeing h).board = { h.board with chan := k } ∧
    ((∀ d, (h.board.chan d).content = .silence) → ∀ d, (k d).content = .silence) := by
  induction cs generalizing h with
  | nil => exact ⟨_, rfl, id⟩
  | cons c cs ih =>
    obtain ⟨k, e, silent⟩ := freeing_rest h c
    obtain ⟨l, e', silent'⟩ := ih (h.freeing c)
    refine ⟨l, by rw [List.foldl_cons, e', e], fun s => silent' fun d => ?_⟩
    rw [e]
    exact silent s d

end Hall

namespace Board.Inv

/-- The channels a floor owns once no booth is assigned to it: its original channel. -/
theorem owned_original {m : Board} (i : m.Inv) {f : FloorId} (unassigned : ∀ b, m.home b ≠ some f) {c : ChannelId}
    {u : ChanUse} (use : m.use c = some u) (owner : u.owner = f) : m.original f = some c := by
  cases origin : u.origin with
  | original => exact owner ▸ (i.woven.original_of_use use origin).1
  | output b o =>
    obtain ⟨v, -, -, -, -, home⟩ := i.woven.output_of_use use origin
    exact absurd (owner ▸ home) (unassigned b)

/-- A floor's record closed after every channel it owned has been freed. -/
theorem closeRecord {h : Hall} (i : h.board.Inv) {f : FloorId} (unassigned : ∀ b, h.board.home b ≠ some f)
    (uncarried : ∀ x, h.board.state x ≠ .folded f) {cs : List ChannelId}
    (uses : ∀ c, (cs.foldl Hall.freeing h).board.use c = (h.board.use c).filter fun u => u.owner ≠ f) :
    ((cs.foldl Hall.freeing h).closeRecord f).board.Inv := by
  obtain ⟨k, e, silent⟩ := freeings_rest cs h
  have board : ((cs.foldl Hall.freeing h).closeRecord f).board = { (cs.foldl Hall.freeing h).board with
      floor := Function.update (cs.foldl Hall.freeing h).board.floor f (.closed, none) } := board_putFloor _ f _
  rw [board]
  refine i.closeFloor unassigned uncarried ?_ uses ?_ ?_
  · rw [e]
    exact silent i.woven.silent
  · rw [e]
  · rw [e]
    exact ⟨rfl, rfl, rfl, rfl⟩

theorem freeOriginal_use {h : Hall} (i : h.board.Inv) {f : FloorId} (unassigned : ∀ b, h.board.home b ≠ some f) :
    ∃ cs : List ChannelId, h.freeOriginal f = cs.foldl Hall.freeing h ∧
      ∀ c, (cs.foldl Hall.freeing h).board.use c = (h.board.use c).filter fun u => u.owner ≠ f := by
  have owned : ∀ c, (h.board.use c).filter (fun u => u.owner ≠ f) =
      if h.board.original f = some c then none else h.board.use c := by
    intro c
    cases use : h.board.use c with
    | none => simp
    | some u =>
      by_cases owner : u.owner = f
      · simp [owned_original i unassigned use owner, Option.filter, owner]
      · rw [if_neg ?_]
        · simp [Option.filter, owner]
        · intro org
          obtain ⟨v, use', owner', -⟩ := i.woven.originals f c org
          rw [use] at use'
          cases use'
          exact owner owner'
  cases org : (h.floor f).original? with
  | none =>
    refine ⟨[], by simp only [Hall.freeOriginal, org, List.foldl_nil], fun c => ?_⟩
    have none_ : h.board.original f = none := org
    rw [owned, none_, if_neg (by simp)]
    rfl
  | some d =>
    refine ⟨[d], by simp only [Hall.freeOriginal, org, List.foldl_cons, List.foldl_nil], fun c => ?_⟩
    have original : h.board.original f = some d := org
    rw [Hall.freeings_use, owned, original]
    simp [eq_comm]

variable {h : Hall}

theorem closeWithCarrier (i : h.board.Inv) {y : FloorId} (carried : h.board.state y ≠ .live) :
    (h.closeWithCarrier y).board.Inv := by
  have released : Links h (h.releaseBooths y) := Links.foldl Links.releaseBooth _ h
  have unassigned : ∀ b, (h.releaseBooths y).board.home b ≠ some y := fun b => by
    rw [releaseBooths_home]
    split <;> simp_all
  have i' := released.inv i
  obtain ⟨cs, e, uses⟩ := i'.freeOriginal_use unassigned
  unfold Hall.closeWithCarrier
  rw [e]
  refine i'.closeRecord unassigned (fun x folded => carried ?_) uses
  have live := i'.woven.carriers x y folded
  unfold Board.state at live ⊢
  rwa [released.floor] at live

theorem closeCarried (ys : List FloorId) {h : Hall} (i : h.board.Inv) (carried : ∀ y ∈ ys, h.board.state y ≠ .live) :
    (ys.foldl Hall.closeWithCarrier h).board.Inv := by
  induction ys generalizing h with
  | nil => exact i
  | cons y ys ih =>
    refine ih (i.closeWithCarrier (carried y List.mem_cons_self)) fun z m => ?_
    show ((h.closeWithCarrier y).floor z).state ≠ .live
    rw [Hall.closeWithCarrier_floor]
    split
    · exact FloorState.noConfusion
    · exact carried z (List.mem_cons_of_mem y m)

end Board.Inv

theorem Hall.closeWithCarrier_home {h : Hall} {y f : FloorId} {b : BoothId}
    (k : (h.closeWithCarrier y).board.home b = some f) : h.board.home b = some f := by
  have freed : ((h.releaseBooths y).freeOriginal y).board.home = (h.releaseBooths y).board.home := by
    unfold Hall.freeOriginal
    split
    next c _ =>
      obtain ⟨k, e, -⟩ := freeing_rest (h.releaseBooths y) c
      rw [e]
    · rfl
  have home : (h.closeWithCarrier y).board.home b = (h.releaseBooths y).board.home b := by
    rw [← freed]
    exact congrFun (congrArg Board.home (board_putFloor _ y _)) b
  rw [home, releaseBooths_home] at k
  split at k
  · cases k
  · exact k

theorem Hall.closeCarried_home (ys : List FloorId) {h : Hall} {f : FloorId} {b : BoothId}
    (k : (ys.foldl Hall.closeWithCarrier h).board.home b = some f) : h.board.home b = some f := by
  induction ys generalizing h with
  | nil => exact k
  | cons y ys ih => exact Hall.closeWithCarrier_home (ih k)

namespace Board.Inv

variable {h : Hall}

theorem closeFolded (i : h.board.Inv) {y x : FloorId} (folded : (h.floor y).state = .folded x) :
    (h.closeFolded y x).board.Inv := by
  have released : Links h (h.releaseBooths y) := Links.foldl Links.releaseBooth _ h
  have unassigned : ∀ b, (h.releaseBooths y).board.home b ≠ some y := fun b => by
    rw [releaseBooths_home]
    split <;> simp_all
  have i' := released.inv i
  obtain ⟨cs, e, uses⟩ := i'.freeOriginal_use unassigned
  have closed := i'.closeRecord unassigned (fun z folded' => ?_) uses
  swap
  · have live := i'.woven.carriers z y folded'
    unfold Board.state at live
    rw [released.floor] at live
    have live : (h.floor y).state = .live := live
    rw [folded] at live
    cases live
  rw [Hall.closeFolded_eq, board_raise]
  -- the listen table of the carrier is not on the board
  have board : (h.foldedCleared y x).board = ((h.releaseBooths y).freeOriginal y).board := by
    unfold Hall.foldedCleared
    simp only []
    split
    · exact (Relists.endAdopted _ x).board.trans (Relists.removeAdopted _ x _).board
    · exact (Relists.adoptionPassOver _ x _).board.trans (Relists.removeAdopted _ x _).board
  have same : ((h.foldedCleared y x).closeRecord y).board =
      (((h.releaseBooths y).freeOriginal y).closeRecord y).board := by
    rw [Hall.closeRecord, Hall.closeRecord, board_putFloor, board_putFloor, board]
  rw [same, e]
  exact closed

theorem closeLive (i : h.board.Inv) (now : Clock) (f : FloorId) :
    (h.closeLive now f).board.Inv := by
  -- the speaking ended
  have spoken : (((h.updFloor f fun x => { x with swapPending := false }).closeSpeech now f).arbitrate now).board =
      h.board := by
    rw [board_arbitrate]
    refine Eq.trans ?_ (board_updFloor h f (k := fun x => { x with swapPending := false }) rfl rfl)
    generalize h.updFloor f (fun x => { x with swapPending := false }) = g
    unfold Hall.closeSpeech
    simp only []
    rw [board_recomposeAll, board_raiseIf]
    exact (board_updFloor _ f rfl rfl).trans (LocalTo.closeTurns now g f _ _).board
  have released : Links h (h.silenced now f) :=
    (Links.same spoken).trans (Links.foldl Links.releaseBooth _ _)
  have unassigned : ∀ b, (h.silenced now f).board.home b ≠ some f := fun b => by
    rw [Hall.silenced, releaseBooths_home]
    split <;> simp_all
  have i' := released.inv i
  -- the carried floors closed
  have carried := closeCarried ((h.silenced now f).foldedInto f) i' fun y m => by
    show ((h.silenced now f).floor y).state ≠ .live
    rw [Hall.mem_foldedInto.mp m]
    exact FloorState.noConfusion
  have alone : ∀ z, (((h.silenced now f).foldedInto f).foldl Hall.closeWithCarrier (h.silenced now f)).board.state z ≠
      .folded f := fun z folded => by
    rw [board_state, Hall.closeCarried_floor] at folded
    split at folded
    · cases folded
    next out => exact out (Hall.mem_foldedInto.mpr folded)
  have unassigned' : ∀ b, (((h.silenced now f).foldedInto f).foldl Hall.closeWithCarrier
      (h.silenced now f)).board.home b ≠ some f := fun b k => unassigned b (Hall.closeCarried_home _ k)
  rw [Hall.closeLive_eq, Hall.emptied]
  generalize ((h.silenced now f).foldedInto f).foldl Hall.closeWithCarrier (h.silenced now f) = g at carried alone unassigned' ⊢
  have closed : ((g.freeOwned f).closeRecord f).board.Inv :=
    carried.closeRecord unassigned' alone fun c => Hall.freeOwned_use g f c
  generalize g.freeOwned f = e at closed ⊢
  have same : (((e.updFloor f fun x => { x with members := 0#12 }).membersReport (e.floor f).members).closeRecord
      f).board = (e.closeRecord f).board := by
    rw [Hall.closeRecord, Hall.closeRecord, board_putFloor, board_putFloor, Hall.membersReport, board_retune,
      board_updFloor e f rfl rfl]
  rw [same]
  exact closed

theorem floorClosed (i : h.board.Inv) (now : Clock) (f : FloorId) : (h.closeFloor now f).board.Inv := by
  unfold Hall.closeFloor
  split
  · exact i.closeLive now f
  next x folded => exact i.closeFolded folded
  · exact i

end Board.Inv

end Sys2Proof

/-! PROOFS. Channels that follow their floors (08 R143, R144, R152): each original channel and each output of the floors that
change state is taken to the map it belongs to, one after another, and the invariant of the board holds in between. -/

namespace Sys2Proof

open Hall

/-- What the moves of channels keep: floors, the booths' floors, the outputs' channels, and every channel that is settled. -/
structure Carried (old : FloorId → FloorState) (h g : Hall) : Prop where
  floor : g.board.floor = h.board.floor
  home : g.board.home = h.board.home
  chans : ∀ b o, (g.board.out b o).map OutUse.chan = (h.board.out b o).map OutUse.chan
  settled : ∀ c, h.board.Settled c → g.board.Settled c
  linked : g.board.Linked old

/-- The channel of an output, if it is in use, is settled. -/
def Hall.Placed (p : BoothId × Out) (h : Hall) : Prop :=
  ∀ v, h.board.out p.1 p.2 = some v → h.board.Settled v.chan

/-- The original channel of a floor, if it has one, is settled. -/
def Hall.Mixed (z : FloorId) (h : Hall) : Prop :=
  ∀ c, h.board.original z = some c → h.board.Settled c

/-- No channel is LENT to a floor. -/
def Hall.Unlent (r : FloorId) (h : Hall) : Prop :=
  ∀ c u, h.board.use c = some u → u.hold ≠ .lent r

/-- A silent channel given the use it has. -/
theorem Board.setUse_same (m : Board) {c : ChannelId} {u : ChanUse} (use : m.use c = some u)
    (silent : (m.chan c).content = .silence) : m.setUse c u = m := by
  refine Board.ext (funext fun d => ?_) rfl rfl rfl rfl rfl
  show Function.update m.chan c ⟨some u, .silence⟩ d = m.chan d
  by_cases e : d = c
  · rw [e, Function.update_self, ← silent, ← use]
    rfl
  · rw [Function.update_of_ne e]

namespace Carried

variable {old : FloorId → FloorState} {h g k : Hall}

theorem refl (i : h.board.Linked old) : Carried old h h := ⟨rfl, rfl, fun _ _ => rfl, fun _ s => s, i⟩

theorem trans (p : Carried old h g) (q : Carried old g k) : Carried old h k :=
  ⟨q.floor.trans p.floor, q.home.trans p.home, fun b o => (q.chans b o).trans (p.chans b o),
    fun c s => q.settled c (p.settled c s), q.linked⟩

theorem same (i : h.board.Linked old) (e : g.board = h.board) : Carried old h g :=
  ⟨by rw [e], by rw [e], fun _ _ => by rw [e], fun _ s => by rwa [e], by rwa [e]⟩

theorem state (q : Carried old h g) : g.board.state = h.board.state := by
  unfold Board.state
  rw [q.floor]

theorem original (q : Carried old h g) : g.board.original = h.board.original := by
  unfold Board.original
  rw [q.floor]

theorem placed (q : Carried old h g) {p : BoothId × Out} (done : h.Placed p) : g.Placed p := by
  intro v used
  have same := q.chans p.1 p.2
  rw [used] at same
  obtain ⟨w, used', chan⟩ := Option.map_eq_some_iff.mp same.symm
  rw [← chan]
  exact q.settled _ (done w used')

theorem mixed (q : Carried old h g) {z : FloorId} (done : h.Mixed z) : g.Mixed z := fun c org =>
  q.settled c (done c (by rwa [q.original] at org))

/-- Moves one after another, each of which finishes its own item; P is what each needs besides. -/
theorem each {β : Type} {f : Hall → β → Hall} {D : β → Hall → Prop} {P : Hall → Prop}
    (keep : ∀ b g k, Carried old g k → D b g → D b k) (l : List β) (i : h.board.Linked old) (p : P h)
    (step : ∀ g b, b ∈ l → Carried old h g → P g → Carried old g (f g b) ∧ D b (f g b) ∧ P (f g b)) :
    Carried old h (l.foldl f h) ∧ (∀ b ∈ l, D b (l.foldl f h)) ∧ P (l.foldl f h) := by
  induction l generalizing h with
  | nil => exact ⟨refl i, fun _ m => by simp at m, p⟩
  | cons b l ih =>
    obtain ⟨first, done, p'⟩ := step h b List.mem_cons_self (refl i) p
    obtain ⟨rest, all, p''⟩ := ih first.linked p' fun g c m q pg =>
      step g c (List.mem_cons_of_mem b m) (first.trans q) pg
    refine ⟨first.trans rest, fun c m => ?_, p''⟩
    obtain rfl | m := List.mem_cons.mp m
    · exact keep c _ _ rest done
    · exact all c m

/-- Once every original channel and output of the floors that changed state is settled, so is every channel. -/
theorem finish (i : h.board.Linked old) {moved : FloorId → Prop}
    (still : ∀ f, ¬ moved f → old f = h.board.state f) (mixed : ∀ z, moved z → h.Mixed z)
    (placed : ∀ z, moved z → ∀ b o, h.board.home b = some z → h.Placed (b, o)) : h.board.Inv := by
  refine i.settle fun c u use => ?_
  by_cases m : moved u.owner
  · cases origin : u.origin with
    | original => exact mixed u.owner m c (i.woven.original_of_use use origin).1 u use
    | output b o =>
      obtain ⟨v, used, rfl, -, -, home⟩ := i.woven.output_of_use use origin
      exact placed u.owner m b o home v used u use
  · exact i.settled_of_same (fun v use' => by
      obtain rfl := Option.some.inj (use.symm.trans use')
      exact still _ m) u use

/-! ## One channel moved -/

/-- An original channel given the hold that fits its owner's state. -/
theorem moveOriginal (i : h.board.Linked old) {c : ChannelId} {u : ChanUse} (use : h.board.use c = some u)
    (origin : u.origin = .original) {k : ChanHold} (fits : ({ u with hold := k } : ChanUse).fits (h.board.state u.owner))
    (board : g.board = h.board.setUse c { u with hold := k, lang := if k = .owned then some 0 else none }) :
    Carried old h g ∧ g.board.Settled c := by
  have uses : ∀ d, g.board.use d =
      if d = c then some { u with hold := k, lang := if k = .owned then some 0 else none } else h.board.use d :=
    fun d => by rw [board, Board.setUse_use]
  have floor : g.board.floor = h.board.floor := by rw [board]; rfl
  have state : g.board.state = h.board.state := by unfold Board.state; rw [floor]
  have done : g.board.Settled c := fun v use' => by
    rw [uses, if_pos rfl] at use'
    obtain rfl := Option.some.inj use'
    rw [state]
    exact fits
  refine ⟨⟨floor, by rw [board]; rfl, fun b o => by rw [board]; rfl, fun d s => ?_, ?_⟩, done⟩
  · by_cases e : d = c
    · exact e ▸ done
    · intro v use'
      rw [uses, if_neg e] at use'
      rw [state]
      exact s v use'
  · rw [board]
    exact i.moveOriginal use origin k fits

/-- The channel of an output given the hold that fits its owner's state, with the output's state. -/
theorem moveOutput (i : h.board.Linked old) {b : BoothId} {o : Out} {v : OutUse} {u : ChanUse}
    (used : h.board.out b o = some v) (use : h.board.use v.chan = some u) {k : ChanHold} {st : OutState}
    (fits : ({ u with hold := k } : ChanUse).fits (h.board.state u.owner)) (held : k = .reserved ↔ st = .held)
    (alone : ∀ d w, d ≠ v.chan → h.board.use d = some w → Board.SameMap { u with hold := k } w → w.lang ≠ some v.lang)
    (desks : ∀ n, h.board.boothOf n = some b → h.board.live n = some o → ∃ g, st = .live n g)
    (board : g.board = (h.board.setState b o st).setUse v.chan { u with hold := k }) :
    Carried old h g ∧ g.Placed (b, o) := by
  have uses : ∀ d, g.board.use d = if d = v.chan then some { u with hold := k } else h.board.use d := fun d => by
    rw [board, Board.setUse_use]
    rfl
  have outs : ∀ c p, g.board.out c p = if c = b ∧ p = o then some { v with state := st } else h.board.out c p :=
    fun c p => by
      rw [board]
      show (h.board.setState b o st).out c p = _
      rw [Board.setState, Board.setOut_out, used]
      rfl
  have floor : g.board.floor = h.board.floor := by rw [board]; rfl
  have state : g.board.state = h.board.state := by unfold Board.state; rw [floor]
  have done : g.board.Settled v.chan := fun w use' => by
    rw [uses, if_pos rfl] at use'
    obtain rfl := Option.some.inj use'
    rw [state]
    exact fits
  refine ⟨⟨floor, by rw [board]; rfl, fun c p => ?_, fun d s => ?_, ?_⟩, fun w used' => ?_⟩
  · rw [outs]
    split
    next e => rw [e.1, e.2, used]; rfl
    · rfl
  · by_cases e : d = v.chan
    · exact e ▸ done
    · intro w use'
      rw [uses, if_neg e] at use'
      rw [state]
      exact s w use'
  · rw [board]
    exact i.moveOutput used use k st fits held alone desks
  · rw [outs, if_pos ⟨rfl, rfl⟩] at used'
    obtain rfl := Option.some.inj used'
    exact done

theorem takeOff (i : h.board.Linked old) (b : BoothId) (o : Out) (c : ReleaseCause) :
    Carried old h (h.takeOff b o c) := by
  obtain ⟨l, e, -⟩ := h.board_takeOff_live b o c
  exact ⟨by rw [e], by rw [e], fun _ _ => by rw [e], fun _ s => by rw [e]; exact s, (Links.takeOff h b o c).linked old i⟩

/-- An output that is not HELD keeps its state as its channel moves. -/
theorem setState_same {m : Board} {b : BoothId} {o : Out} {v : OutUse} (used : m.out b o = some v) :
    m.setState b o v.state = m := by
  unfold Board.setState
  rw [used]
  exact (congrArg _ used.symm).trans (m.setOut_same b o)

end Carried

/-! ## The moves of the model -/

namespace Hall

variable (h : Hall)

theorem board_lend (c : ChannelId) (x : FloorId) : (h.lend c x).board =
    match h.board.use c with
    | some u => if u.hold = .owned then
        h.board.setUse c { u with hold := .lent x, lang := if u.origin = .original then none else u.lang } else h.board
    | none => h.board := by
  rw [board_use]
  unfold Hall.lend
  cases (h.channels.get c).use with
  | none => rfl
  | some u =>
    simp only []
    split
    · rw [board_mapReport, board_setUse]
    · rfl

theorem board_relend (c : ChannelId) (z : FloorId) : (h.relend c z).board =
    match h.board.use c with
    | some u => match u.hold with
      | .lent _ => h.board.setUse c { u with hold := .lent z }
      | _ => h.board
    | none => h.board := by
  rw [board_use]
  unfold Hall.relend
  cases (h.channels.get c).use with
  | none => rfl
  | some u => cases hold : u.hold <;> simp [hold]

theorem board_giveBack (c : ChannelId) : (h.giveBack c).board =
    match h.board.use c with
    | some u => if u.hold = .owned then h.board else
        h.board.setUse c { u with hold := .owned, lang := if u.origin = .original then some 0 else u.lang }
    | none => h.board := by
  rw [board_use]
  unfold Hall.giveBack
  cases (h.channels.get c).use with
  | none => rfl
  | some u =>
    simp only []
    split
    · rfl
    · rw [board_mapReport, board_mapReportOf, board_setUse]

theorem board_reserve (c : ChannelId) : (h.reserveChannel c).board =
    match h.board.use c with
    | some u => if u.hold = .reserved then h.board else h.board.setUse c { u with hold := .reserved }
    | none => h.board := by
  rw [board_use]
  unfold Hall.reserveChannel
  cases (h.channels.get c).use with
  | none => rfl
  | some u =>
    simp only []
    split
    · rfl
    · rw [board_mapReportOf, board_setContent, board_setUse]

theorem board_mixOriginal {z x : FloorId} {move : Hall → ChannelId → Hall} {c : ChannelId}
    (org : h.board.original z = some c) : (h.mixOriginal z x move).board = (move h c).board := by
  have org : (h.floor z).original? = some c := org
  simp only [Hall.mixOriginal, org, board_setContent]

end Hall

namespace Carried

variable {old : FloorId → FloorState} {h : Hall} {x z : FloorId}

/-- The original channel of a floor that has no channel is moved nowhere. -/
theorem mixNone (i : h.board.Linked old) {move : Hall → ChannelId → Hall} (org : h.board.original z = none) :
    Carried old h (h.mixOriginal z x move) ∧ (h.mixOriginal z x move).Mixed z := by
  have same : h.mixOriginal z x move = h := by
    have org : (h.floor z).original? = none := org
    simp only [Hall.mixOriginal, org]
  rw [same]
  exact ⟨refl i, fun c org' => by rw [org] at org'; cases org'⟩

/-- The original channel of a floor folded into x follows it, when the move takes it there from where it stands. -/
theorem mixOriginal (i : h.board.Linked old) {move : Hall → ChannelId → Hall} {k : ChanHold}
    (step : ∀ c u, h.board.use c = some u → u.owner = z → u.origin = .original →
      ({ u with hold := k } : ChanUse).fits (h.board.state z) ∧ (u.fits (h.board.state z) ∧ (move h c).board = h.board ∨
        (move h c).board = h.board.setUse c { u with hold := k, lang := if k = .owned then some 0 else none })) :
    Carried old h (h.mixOriginal z x move) ∧ (h.mixOriginal z x move).Mixed z := by
  cases org : h.board.original z with
  | none => exact mixNone i org
  | some c =>
    obtain ⟨u, use, owner, origin⟩ := i.woven.originals z c org
    obtain ⟨fits, ⟨already, still⟩ | moved⟩ := step c u use owner origin
    · have board := (h.board_mixOriginal (x := x) (move := move) org).trans still
      refine ⟨same i board, fun d org' => ?_⟩
      rw [board] at org' ⊢
      obtain rfl := Option.some.inj (org.symm.trans org')
      intro v use'
      obtain rfl := Option.some.inj (use.symm.trans use')
      rw [owner]
      exact already
    · have board := (h.board_mixOriginal (x := x) (move := move) org).trans moved
      obtain ⟨carried, settled⟩ := moveOriginal i use origin (by rw [owner]; exact fits) board
      refine ⟨carried, fun d org' => ?_⟩
      rw [carried.original] at org'
      obtain rfl := Option.some.inj (org.symm.trans org')
      exact settled

theorem lendOriginal (i : h.board.Linked old) (now : h.board.state z = .folded x) (before : old z = .live) :
    Carried old h (h.mixOriginal z x fun g c => g.lend c x) ∧ (h.mixOriginal z x fun g c => g.lend c x).Mixed z := by
  refine mixOriginal i (k := .lent x) fun c u use owner origin => ⟨now, ?_⟩
  rw [board_lend, use]
  simp only [origin, if_true, reduceCtorEq, if_false]
  split
  · exact .inr rfl
  next lent =>
    refine .inl ⟨?_, rfl⟩
    have fits := i.woven.holds c u use
    rw [owner, before, now] at fits
    unfold ChanUse.fits at fits ⊢
    cases hold : u.hold <;> simp_all

theorem relendOriginal (i : h.board.Linked old) (now : h.board.state z = .folded x) {y : FloorId}
    (before : old z = .folded y) :
    Carried old h (h.mixOriginal z x fun g c => g.relend c x) ∧
      (h.mixOriginal z x fun g c => g.relend c x).Mixed z := by
  refine mixOriginal i (k := .lent x) fun c u use owner origin => ⟨now, .inr ?_⟩
  have fits := i.woven.holds c u use
  rw [owner, before, now] at fits
  have lang := (i.woven.original_of_use use origin).2
  rw [board_relend, use]
  unfold ChanUse.fits at fits
  cases hold : u.hold with
  | owned => simp [hold] at fits
  | reserved => simp [hold, origin] at fits
  | lent w =>
    simp only [hold, reduceCtorEq, if_false] at lang ⊢
    rw [lang]

theorem returnOriginal (i : h.board.Linked old) (now : h.board.state z = .live) :
    Carried old h (h.mixOriginal z x fun g c => g.giveBack c) ∧
      (h.mixOriginal z x fun g c => g.giveBack c).Mixed z := by
  refine mixOriginal i (k := .owned) fun c u use owner origin => ⟨now, ?_⟩
  rw [board_giveBack, use]
  simp only [origin, if_true]
  split
  next owned =>
    refine .inl ⟨?_, rfl⟩
    unfold ChanUse.fits
    rw [owned]
    exact now
  · exact .inr rfl

/-- One output of a floor folded into x placed (08 R144): HELD where x's map has its language, in that map otherwise. -/
theorem placeOutput (i : h.board.Linked old) (live : h.board.state x = .live) {b : BoothId} (o : Out)
    (home : h.board.home b = some z) (now : h.board.state z = .folded x) :
    Carried old h (Hall.placeOutput x h (b, o)) ∧ (Hall.placeOutput x h (b, o)).Placed (b, o) := by
  unfold Hall.placeOutput
  simp only []
  split
  next v used =>
    have used : h.board.out b o = some v := used
    obtain ⟨u, use, origin, lang, -, home'⟩ := i.woven.use_of_output used
    obtain rfl := Option.some.inj (home'.symm.trans home)
    have matched := i.matched b o v u used use
    have folded : ({ u with hold := .reserved } : ChanUse).fits (h.board.state u.owner) := by
      refine ⟨⟨x, now⟩, ?_⟩
      rw [origin]
      exact ChanOrigin.noConfusion
    split
    next held =>
      refine ⟨refl i, fun w used' => ?_⟩
      obtain rfl := Option.some.inj (used.symm.trans used')
      intro u' use'
      obtain rfl := Option.some.inj (use.symm.trans use')
      have same : ({ u with hold := .reserved } : ChanUse) = u := by rw [← matched.mpr held]
      rwa [same] at folded
    next unheld =>
      split
      · -- the language is taken: the output HELD, its channel RESERVED
        have off := takeOff i b o .outputHeld
        obtain ⟨l, e, -⟩ := h.board_takeOff_live b o .outputHeld
        have quiet := Hall.takeOff_quiet i b o .outputHeld
        have board : (h.holdOutput b o).board =
            ((h.takeOff b o .outputHeld).board.setState b o .held).setUse v.chan { u with hold := .reserved } := by
          have used' : (h.output b o).use = some v := used
          have use' : ((h.takeOff b o .outputHeld).board.setState b o .held).use v.chan = some u := by
            rw [e]
            exact use
          simp only [Hall.holdOutput, used']
          rw [Hall.recomposeDesks, board_recomposeAll, board_relayRecheck, board_reserve, board_setOutState, use']
          simp only []
          rw [if_neg fun k => unheld (matched.mp k)]
        obtain ⟨moved, placed⟩ := moveOutput off.linked (u := u) (k := .reserved) (st := .held) (by rw [e]; exact used)
          (by rw [e]; exact use) (by rw [e]; exact folded) ⟨fun _ => rfl, fun _ => rfl⟩
          (fun d w _ _ same => by
            obtain ⟨f, none_, -⟩ := same
            cases none_) (fun n booth live => absurd live (quiet n booth)) board
        exact ⟨off.trans moved, placed⟩
      next free =>
        have fits : ({ u with hold := .lent x } : ChanUse).fits (h.board.state u.owner) := now
        have hold : u.hold ≠ .reserved := fun k => unheld (matched.mp k)
        have board : (h.carryChannel v.chan x).board =
            (h.board.setState b o v.state).setUse v.chan { u with hold := .lent x } := by
          rw [setState_same used, Hall.carryChannel, ← board_use, use]
          simp only []
          split
          next owned =>
            rw [board_lend, use]
            simp only [owned, if_true, origin, reduceCtorEq, if_false]
          next unowned =>
            rw [board_relend, use]
            simp only []
            cases hold' : u.hold <;> simp_all
        refine moveOutput i used use fits (by simp [unheld]) (fun d w ne use' same lang' => ?_)
          (fun n booth live' => i.woven.live_named used booth live') board
        obtain ⟨f, map, map'⟩ := same
        obtain rfl := Option.some.inj map
        exact free (h.languageTaken_iff.mpr ⟨live, d, w, use', map', lang'⟩)
  next unused =>
    have unused : h.board.out b o = none := unused
    exact ⟨refl i, fun v used => by rw [unused] at used; cases used⟩

/-- One output of the revived floor r given back (08 R152): SILENT when it was HELD. -/
theorem giveBackOutput (i : h.board.Linked old) (live : h.board.state x = .live) {b : BoothId} (o : Out)
    (home : h.board.home b = some x) (unlent : h.Unlent x) :
    Carried old h (h.giveBackOutput (b, o)) ∧ (h.giveBackOutput (b, o)).Placed (b, o) ∧
      (h.giveBackOutput (b, o)).Unlent x := by
  cases used : h.board.out b o with
  | none =>
    have same : h.giveBackOutput (b, o) = h := by
      have unused : (h.output b o).use = none := used
      simp only [Hall.giveBackOutput, unused]
    rw [same]
    exact ⟨refl i, (fun v used' => by rw [used] at used'; cases used'), unlent⟩
  | some v =>
    obtain ⟨u, use, origin, lang, -, home'⟩ := i.woven.use_of_output used
    obtain rfl := Option.some.inj (home'.symm.trans home)
    have matched := i.matched b o v u used use
    have owned : (h.giveBack v.chan).board = h.board.setUse v.chan { u with hold := .owned } := by
      have lang' : (if u.origin = .original then some 0 else u.lang) = u.lang := if_neg (by rw [origin]; exact ChanOrigin.noConfusion)
      rw [board_giveBack, use]
      simp only [lang']
      split
      next owned =>
        have same : ({ u with hold := .owned } : ChanUse) = u := by rw [← owned]
        rw [same]
        exact (h.board.setUse_same use (i.woven.silent _)).symm
      · rfl
    obtain ⟨st, held, desks, board⟩ : ∃ st, st ≠ .held ∧ (∀ n, h.board.boothOf n = some b → h.board.live n = some o →
        ∃ g, st = .live n g) ∧ (h.giveBackOutput (b, o)).board =
          (h.board.setState b o st).setUse v.chan { u with hold := .owned } := by
      have used' : (h.output b o).use = some v := used
      by_cases held : v.state = .held
      · refine ⟨Hall.silence (h.giveBack v.chan) b, silence_ne_held _ b, fun n booth on => ?_, ?_⟩
        · obtain ⟨g, state⟩ := i.woven.live_named used booth on
          rw [held] at state
          cases state
        · simp only [Hall.giveBackOutput, used', held, if_true]
          rw [Hall.restoreOutput, Hall.recomposeDesks, board_recomposeAll, board_enterSilent, owned]
          rfl
      · refine ⟨v.state, held, fun n booth on => i.woven.live_named used booth on, ?_⟩
        simp only [Hall.giveBackOutput, used', held, if_false]
        rw [owned, setState_same used]
    have fits : ({ u with hold := .owned } : ChanUse).fits (h.board.state u.owner) := live
    obtain ⟨moved, placed⟩ := moveOutput i used use fits (by simp [held]) (fun d w ne use' same lang' => by
      obtain ⟨f, map, map'⟩ := same
      obtain rfl := Option.some.inj map
      unfold ChanUse.map at map'
      cases hold : w.hold with
      | reserved => simp [hold] at map'
      | lent y =>
        rw [hold] at map'
        obtain rfl := Option.some.inj map'
        exact unlent d w use' hold
      | owned =>
        rw [hold] at map'
        have same : w.owner = u.owner := Option.some.inj map'
        exact ne (i.woven.owners _ d v.chan w u use' use same lang' lang)) desks board
    refine ⟨moved, placed, fun d w use' => ?_⟩
    rw [board, Board.setUse_use] at use'
    split at use'
    · obtain rfl := Option.some.inj use'
      exact ChanHold.noConfusion
    · exact unlent d w use'

end Carried

end Sys2Proof

/-! PROOFS. Combining and splitting rooms, as the board shows them (08 R139 to R154): the speech and the listen tables leave the
board, the records change floors' states, and the channels follow. -/

namespace Sys2Proof

open Hall

/-! ## Moves of speech leave the board -/

namespace Hall

variable (h : Hall)

theorem board_carrySpeakers {x y : FloorId} {k : Floor → Floor} (es : List Speaker)
    (state : (k (h.floor y)).state = (h.floor y).state) (original : (k (h.floor y)).original? = (h.floor y).original?)
    (ne : x ≠ y) : (h.carrySpeakers x y k es).board = h.board := by
  have moves := h.carrySpeakers_moves k ne es
  refine Hall.board_of_parts moves.sound moves.desks fun f => ?_
  obtain ⟨at_x, at_y, others⟩ := Hall.floor_of_upds ne (h.carrySpeakers_floors k x y es)
  by_cases ex : f = x
  · rw [ex, at_x]
    exact ⟨rfl, rfl⟩
  · by_cases ey : f = y
    · rw [ey, at_y]
      exact ⟨state, original⟩
    · rw [others f ex ey]
      exact ⟨rfl, rfl⟩

theorem board_carryQueue {x y : FloorId} {k : Floor → Floor} (es : List Waiting)
    (state : (k (h.floor y)).state = (h.floor y).state) (original : (k (h.floor y)).original? = (h.floor y).original?)
    (ne : x ≠ y) : (h.carryQueue x y k es).board = h.board := by
  have moves := h.carryQueue_moves k ne es
  refine Hall.board_of_parts moves.sound moves.desks fun f => ?_
  obtain ⟨at_x, at_y, others⟩ := Hall.floor_of_upds ne (h.carryQueue_floors k x y es)
  by_cases ex : f = x
  · rw [ex, at_x]
    exact ⟨rfl, rfl⟩
  · by_cases ey : f = y
    · rw [ey, at_y]
      exact ⟨state, original⟩
    · rw [others f ex ey]
      exact ⟨rfl, rfl⟩

theorem board_closeAndCheck (now : Clock) (x : FloorId) (c : TurnCause) (ns : List SeatId) :
    ((h.closeExcess now x c).checkBadges now x ns).board = h.board :=
  (LocalTo.checkBadges now _ x ns).board.trans (LocalTo.closeExcess now h x c).board

theorem board_foldSpeakers (now : Clock) {x y : FloorId} (ne : x ≠ y) : (h.foldSpeakers now x y).board = h.board := by
  rw [foldSpeakers_eq]
  exact (board_closeAndCheck _ now x _ _).trans (h.board_carrySpeakers _ rfl rfl ne)

theorem board_foldQueue {x y : FloorId} (ne : x ≠ y) : (h.foldQueue x y).board = h.board := by
  rw [foldQueue_eq]
  exact (LocalTo.settleQueue _ x _).board.trans (h.board_carryQueue _ rfl rfl ne)

theorem board_foldHolders (x y : FloorId) : (h.foldHolders x y).board = h.board :=
  (LocalTo.remute _ x).board.trans ((board_updFloor _ y rfl rfl).trans (board_updFloor h x rfl rfl))

theorem board_reviveEntries (now : Clock) {x r : FloorId} (ne : x ≠ r) (c : SecSet) :
    (h.reviveEntries now x r c).board = h.board := by
  have spoken : (h.reviveSpeakers now x r c).board = h.board :=
    (board_closeAndCheck _ now r _ _).trans (h.board_carrySpeakers _ rfl rfl ne.symm)
  rw [reviveEntries_eq]
  exact (LocalTo.settleQueue _ r _).board.trans ((board_carryQueue _ _ rfl rfl ne.symm).trans spoken)

theorem board_reviveHolders (x r : FloorId) (c : SecSet) : (h.reviveHolders x r c).board = h.board :=
  (LocalTo.remute _ x).board.trans ((LocalTo.remute _ r).board.trans
    ((board_updFloor _ r rfl rfl).trans (board_updFloor h x rfl rfl)))

theorem board_reviveListen (x r : FloorId) (others : List FloorId) (c : SecSet) :
    (h.reviveListen x r others c).board = h.board := by
  have removed : (h.removeAdopted x fun z => z = r || others.contains z).board = h.board :=
    (Relists.removeAdopted h x _).board
  unfold Hall.reviveListen
  refine (board_retune _ _).trans ?_
  split
  · exact removed
  · exact (Relists.adoptionPass _ r).board.trans removed

theorem board_settleFold (now : Clock) (x y : FloorId) (fs : List FloorId) :
    (((((h.adoptionPass x).settleSwap now y).raiseFold fs).recomposeFloor x).arbitrate now).board = h.board := by
  rw [board_arbitrate, board_recomposeFloor, board_raiseFold, board_settleSwap]
  exact (Relists.adoptionPass h x).board

theorem board_annex (x : FloorId) (s : SecSet) : (h.annex x s).board = h.board :=
  (board_raise _ _).trans ((board_retune _ _).trans (board_updFloor h x rfl rfl))

theorem board_vacated (now : Clock) (x : FloorId) (c : SecSet) : (h.vacated now x c).board = h.board :=
  (foldl_keeps (part := Hall.board) (fun g n => board_leaveHolder g n x) _ _).trans (LocalTo.darkened now h x c).board

theorem board_darken (now : Clock) (x : FloorId) (c : SecSet) : (h.darken now x c).board = h.board := by
  have left := h.board_vacated now x c
  rw [darken_eq]
  generalize h.vacated now x c = g at left ⊢
  rw [← left, Hall.membersReport, board_retune]
  exact board_updFloor g x rfl rfl

theorem board_reduceHome (f : FloorId) : (h.reduceHome f).board = h.board := by
  unfold Hall.reduceHome
  split
  · simp only []
    split
    · rfl
    · exact board_updFloor h f rfl rfl
  · rfl

theorem board_endUnfold (now : Clock) (x : FloorId) (spoke : Bool) : (h.endUnfold now x spoke).board = h.board := by
  have homes : ((List.finRange 6).foldl Hall.reduceHome h).board = h.board :=
    foldl_keeps (part := Hall.board) board_reduceHome _ h
  unfold Hall.endUnfold
  generalize (List.finRange 6).foldl Hall.reduceHome h = k at homes ⊢
  have part : (if (k.foldedInto x).isEmpty then k.endAdopted x else k.adoptionPass x).board = h.board := by
    split
    · exact (board_updFloor k x rfl rfl).trans homes
    · exact (Relists.adoptionPass k x).board.trans homes
  simp only []
  generalize (if (k.foldedInto x).isEmpty then k.endAdopted x else k.adoptionPass x) = p at part ⊢
  rw [board_arbitrate, board_recomposeFloor, board_raise]
  split
  · exact (board_quiet _ now x).trans part
  · exact part

/-! ## Records rewritten -/

theorem board_refloored {h g : Hall} (sound : g.sound = h.sound) (desks : g.desks = h.desks) :
    g.board = { h.board with floor := g.board.floor } := by
  have channels := Hall.channels_of_sound sound
  have booths := Hall.booths_of_sound sound
  refine Board.ext ?_ rfl ?_ ?_ ?_ (funext fun n => ?_)
  · simp only [Hall.board, channels]
  · simp only [Hall.board, Hall.output, booths]
  · simp only [Hall.board, booths]
  · simp only [Hall.board, Hall.boothOf, booths]
  · simp only [Hall.board, Hall.desk?_of_desks desks]

theorem setCarriers_sound (fs : List FloorId) (x : FloorId) : (h.setCarriers fs x).sound = h.sound :=
  foldl_keeps (part := Hall.sound) (f := fun g z => g.updFloor z fun f => { f with state := .folded x }) (fun _ _ => rfl) fs h

theorem setCarriers_seats (fs : List FloorId) (x : FloorId) : (h.setCarriers fs x).seats = h.seats :=
  foldl_keeps (part := Hall.seats) (f := fun g z => g.updFloor z fun f => { f with state := .folded x }) (fun _ _ => rfl) fs h

theorem foldRelation_sound (x y : FloorId) (fs : List FloorId) : (h.foldRelation x y fs).sound = h.sound :=
  (Sound.retune _ _).trans (setCarriers_sound _ fs x)

theorem foldRelation_desks (x y : FloorId) (fs : List FloorId) : (h.foldRelation x y fs).desks = h.desks :=
  (Desks.retune _ _).trans (Desks.same (setCarriers_seats (h.updFloor y _) fs x))

theorem reviveRecords_sound (x r : FloorId) (others : List FloorId) (c : SecSet) :
    (h.reviveRecords x r others c).sound = h.sound :=
  (h.updFloor r _).setCarriers_sound others r

theorem reviveRecords_desks (x r : FloorId) (others : List FloorId) (c : SecSet) :
    (h.reviveRecords x r others c).desks = h.desks :=
  Desks.same (setCarriers_seats (h.updFloor r _) others r)

/-- No floor carries a floor and is folded: the floors folded into a LIVE one leave both floors of a fold out. -/
theorem live_not_folded {h : Hall} {x y : FloorId} (live : (h.floor x).state = .live) : x ∉ h.foldedInto y := fun m => by
  rw [mem_foldedInto, live] at m
  cases m

end Hall

/-- The state and the original channel of each floor once y is folded into x (08 R139). -/
theorem Hall.foldRelation_state {h : Hall} {x y : FloorId} (ne : x ≠ y) (liveX : (h.floor x).state = .live)
    (liveY : (h.floor y).state = .live) (f : FloorId) :
    ((h.foldRelation x y (h.foldedInto y)).floor f).state =
        (if f = y ∨ f ∈ h.foldedInto y then .folded x else (h.floor f).state) ∧
      ((h.foldRelation x y (h.foldedInto y)).floor f).original? = (h.floor f).original? := by
  obtain ⟨at_x, at_y, others⟩ := Hall.foldRelation_floor (h := h) ne (live_not_folded liveX) (live_not_folded liveY)
  by_cases ex : f = x
  · subst ex
    rw [at_x, if_neg (by simp [ne, live_not_folded liveX])]
    exact ⟨rfl, rfl⟩
  · by_cases ey : f = y
    · subst ey
      rw [at_y, if_pos (.inl rfl)]
      exact ⟨rfl, (Relisted.dropAdopted (h.floor f) fun _ => true).original⟩
    · rw [others f ex ey]
      simp only [ey, false_or]
      split <;> exact ⟨rfl, rfl⟩

/-- The state and the original channel of each floor once r is revived (08 R149). -/
theorem Hall.reviveRecords_state {h : Hall} {x r : FloorId} (ne : x ≠ r) {others : List FloorId} (c : SecSet)
    (outX : x ∉ others) (outR : r ∉ others) (f : FloorId) :
    ((h.reviveRecords x r others c).floor f).state =
        (if f = r then .live else if f ∈ others then .folded r else (h.floor f).state) ∧
      ((h.reviveRecords x r others c).floor f).original? = (h.floor f).original? := by
  obtain ⟨at_r, at_x, rest⟩ := Hall.reviveRecords_floor (h := h) ne c outX outR
  by_cases er : f = r
  · subst er
    rw [at_r, if_pos rfl]
    exact ⟨rfl, rfl⟩
  · rw [if_neg er]
    by_cases ex : f = x
    · subst ex
      rw [at_x, if_neg outX]
      exact ⟨rfl, rfl⟩
    · rw [rest f ex er]
      split <;> exact ⟨rfl, rfl⟩

namespace Board.Inv

variable {h g : Hall} {x y r : FloorId}

/-- The invariant through a fold's relation: channels still fit the states before it. -/
theorem foldRelation (i : h.board.Inv) (ne : x ≠ y) (liveX : (h.floor x).state = .live)
    (liveY : (h.floor y).state = .live) : (h.foldRelation x y (h.foldedInto y)).board.Linked h.board.state := by
  have each := Hall.foldRelation_state ne liveX liveY
  rw [board_refloored (h.foldRelation_sound x y _) (h.foldRelation_desks x y _)]
  refine i.refloor (fun f => (each f).2) (fun f => ?_) fun f z k => ?_
  · show ((h.foldRelation x y (h.foldedInto y)).floor f).state = .closed ↔ (h.floor f).state = .closed
    rw [(each f).1]
    split
    next moved =>
      obtain rfl | m := moved
      · simp [liveY]
      · simp [mem_foldedInto.mp m]
    · exact Iff.rfl
  · have k : ((h.foldRelation x y (h.foldedInto y)).floor f).state = .folded z := k
    show ((h.foldRelation x y (h.foldedInto y)).floor z).state = .live
    rw [(each f).1] at k
    split at k
    · obtain rfl := FloorState.folded.inj k
      rw [(each x).1, if_neg (by simp [ne, live_not_folded liveX])]
      exact liveX
    next still =>
      have carrier := i.woven.carriers f z k
      have kept : ¬(z = y ∨ z ∈ h.foldedInto y) := by
        rintro (e | m)
        · exact still (.inr (mem_foldedInto.mpr (e ▸ k)))
        · exact live_not_folded carrier m
      rw [(each z).1, if_neg kept]
      exact carrier

/-- The invariant through the records of a revival. -/
theorem reviveRecords (i : h.board.Inv) (c : SecSet) {others : List FloorId}
    (folded : (h.floor r).state = .folded x) (outR : r ∉ others)
    (along : ∀ z ∈ others, (h.floor z).state = .folded x) :
    (h.reviveRecords x r others c).board.Linked h.board.state := by
  have liveX : (h.floor x).state = .live := i.woven.carriers r x folded
  have ne : x ≠ r := fun e => by
    rw [e, folded] at liveX
    cases liveX
  have outX : x ∉ others := fun m => by
    have k := along x m
    rw [liveX] at k
    cases k
  have each := Hall.reviveRecords_state (h := h) ne c outX outR
  rw [board_refloored (h.reviveRecords_sound x r others c) (h.reviveRecords_desks x r others c)]
  refine i.refloor (fun f => (each f).2) (fun f => ?_) fun f z k => ?_
  · show ((h.reviveRecords x r others c).floor f).state = .closed ↔ (h.floor f).state = .closed
    rw [(each f).1]
    split
    next e => simp [e, folded]
    · split
      next m => simp [along f m]
      · exact Iff.rfl
  · have k : ((h.reviveRecords x r others c).floor f).state = .folded z := k
    show ((h.reviveRecords x r others c).floor z).state = .live
    rw [(each f).1] at k
    split at k
    · cases k
    · split at k
      · obtain rfl := FloorState.folded.inj k
        rw [(each r).1, if_pos rfl]
      · have carrier : (h.floor z).state = .live := i.woven.carriers f z k
        have out : z ∉ others := fun m => by
          have k := along z m
          rw [carrier] at k
          cases k
        rw [(each z).1, if_neg out]
        split
        · rfl
        · exact carrier

end Board.Inv

end Sys2Proof

/-! PROOFS. Settles O11: combining and splitting rooms keep the invariant of channels, outputs and floors (08 R139 to R154), and
with them every event of the hall does. -/

namespace Sys2Proof

open Hall

theorem Session.setBank_original (s : Session) (i : BankId) (b : Bank) : (s.setBank i b).original = s.original := by
  cases i <;> rfl

theorem mem_boothOutputs {bs : List BoothId} {p : BoothId × Out} : p ∈ boothOutputs bs ↔ p.1 ∈ bs := by
  obtain ⟨b, o⟩ := p
  unfold boothOutputs
  rw [List.mem_flatMap]
  constructor
  · rintro ⟨c, m, k⟩
    simp only [List.mem_cons, Prod.mk.injEq, List.not_mem_nil, or_false] at k
    obtain ⟨rfl, -⟩ | ⟨rfl, -⟩ := k <;> exact m
  · exact fun m => ⟨b, m, by cases o <;> simp⟩

/-- Giving an original channel back lends none. -/
theorem Hall.Unlent.mixOriginal {h : Hall} {r : FloorId} (k : h.Unlent r) (z : FloorId) :
    (h.mixOriginal z z fun g c => g.giveBack c).Unlent r := by
  cases org : h.board.original z with
  | none =>
    have org : (h.floor z).original? = none := org
    simp only [Hall.mixOriginal, org]
    exact k
  | some c =>
    intro d u use
    rw [board_mixOriginal h org, board_giveBack] at use
    split at use
    · split at use
      · exact k d u use
      · rw [Board.setUse_use] at use
        split at use
        · obtain rfl := Option.some.inj use
          exact ChanHold.noConfusion
        · exact k d u use
    · exact k d u use

namespace Carried

variable {old : FloorId → FloorState} {h : Hall} {x y r : FloorId}

/-- Step 5 of a fold (08 R143). -/
theorem foldOriginals (i : h.board.Linked old) {fs : List FloorId} (now : ∀ z ∈ y :: fs, h.board.state z = .folded x)
    (live : old y = .live) (along : ∀ z ∈ fs, old z = .folded y) :
    Carried old h (h.foldOriginals x y fs) ∧ ∀ z ∈ y :: fs, (h.foldOriginals x y fs).Mixed z := by
  obtain ⟨first, mixed⟩ := lendOriginal i (now y List.mem_cons_self) live
  obtain ⟨rest, all, -⟩ := each (P := fun _ => True) (D := fun z g => g.Mixed z) (fun z _ _ q done => q.mixed done) fs
    first.linked trivial
    (f := fun g z => g.mixOriginal z x fun g c => g.relend c x) fun g z m q _ => by
      obtain ⟨moved, done⟩ := relendOriginal (x := x) q.linked
        (by rw [q.state, first.state]; exact now z (List.mem_cons_of_mem y m)) (along z m)
      exact ⟨moved, done, trivial⟩
  refine ⟨first.trans rest, fun z m => ?_⟩
  obtain rfl | m := List.mem_cons.mp m
  · exact rest.mixed mixed
  · exact all z m

/-- The outputs of booths whose floors are folded into x, placed one after another (08 R144). -/
theorem placeOutputs (i : h.board.Linked old) (live : h.board.state x = .live) {ps : List (BoothId × Out)}
    (homes : ∀ p ∈ ps, ∃ z, h.board.home p.1 = some z ∧ h.board.state z = .folded x) :
    Carried old h (ps.foldl (Hall.placeOutput x) h) ∧ ∀ p ∈ ps, (ps.foldl (Hall.placeOutput x) h).Placed p := by
  obtain ⟨moved, all, -⟩ := each (P := fun _ => True) (D := fun p g => g.Placed p) (fun p _ _ q done => q.placed done) ps i
    trivial (f := Hall.placeOutput x) fun g p m q _ => by
      obtain ⟨z, home, now⟩ := homes p m
      obtain ⟨moved, done⟩ := placeOutput q.linked (by rw [q.state]; exact live) p.2 (by rw [q.home]; exact home)
        (by rw [q.state]; exact now)
      exact ⟨moved, done, trivial⟩
  exact ⟨moved, all⟩

/-- The outputs of the booths of some floors, all of them folded into x; the booths are those of an earlier hall. -/
theorem placeBooths (i : h.board.Linked old) (live : h.board.state x = .live) {k : Hall}
    (home : h.board.home = k.board.home) {fs : List FloorId} (now : ∀ z ∈ fs, h.board.state z = .folded x) :
    Carried old h ((boothOutputs (k.boothsOf fs)).foldl (Hall.placeOutput x) h) ∧
      ∀ z ∈ fs, ∀ b o, h.board.home b = some z →
        ((boothOutputs (k.boothsOf fs)).foldl (Hall.placeOutput x) h).Placed (b, o) := by
  obtain ⟨moved, all⟩ := placeOutputs i live (ps := boothOutputs (k.boothsOf fs)) fun p m => by
    obtain ⟨z, mz, at_⟩ := mem_boothsOf.mp (mem_boothOutputs.mp m)
    exact ⟨z, by rw [home]; exact at_, now z mz⟩
  exact ⟨moved, fun z m b o at_ => all _ (mem_boothOutputs.mpr (mem_boothsOf.mpr ⟨z, m, by rw [← home]; exact at_⟩))⟩

/-- Step 6 of a fold (08 R144). -/
theorem foldOutputs (i : h.board.Linked old) (live : h.board.state x = .live) {fs : List FloorId}
    (now : ∀ z ∈ fs, h.board.state z = .folded x) :
    Carried old h (h.foldOutputs x fs) ∧
      ∀ z ∈ fs, ∀ b o, h.board.home b = some z → (h.foldOutputs x fs).Placed (b, o) := by
  obtain ⟨moved, all⟩ := placeBooths i live rfl now
  have served := same moved.linked (board_servingChanged ((boothOutputs (h.boothsOf fs)).foldl (Hall.placeOutput x) h)
    (h.boothsOf fs))
  exact ⟨moved.trans served, fun z m b o home => served.placed (all z m b o home)⟩

/-- The outputs of the booths of the revived floor given back (08 R152 step 2); the booths are those of an earlier hall. -/
theorem giveBackBooths (i : h.board.Linked old) (live : h.board.state r = .live) (unlent : h.Unlent r) {k : Hall}
    (home : h.board.home = k.board.home) :
    Carried old h ((boothOutputs (k.boothsOf [r])).foldl Hall.giveBackOutput h) ∧
      ∀ b o, h.board.home b = some r → ((boothOutputs (k.boothsOf [r])).foldl Hall.giveBackOutput h).Placed (b, o) := by
  have homes : ∀ b, b ∈ k.boothsOf [r] ↔ h.board.home b = some r := fun b => by
    rw [mem_boothsOf, home]
    simp
  obtain ⟨moved, all, -⟩ := each (P := fun g => g.Unlent r) (D := fun p g => g.Placed p)
    (fun p _ _ q done => q.placed done) (boothOutputs (k.boothsOf [r])) i unlent (f := Hall.giveBackOutput)
    fun g p m q free => giveBackOutput q.linked (by rw [q.state]; exact live) p.2
      (by rw [q.home]; exact (homes p.1).mp (mem_boothOutputs.mp m)) free
  exact ⟨moved, fun b o at_ => all _ (mem_boothOutputs.mpr ((homes b).mpr at_))⟩

/-- One other floor of K taken along by the revived floor r (08 R152 step 3). -/
theorem reviveCarried (i : h.board.Linked old) (live : h.board.state r = .live) {z : FloorId}
    (now : h.board.state z = .folded r) (before : old z = .folded x) :
    Carried old h (Hall.reviveCarried r h z) ∧ (Hall.reviveCarried r h z).Mixed z ∧
      ∀ b o, h.board.home b = some z → (Hall.reviveCarried r h z).Placed (b, o) := by
  obtain ⟨lent, mixed⟩ := relendOriginal (x := r) i now before
  obtain ⟨placed, all⟩ := placeBooths lent.linked (by rw [lent.state]; exact live) lent.home (fs := [z])
    fun f m => by
      obtain rfl := List.mem_singleton.mp m
      rw [lent.state]
      exact now
  exact ⟨lent.trans placed, placed.mixed mixed, fun b o home =>
    all z (List.mem_singleton.mpr rfl) b o (by rw [lent.home]; exact home)⟩

/-- The channels of a revival (08 R152). -/
theorem reviveChannels (i : h.board.Linked old) (live : h.board.state r = .live) (unlent : h.Unlent r)
    {others : List FloorId} (now : ∀ z ∈ others, h.board.state z = .folded r) (before : ∀ z ∈ others, old z = .folded x) :
    Carried old h (h.reviveChannels r others) ∧ ∀ z, z = r ∨ z ∈ others →
      (h.reviveChannels r others).Mixed z ∧ ∀ b o, h.board.home b = some z → (h.reviveChannels r others).Placed (b, o) := by
  obtain ⟨own, mixed⟩ := returnOriginal (x := r) i live
  have free := unlent.mixOriginal r
  obtain ⟨given, placed⟩ := giveBackBooths own.linked (by rw [own.state]; exact live) free rfl
  have first := own.trans given
  obtain ⟨taken, all, -⟩ := each (P := fun _ => True)
    (D := fun z g => g.Mixed z ∧ ∀ b o, g.board.home b = some z → g.Placed (b, o))
    (fun z g k q done => ⟨q.mixed done.1, fun b o at_ => q.placed (done.2 b o (by rw [← q.home]; exact at_))⟩) others
    first.linked trivial (f := Hall.reviveCarried r) fun g z m q _ => by
      have both := first.trans q
      obtain ⟨moved, mixed, placed⟩ := reviveCarried q.linked (by rw [both.state]; exact live)
        (by rw [both.state]; exact now z m) (before z m)
      exact ⟨moved, ⟨mixed, fun b o at_ => placed b o (by rw [← moved.home]; exact at_)⟩, trivial⟩
  have rest := first.trans taken
  have served : Carried old _ (h.reviveChannels r others) := same rest.linked (board_servingChanged _ _)
  refine ⟨rest.trans served, fun z m => ?_⟩
  obtain rfl | m := m
  · exact ⟨served.mixed (taken.mixed (given.mixed mixed)), fun b o at_ =>
      served.placed (taken.placed (placed b o (by rw [own.home]; exact at_)))⟩
  · obtain ⟨mixed, placed⟩ := all z m
    exact ⟨served.mixed mixed, fun b o at_ => served.placed (placed b o (by rw [rest.home]; exact at_))⟩

end Carried

/-! ## The halls between speech and channels -/

namespace Hall

variable {x y r : FloorId}

/-- The hall of a fold once the holders have moved (08 R139 to R142). -/
def foldMoved (now : Clock) (h : Hall) (x y : FloorId) : Hall :=
  (h.foldEntries now x y).foldHolders x y

theorem foldMoved_board (now : Clock) (h : Hall) (ne : x ≠ y) :
    (h.foldMoved now x y).board = (h.foldRelation x y (h.foldedInto y)).board :=
  (board_foldHolders _ x y).trans ((board_foldQueue _ ne).trans (board_foldSpeakers _ now ne))

/-- The moves of speech leave channels, outputs and booths' floors. -/
theorem foldMoved_sound (now : Clock) (h : Hall) (ne : x ≠ y) : (h.foldMoved now x y).board.use = h.board.use ∧
    (h.foldMoved now x y).board.out = h.board.out ∧ (h.foldMoved now x y).board.home = h.board.home := by
  rw [foldMoved_board now h ne, board_refloored (h.foldRelation_sound x y _) (h.foldRelation_desks x y _)]
  exact ⟨rfl, rfl, rfl⟩

/-- The hall of a revival once the holders are divided (08 R149 to R151). -/
def reviveHeld (now : Clock) (h : Hall) (x r : FloorId) (others : List FloorId) (c : SecSet) : Hall :=
  ((h.reviveRecords x r others c).reviveEntries now x r c).reviveHolders x r c

theorem reviveHeld_board (now : Clock) (h : Hall) (ne : x ≠ r) (others : List FloorId) (c : SecSet) :
    (h.reviveHeld now x r others c).board = (h.reviveRecords x r others c).board :=
  (board_reviveHolders _ x r c).trans (board_reviveEntries _ now ne c)

theorem reviveHeld_sound (now : Clock) (h : Hall) (ne : x ≠ r) (others : List FloorId) (c : SecSet) :
    (h.reviveHeld now x r others c).board.use = h.board.use ∧
      (h.reviveHeld now x r others c).board.out = h.board.out ∧
      (h.reviveHeld now x r others c).board.home = h.board.home := by
  rw [reviveHeld_board now h ne, board_refloored (h.reviveRecords_sound x r others c) (h.reviveRecords_desks x r others c)]
  exact ⟨rfl, rfl, rfl⟩

end Hall

namespace Board.Inv

variable {h g : Hall} {x y r : FloorId}

/-- The invariant once the entries and the holders of a fold have moved. -/
theorem foldMoved (i : h.board.Inv) (now : Clock) (ne : x ≠ y) (liveX : (h.floor x).state = .live)
    (liveY : (h.floor y).state = .live) : (h.foldMoved now x y).board.Linked h.board.state ∧
      (∀ f, (h.foldMoved now x y).board.state f = if f = y ∨ f ∈ h.foldedInto y then .folded x else h.board.state f) ∧
      (h.foldMoved now x y).board.original = h.board.original := by
  have each := Hall.foldRelation_state ne liveX liveY
  rw [foldMoved_board now h ne]
  exact ⟨i.foldRelation ne liveX liveY, fun f => (each f).1, funext fun f => (each f).2⟩

theorem foldInto (i : h.board.Inv) (now : Clock) (ne : x ≠ y) (liveX : (h.floor x).state = .live)
    (liveY : (h.floor y).state = .live) : (h.foldInto now x y).board.Inv := by
  obtain ⟨start, state, -⟩ := i.foldMoved now ne liveX liveY
  rw [foldInto_eq, board_settleFold]
  change (((h.foldMoved now x y).foldOriginals x y (h.foldedInto y)).foldOutputs x (y :: h.foldedInto y)).board.Inv
  generalize h.foldMoved now x y = k at start state ⊢
  have moved : ∀ z ∈ y :: h.foldedInto y, k.board.state z = .folded x := fun z m => by
    rw [state, if_pos (List.mem_cons.mp m)]
  have live : k.board.state x = .live := by
    rw [state, if_neg (by simp [ne, live_not_folded liveX])]
    exact liveX
  obtain ⟨originals, mixed⟩ := Carried.foldOriginals start moved liveY fun z m => mem_foldedInto.mp m
  obtain ⟨outputs, placed⟩ := Carried.foldOutputs originals.linked (by rw [originals.state]; exact live)
    (fs := y :: h.foldedInto y) fun z m => by
      rw [originals.state]
      exact moved z m
  have both := originals.trans outputs
  refine Carried.finish both.linked (moved := fun z => z ∈ y :: h.foldedInto y) (fun f out => ?_)
    (fun z m => outputs.mixed (mixed z m)) fun z m b o home => placed z m b o (by rw [← outputs.home]; exact home)
  rw [both.state, state, if_neg fun m => out (List.mem_cons.mpr m)]

/-- The carrier of a floor that revives is LIVE, and no other floor of K. -/
theorem reviver (i : h.board.Inv) {others : List FloorId} (folded : (h.floor r).state = .folded x)
    (along : ∀ z ∈ others, (h.floor z).state = .folded x) : x ≠ r ∧ x ∉ others := by
  have liveX : (h.floor x).state = .live := i.woven.carriers r x folded
  refine ⟨fun e => ?_, fun m => ?_⟩
  · rw [e, folded] at liveX
    cases liveX
  · have k := along x m
    rw [liveX] at k
    cases k

/-- The invariant once the entries and the holders of a revival are divided. -/
theorem reviveHeld (i : h.board.Inv) (now : Clock) (c : SecSet) {others : List FloorId}
    (folded : (h.floor r).state = .folded x) (outR : r ∉ others) (along : ∀ z ∈ others, (h.floor z).state = .folded x) :
    (h.reviveHeld now x r others c).board.Linked h.board.state ∧
      (∀ f, (h.reviveHeld now x r others c).board.state f =
        if f = r then .live else if f ∈ others then .folded r else h.board.state f) ∧
      (h.reviveHeld now x r others c).board.original = h.board.original ∧ (h.reviveHeld now x r others c).Unlent r := by
  obtain ⟨ne, outX⟩ := i.reviver folded along
  have each := Hall.reviveRecords_state (h := h) ne c outX outR
  have spoken := reviveHeld_board now h ne others c
  refine ⟨?_, fun f => ?_, ?_, fun d u use lent => ?_⟩
  · rw [spoken]
    exact i.reviveRecords c folded outR along
  · rw [spoken]
    exact (each f).1
  · rw [spoken]
    exact funext fun f => (each f).2
  · obtain ⟨uses, -, -⟩ := reviveHeld_sound now h ne others c
    rw [uses] at use
    have fits : u.fits (h.board.state u.owner) := (i.woven.holds d u use).elim id id
    unfold ChanUse.fits at fits
    rw [lent] at fits
    have live : (h.floor r).state = .live := i.woven.carriers _ r fits
    rw [folded] at live
    cases live

theorem revive (i : h.board.Inv) (now : Clock) (c : SecSet) {others : List FloorId}
    (folded : (h.floor r).state = .folded x) (outR : r ∉ others)
    (along : ∀ z ∈ others, (h.floor z).state = .folded x) : (h.revive now x r others c).board.Inv := by
  obtain ⟨start, state, -, unlent⟩ := i.reviveHeld now c folded outR along
  unfold Hall.revive
  simp only []
  rw [board_recomposeFloor, board_raiseFold, board_reviveListen]
  change ((h.reviveHeld now x r others c).reviveChannels r others).board.Inv
  generalize h.reviveHeld now x r others c = k at start state unlent ⊢
  obtain ⟨moved, all⟩ := Carried.reviveChannels start (by rw [state, if_pos rfl]) unlent (others := others)
    (fun z m => by rw [state, if_neg (by rintro rfl; exact outR m), if_pos m]) along
  refine Carried.finish moved.linked (moved := fun z => z = r ∨ z ∈ others) (fun f out => ?_)
    (fun z m => (all z m).1) fun z m b o home => (all z m).2 b o (by rw [← moved.home]; exact home)
  rw [moved.state, state, if_neg fun e => out (.inl e), if_neg fun m => out (.inr m)]

theorem takePart (i : h.board.Inv) (now : Clock) (c : SecSet) : (Hall.takePart now x h c).board.Inv := by
  unfold Hall.takePart
  simp only []
  split
  next r pick =>
    exact i.revive now c (Hall.mem_anchoredIn (Hall.ranked_mem pick)) (fun m => by simp at m)
      fun z m => Hall.mem_anchoredIn (List.mem_of_mem_filter m)
  · rw [board_darken]
    exact i

theorem unfold (i : h.board.Inv) (now : Clock) (walls : Tbl (Option Wall) 16) (x : FloorId) :
    (h.unfold now walls x).board.Inv := by
  unfold Hall.unfold
  split
  · simp only []
    split
    · exact i
    · rw [board_endUnfold]
      exact List.foldlRecOn _ (Hall.takePart now x) (motive := fun g => g.board.Inv) i fun g k c _ => k.takePart now c
  · exact i

theorem appliedOpen (i : h.board.Inv) (now : Clock) (walls : Tbl (Option Wall) 16) (a b : SectionId) :
    (h.appliedOpen now walls a b).board.Inv := by
  unfold Hall.appliedOpen
  split
  · exact i
  · rw [board_annex]
    exact i
  · rw [board_annex]
    exact i
  next x y hx hy =>
    split
    · exact i
    next ne =>
      obtain e | e := h.survivor_cases x y <;> rw [e]
      · exact i.foldInto now ne (Hall.floorAt_live hx) (Hall.floorAt_live hy)
      · exact i.foldInto now (Ne.symm ne) (Hall.floorAt_live hy) (Hall.floorAt_live hx)

theorem appliedClosed (i : h.board.Inv) (now : Clock) (walls : Tbl (Option Wall) 16) (a b : SectionId) :
    (h.appliedClosed now walls a b).board.Inv := by
  unfold Hall.appliedClosed
  split
  · split
    · exact i.unfold now walls _
    · exact i
  · exact i

/-- A floor's session rewritten but for its original channel. -/
theorem setSession (i : h.board.Inv) {f : FloorId} {s t : Session} (opened : (h.floor f).sess = some s)
    (original : t.original = s.original) : (h.updFloor f fun y => { y with sess := some t }).board.Inv := by
  rw [board_updFloor h f rfl (by simp [Floor.original?, opened, original])]
  exact i

/-- Every event of the hall keeps the invariant. -/
theorem event (e : h.Event g) (i : h.board.Inv) : g.board.Inv := by
  have same : ∀ {g : Hall}, g.board = h.board → g.board.Inv := fun e => by rwa [e]
  cases e with
  | aside floors slots channels booths seats =>
    exact same (Hall.board_same floors (Prod.ext channels booths) (Desks.same seats))
  | setReach n r => exact same (board_setReach h n r)
  | seatMissing now n => exact (Links.seatMissing h now n).inv i
  | seatAnswered now n via slot badge keys => exact (Links.seatAnswered h now n via slot badge keys).inv i
  | graceExpires now n => exact (Links.graceExpires h now n).inv i
  | retire now n c => exact (Links.retire h now n c).inv i
  | makeSeat n p a k => exact (Links.makeSeat h n p a k).inv i
  | reserve free => exact (Links.setPos h _ rfl).inv i
  | unreserve n => exact (Links.unreserve h n).inv i
  | placeSeat n place => exact same (board_placeSeat h n place)
  | setRole n x =>
    exact same ((board_mark _ n).trans ((board_recompose _ n).trans (board_updSeat h n fun _ => rfl)))
  | refreshSeats => exact same (board_refreshSeats h)
  | tick now => exact (Links.tick h now).inv i
  | timeUp now n => exact same (board_timeUp h now n)
  | warnZero n => exact same (board_warnZero h n)
  | endFlash n => exact same (board_endFlash h n)
  | fallbackExpires b o => exact (Links.fallbackExpires h b o).inv i
  | openFloor walls a p closed given => exact i.floorOpened walls a p closed given
  | closeFloor now f => exact i.floorClosed now f
  | appliedOpen now walls a b => exact i.appliedOpen now walls a b
  | appliedClosed now walls a b => exact i.appliedClosed now walls a b
  | setPrecedence opened p => exact i.setSession opened rfl
  | writeBank opened b => exact i.setSession opened (Session.setBank_original _ _ _)
  | completeSwap now f => exact same (board_completeSwap h now f)
  | setSwapPending f b => exact same (board_updFloor h f rfl rfl)
  | arbitrate now => exact same (board_arbitrate h now)
  | displace now live silent => exact same ((board_passTurn _ now _ _ _).trans (board_waitsOnlyOn h _ _))
  | grant now live silent free room => exact same ((board_grant _ now _ _ _).trans (board_waitsOnlyOn h _ _))
  | endTurn now f n c => exact same (board_endTurn h now f n c)
  | joinQueue k e live silent idle room pool => exact same (LocalTo.joinQueue h _ k e).board
  | removeEntries f ns c => exact same (LocalTo.removeEntries h f ns c).board
  | setRequest f b => exact same (board_updFloor h f rfl rfl)
  | priorityAct now f => exact same (board_priorityAct h now f)
  | liftIfEmpty f => exact same (board_liftIfEmpty h f)
  | assignBooth spare live => exact i.assignBooth spare live
  | addOutput home unused served own spoken given => exact i.addOutput home unused served own spoken given
  | clearOutput b o c => exact (Links.clearOutput h b o c).inv i
  | addDesk b free => exact i.addDesk b free
  | removeDesk listed => exact (Links.removeDesk h listed).inv i
  | setBooth b p d => exact (Links.setBooth h b p d).inv i
  | releaseBooth b => exact (Links.releaseBooth h b).inv i

end Board.Inv

namespace Machine

theorem channelInv_afterReset (w : World) : ChannelInv w.afterReset.hall := by
  refine channelInv_of_reset (fun n => ?_) (afterReset_floor w) (fun c => ?_) fun b => ?_
  all_goals simp [World.afterReset_hall, World.resetHall, Hall.reset, Hall.seat?]

/-- Settles O11: the invariant is that of the board (`channelInv_iff`), which each event of the hall keeps
(`Board.Inv.event`); device reset leaves every channel FREE. -/
theorem channelInvariantIsKept : Obligations.ChannelInvariantIsKept :=
  fun _ _ i e => step_keeps (fun _ _ e i => channelInv_iff.mpr (Board.Inv.event e (channelInv_iff.mp i)))
    channelInv_afterReset i e

end Machine

end Sys2Proof

/-! PROOFS. Applied wall events classified (03 R48), annexing (03 R49), a component that goes dark (08 R148), and the end of an
unfold (08 R154). -/

namespace Sys2Proof

/-! ## Classification (03 R48) -/

/-- The survivor has the higher precedence, on a tie the lower number (08 R139). -/
theorem Hall.survivor_ranks (h : Hall) {a b : FloorId} (ne : a ≠ b) :
    ∃ p q, h.survivor a b = (p, q) ∧ (p = a ∧ q = b ∨ p = b ∧ q = a) ∧
      ((h.floor q).precedence < (h.floor p).precedence ∨ (h.floor q).precedence = (h.floor p).precedence ∧ p < q) := by
  unfold Hall.survivor
  split
  next tie =>
    split
    next below => exact ⟨a, b, rfl, .inl ⟨rfl, rfl⟩, .inr ⟨tie.symm, below⟩⟩
    next above => exact ⟨b, a, rfl, .inr ⟨rfl, rfl⟩, .inr ⟨tie, lt_of_le_of_ne (not_lt.mp above) ne.symm⟩⟩
  next differ =>
    split
    next below => exact ⟨a, b, rfl, .inl ⟨rfl, rfl⟩, .inl below⟩
    next above => exact ⟨b, a, rfl, .inr ⟨rfl, rfl⟩, .inl (by omega)⟩

section

variable {h : Hall} {a b : SectionId} {x y : FloorId}

theorem Hall.appliedOpen_dark (now : Clock) (walls : Tbl (Option Wall) 16) (ha : h.floorAt a = none)
    (hb : h.floorAt b = none) : h.appliedOpen now walls a b = h := by
  simp only [Hall.appliedOpen, ha, hb]

theorem Hall.appliedOpen_same (now : Clock) (walls : Tbl (Option Wall) 16) (ha : h.floorAt a = some x)
    (hb : h.floorAt b = some x) : h.appliedOpen now walls a b = h := by
  simp only [Hall.appliedOpen, ha, hb, if_true]

theorem Hall.appliedOpen_annexB (now : Clock) (walls : Tbl (Option Wall) 16) (ha : h.floorAt a = some x)
    (hb : h.floorAt b = none) : h.appliedOpen now walls a b = h.annex x (component walls b) := by
  simp only [Hall.appliedOpen, ha, hb]

theorem Hall.appliedOpen_annexA (now : Clock) (walls : Tbl (Option Wall) 16) (ha : h.floorAt a = none)
    (hb : h.floorAt b = some x) : h.appliedOpen now walls a b = h.annex x (component walls a) := by
  simp only [Hall.appliedOpen, ha, hb]

theorem Hall.appliedOpen_fold (now : Clock) (walls : Tbl (Option Wall) 16) (ha : h.floorAt a = some x)
    (hb : h.floorAt b = some y) (ne : x ≠ y) :
    h.appliedOpen now walls a b = h.foldInto now (h.survivor x y).1 (h.survivor x y).2 := by
  simp only [Hall.appliedOpen, ha, hb, if_neg ne]

theorem Hall.appliedClosed_within (now : Clock) (walls : Tbl (Option Wall) 16) (ha : h.floorAt a = some x)
    (hb : h.floorAt b = some x) : h.appliedClosed now walls a b = h.unfold now walls x := by
  simp only [Hall.appliedClosed, ha, hb, if_true]

theorem Hall.appliedClosed_apart (now : Clock) (walls : Tbl (Option Wall) 16)
    (apart : ∀ x, h.floorAt a = some x → h.floorAt b ≠ some x) : h.appliedClosed now walls a b = h := by
  unfold Hall.appliedClosed
  split
  next x y ha hb => exact if_neg fun (e : x = y) => apart x ha (e ▸ hb)
  · rfl

end

theorem wallEventsClassified (now : Clock) (walls : Tbl (Option Wall) 16) (h : Hall) (a b : SectionId) :
    (h.floorAt a = none → h.floorAt b = none → h.appliedOpen now walls a b = h) ∧
    (∀ x, h.floorAt a = some x → h.floorAt b = some x → h.appliedOpen now walls a b = h) ∧
    (∀ x, h.floorAt a = some x → h.floorAt b = none →
      h.appliedOpen now walls a b = h.annex x (component walls b)) ∧
    (∀ x, h.floorAt a = none → h.floorAt b = some x →
      h.appliedOpen now walls a b = h.annex x (component walls a)) ∧
    (∀ x y, h.floorAt a = some x → h.floorAt b = some y → x ≠ y → ∃ p q, (p = x ∧ q = y ∨ p = y ∧ q = x) ∧
      ((h.floor q).precedence < (h.floor p).precedence ∨ (h.floor q).precedence = (h.floor p).precedence ∧ p < q) ∧
      h.appliedOpen now walls a b = h.foldInto now p q) ∧
    ((∀ x, h.floorAt a = some x → h.floorAt b ≠ some x) → h.appliedClosed now walls a b = h) ∧
    ∀ x, h.floorAt a = some x → h.floorAt b = some x → h.appliedClosed now walls a b = h.unfold now walls x := by
  refine ⟨Hall.appliedOpen_dark now walls, fun _ => Hall.appliedOpen_same now walls,
    fun _ => Hall.appliedOpen_annexB now walls, fun _ => Hall.appliedOpen_annexA now walls, fun x y ha hb ne => ?_,
    Hall.appliedClosed_apart now walls, fun _ => Hall.appliedClosed_within now walls⟩
  obtain ⟨p, q, pair, which, ranks⟩ := h.survivor_ranks ne
  exact ⟨p, q, which, ranks, by rw [Hall.appliedOpen_fold now walls ha hb ne, pair]⟩

/-! ## Annexing (03 R49) -/

/-- What a re-resolution reads does not change with the seats. -/
theorem Hall.resolve_retune (h : Hall) (p : SeatId → Seat → Bool) (n : SeatId) (r : Seat) :
    (h.retune p).resolve n r = h.resolve n r := by
  have floors : ∀ f, (h.retune p).floor f = h.floor f := Hall.floor_of_floors (Hall.retune_floors h p)
  have booths : (h.retune p).booths = h.booths := Hall.booths_of_sound (Sound.retune h p)
  have channels : (h.retune p).channels = h.channels := Hall.channels_of_sound (Sound.retune h p)
  have floorOf : (h.retune p).floorOf r = h.floorOf r := by
    have floorAt : (h.retune p).floorAt = h.floorAt := funext fun s => by
      simp only [Hall.floorAt, Hall.retune_floors]
    simp only [Hall.floorOf, floorAt]
  simp only [Hall.resolve, Hall.tunedDesk, Hall.tunedListener, Hall.boothOf, Hall.serving, Hall.carrying, Hall.inMap,
    Hall.output, floors, booths, channels, floorOf]

theorem annexedFloor (h : Hall) (x : FloorId) (joined : SecSet) : ∃ t, t = h.annex x joined ∧
    t.floor x = { h.floor x with members := (h.floor x).members ||| joined } ∧
    (∀ f, f ≠ x → t.floor f = h.floor f) ∧ t.stands (.foldChanged x) = true ∧
    t.slots = h.slots ∧ t.channels = h.channels ∧ t.booths = h.booths ∧
    ∀ n r, h.seat? n = some r → ∃ v, t.seat? n = some { r with tuned := v } ∧
      v = if r.place.elim false (fun p => (joined &&& ~~~(h.floor x).members).getLsbD p.val)
        then t.resolve n r else r.tuned := by
  refine ⟨_, rfl, ?_⟩
  unfold Hall.annex
  generalize hg : h.updFloor x (fun f => { f with members := f.members ||| joined }) = g
  have floors : ∀ f, g.floor f = if x = f then { h.floor x with members := (h.floor x).members ||| joined }
      else h.floor f := fun f => by rw [← hg, Hall.floor_updFloor]
  have report : ∀ s f, ((g.membersReport s).raise (.foldChanged x)).floor f = g.floor f := fun s f =>
    Hall.floor_of_floors (Hall.retune_floors g _) f
  have sound : ∀ s, ((g.membersReport s).raise (.foldChanged x)).sound = h.sound := fun s =>
    (Sound.retune g _).trans (by rw [← hg]; rfl)
  refine ⟨?_, fun f nx => ?_, Hall.stands_raise _ _, ?_, Hall.channels_of_sound (sound _), Hall.booths_of_sound (sound _),
    fun n r held => ⟨_, Hall.seat?_retune _ (by rw [← hg]; exact held), ?_⟩⟩
  · rw [report, floors, if_pos rfl]
  · rw [report, floors, if_neg nx.symm]
  · exact (Hall.retune_slots g _).trans (by rw [← hg]; rfl)
  · have still : ((g.membersReport (joined &&& ~~~(h.floor x).members)).raise (.foldChanged x)).resolve n r =
        g.resolve n r := Hall.resolve_retune g _ n r
    rw [still]

/-! ## Unfold (08 R147) -/

theorem unfoldedByParts (now : Clock) (walls : Tbl (Option Wall) 16) (h : Hall) (x : FloorId) (s : Session)
    (opened : (h.floor x).sess = some s) :
    ∃ cut, cut = (h.floor x).members &&& ~~~(component walls s.anchor) ∧ (cut = 0#12 → h.unfold now walls x = h) ∧
      (cut ≠ 0#12 → h.unfold now walls x =
        ((cutParts walls 12 cut).foldl (Hall.takePart now x) h).endUnfold now x
          (decide (0 < (h.floor x).delegates))) := by
  refine ⟨_, rfl, fun none_ => ?_, fun some_ => ?_⟩
  · simp only [Hall.unfold, opened, if_pos none_]
  · simp only [Hall.unfold, opened, if_neg some_]

/-! ## A component that goes dark (08 R148) -/

theorem Hall.ranked_nil (h : Hall) : h.ranked [] = none := rfl

theorem Hall.takePart_dark (now : Clock) {h : Hall} {x : FloorId} {c : SecSet}
    (unanchored : ∀ z s, (h.floor z).state = .folded x → (h.floor z).sess = some s → c.getLsbD s.anchor.val = false) :
    Hall.takePart now x h c = h.darken now x c := by
  have none_ : h.anchoredIn x c = [] := by
    unfold Hall.anchoredIn
    refine List.filter_eq_nil_iff.mpr fun z m => ?_
    cases sess : (h.floor z).sess with
    | none => simp
    | some s =>
      rw [Option.elim_some, unanchored z s (Hall.mem_foldedInto.mp m) sess]
      exact Bool.false_ne_true
  simp only [Hall.takePart, none_, Hall.ranked_nil]

/-- A seat that sits anywhere is held. -/
theorem Hall.held_of_sits {h : Hall} {c : SecSet} {n : SeatId} (k : h.sits c n = true) : (h.seat? n).isSome = true := by
  unfold Hall.sits at k
  cases held : h.seat? n with
  | none => simp [held] at k
  | some r => rfl

/-- The turn of each speaker of a component that goes dark ends. -/
theorem Hall.darkened_turns (now : Clock) {h : Hall} (l : h.Listed) {x : FloorId} {c : SecSet} {e : Speaker}
    (m : e ∈ (h.floor x).speakers) (sits : h.sits c e.seat = true) :
    (h.darkened now x c).turns.get e.seat = some (e.ended now x .splitDark) := by
  have closing : e.seat ∈ (h.speakersIn x c).map (·.seat) :=
    List.mem_map_of_mem (List.mem_filter.mpr ⟨m, sits⟩)
  have written := l.closeTurns_writes now .splitDark m closing (held_of_sits sits)
  have gone : ∀ d ∈ ((h.closeTurns now x ((h.speakersIn x c).map (·.seat)) .splitDark).floor x).speakers,
      d.seat ≠ e.seat := fun d md same => by
    rw [(h.closeTurns_lists now x _ _).1] at md
    have out := List.of_mem_filter md
    rw [same] at out
    exact (of_decide_eq_true out) closing
  exact ((LocalTo.removeEntries _ x _ _).still e.seat gone).trans written

theorem partGoneDark (now : Clock) (h : Hall) (x : FloorId) (c : SecSet) (i : Machine.SpeechInv h)
    (unanchored : ∀ z s, (h.floor z).state = .folded x → (h.floor z).sess = some s → c.getLsbD s.anchor.val = false) :
    ∃ t, t = Hall.takePart now x h c ∧ (t.floor x).state = (h.floor x).state ∧
      (t.floor x).members = (h.floor x).members &&& ~~~c ∧
      (t.floor x).speakers.map (·.seat) = ((h.floor x).speakers.map (·.seat)).filter (fun n => !h.sits c n) ∧
      (t.floor x).queue = (h.floor x).queue.filter (fun w => !h.sits c w.seat) ∧
      (t.floor x).holders = (h.floor x).holders.filter (fun n => !h.sits c n) ∧
      (∀ e, e ∈ (h.floor x).speakers → h.sits c e.seat = true → ∃ q, t.seat? e.seat = some q ∧ q.lastTurn =
        some ⟨.splitDark, x, (now - e.start).toNat / 10, e.timer.elim 0 (·.overrun)⟩) ∧
      (∀ z, z ≠ x → t.floor z = h.floor z) ∧ t.channels = h.channels ∧ t.booths = h.booths := by
  obtain ⟨roll, others, turns, sound, -⟩ := h.darken_record now x c
  obtain ⟨-, members, -, -, holders, -, queue, -, -⟩ := Floor.of_roll roll
  obtain ⟨speakers', queue'⟩ := h.darkened_lists now x c
  refine ⟨_, rfl, ?_⟩
  rw [Hall.takePart_dark now unanchored]
  refine ⟨h.darken_state now x c x, members, ?_, queue.trans queue', holders, fun e m sits => ?_, others,
    Hall.channels_of_sound sound, Hall.booths_of_sound sound⟩
  · refine (Floor.seats_of_roll roll).trans ?_
    show ((h.darkened now x c).floor x).speakers.map (·.seat) = _
    rw [speakers', List.filter_map]
    rfl
  · obtain ⟨r, held⟩ := Option.isSome_iff_exists.mp (Hall.held_of_sits sits)
    exact (Steady.darken now h x c).lastTurn held (by rw [turns, Hall.darkened_turns now i.listed m sits]; rfl)

end Sys2Proof

/-! PROOFS. What turns, listen tables and swaps keep of a floor's standing: its state, its sections and its holders. With it the
end of an unfold (08 R154). -/

namespace Sys2Proof

/-! ## Standings -/

/-- A floor's state, its sections and its holders. -/
def Floor.standing (x : Floor) : FloorState × SecSet × SecSet × List SeatId × Bool :=
  (x.state, x.members, x.home, x.holders, x.requestHolds)

theorem Floor.of_standing {a b : Floor} (k : b.standing = a.standing) : b.state = a.state ∧ b.members = a.members ∧
    b.home = a.home ∧ b.holders = a.holders ∧ b.requestHolds = a.requestHolds := by
  simpa only [Floor.standing, Prod.mk.injEq] using k

/-- Every floor keeps its standing. -/
def SameStanding (h g : Hall) : Prop := ∀ f, (g.floor f).standing = (h.floor f).standing

namespace SameStanding

variable {h g : Hall} {x : FloorId}

theorem refl (h : Hall) : SameStanding h h := fun _ => rfl

theorem trans {a b c : Hall} (p : SameStanding a b) (q : SameStanding b c) : SameStanding a c :=
  fun f => (q f).trans (p f)

theorem of_floors (k : g.floors = h.floors) : SameStanding h g := fun f => by rw [Hall.floor_of_floors k]

theorem of_roll (k : SameRoll h g) : SameStanding h g := fun f => by
  obtain ⟨state, members, home, -, holders, requests, -⟩ := Floor.of_roll (k f)
  rw [Floor.standing, Floor.standing, state, members, home, holders, requests]

theorem of_relists (k : Relists x h g) : SameStanding h g := of_roll (.of_relists k)

theorem of_localTo (k : LocalTo x h g) : SameStanding h g := fun f => by
  by_cases e : f = x
  · obtain ⟨s, q, l, record⟩ := k.lists
    rw [e, record]
    rfl
  · rw [k.others f e]

theorem updFloor (h : Hall) (x : FloorId) {k : Floor → Floor} (keep : ∀ f, (k f).standing = f.standing) :
    SameStanding h (h.updFloor x k) := fun f => by
  rw [Hall.floor_updFloor]
  split
  next e => rw [keep, e]
  · rfl

theorem arbitrate (now : Clock) (h : Hall) : SameStanding h (h.arbitrate now) := fun f => by
  obtain ⟨l, q, record, -⟩ := (Handed.arbitrate now h).rest f
  rw [record]
  rfl

end SameStanding

/-! ## Completed swaps -/

/-- The hall of a completed swap before its listen table follows (03 R56 to R58). -/
def Hall.swapped (now : Clock) (h : Hall) (f : FloorId) : Hall :=
  ((((h.updFloor f Floor.flip).closeExcess now f .bankForced).requireBadges now f).trimQueue f .queueTrimmed).remute f

theorem Hall.completeSwap_eq (now : Clock) (h : Hall) (f : FloorId) :
    h.completeSwap now f = (h.swapped now f).swapListen f := rfl

theorem LocalTo.swapped (now : Clock) (h : Hall) (f : FloorId) : LocalTo f (h.updFloor f Floor.flip) (h.swapped now f) :=
  (((LocalTo.closeExcess now _ f _).trans (LocalTo.requireBadges now _ f)).trans (LocalTo.trimQueue _ f _)).trans
    (LocalTo.remute _ f)

theorem SameStanding.swapped (now : Clock) (h : Hall) (f : FloorId) : SameStanding h (h.swapped now f) :=
  (SameStanding.updFloor h f (k := Floor.flip) fun _ => rfl).trans (.of_localTo (.swapped now h f))

theorem SameStanding.completeSwap (now : Clock) (h : Hall) (f : FloorId) : SameStanding h (h.completeSwap now f) :=
  (SameStanding.swapped now h f).trans (.of_relists (Relists.swapListen (h.swapped now f) f))

/-- A completed swap reaches no floor but its own. -/
theorem Hall.completeSwap_others (now : Clock) (h : Hall) {f z : FloorId} (ne : z ≠ f) :
    (h.completeSwap now f).floor z = h.floor z := by
  rw [completeSwap_eq, (Relists.swapListen _ f).others z ne, (LocalTo.swapped now h f).others z ne, floor_updFloor,
    if_neg ne.symm]

/-- With no floor folded into it, a swap leaves a floor's adopted entries. -/
theorem Hall.completeSwap_adopted (now : Clock) {h : Hall} {f : FloorId} (alone : ∀ z, (h.floor z).state ≠ .folded f) :
    ((h.completeSwap now f).floor f).adopted = (h.floor f).adopted := by
  obtain ⟨s, q, l, record⟩ := (LocalTo.swapped now h f).lists
  have kept : ((h.swapped now f).floor f).adopted = (h.floor f).adopted := by
    rw [record, floor_updFloor, if_pos rfl]
    rfl
  have standing := SameStanding.swapped now h f
  have none_ : (h.swapped now f).foldedInto f = [] := List.eq_nil_iff_forall_not_mem.mpr fun z m => by
    obtain ⟨state, -⟩ := Floor.of_standing (standing z)
    exact alone z (state.symm.trans (mem_foldedInto.mp m))
  rw [completeSwap_eq, Hall.swapListen, none_]
  split
  · exact (congrArg Floor.adopted (floor_of_floors (retune_floors _ _) f)).trans kept
  · exact kept

theorem SameStanding.quiet (now : Clock) (h : Hall) (f : FloorId) : SameStanding h (h.quiet now f) := by
  have done := SameStanding.completeSwap now h f
  unfold Hall.quiet
  generalize h.completeSwap now f = g at done ⊢
  split
  · exact done
  · exact .refl h

theorem Hall.quiet_adopted (now : Clock) {h : Hall} {f : FloorId} (alone : ∀ z, (h.floor z).state ≠ .folded f) :
    ((h.quiet now f).floor f).adopted = (h.floor f).adopted := by
  have done := completeSwap_adopted now alone
  unfold Hall.quiet
  generalize h.completeSwap now f = g at done ⊢
  split
  · exact done
  · rfl

theorem Hall.arbitrate_adopted (now : Clock) (h : Hall) (f : FloorId) :
    ((h.arbitrate now).floor f).adopted = (h.floor f).adopted := by
  obtain ⟨l, q, record, -⟩ := (Handed.arbitrate now h).rest f
  rw [record]

theorem Hall.recomposeFloor_floors (h : Hall) (f : FloorId) : (h.recomposeFloor f).floors = h.floors :=
  (recomposeAll_floors _ _).trans (recomposeAll_floors _ _)

/-! ## Home sets reduced (08 R154) -/

/-- A floor's record with the home set that its carrier's members leave it. -/
def Hall.reducedFloor (h : Hall) (z : FloorId) : Floor :=
  match (h.floor z).carrier? with
  | some w => { h.floor z with home := (h.floor z).home &&& (h.floor w).members }
  | none => h.floor z

theorem Floor.carrier?_eq {x : Floor} {w : FloorId} : x.carrier? = some w ↔ x.state = .folded w := by
  unfold Floor.carrier?
  cases x.state <;> simp

namespace Hall

variable {h : Hall} {f z w : FloorId}

theorem reducedFloor_of_folded (folded : (h.floor z).state = .folded w) :
    h.reducedFloor z = { h.floor z with home := (h.floor z).home &&& (h.floor w).members } := by
  simp only [reducedFloor, Floor.carrier?_eq.mpr folded]

theorem reducedFloor_rest (h : Hall) (z : FloorId) : (h.reducedFloor z).state = (h.floor z).state ∧
    (h.reducedFloor z).members = (h.floor z).members := by
  unfold reducedFloor
  split <;> exact ⟨rfl, rfl⟩

theorem reduceHome_floor (h : Hall) (f z : FloorId) :
    (h.reduceHome f).floor z = if f = z then h.reducedFloor z else h.floor z := by
  unfold reduceHome reducedFloor
  split
  next x carrier =>
    simp only []
    split
    next same =>
      split
      next e =>
        subst e
        simp only [carrier, same]
      · rfl
    · rw [floor_of_floors (raise_floors _ _), floor_updFloor]
      split
      next e =>
        subst e
        simp only [carrier]
      · rfl
  next free =>
    split
    next e =>
      subst e
      simp only [free]
    · rfl

theorem reducedFloor_reduceHome (h : Hall) (f z : FloorId) : (h.reduceHome f).reducedFloor z = h.reducedFloor z := by
  have members : ∀ w, ((h.reduceHome f).floor w).members = (h.floor w).members := fun w => by
    rw [reduceHome_floor]
    split
    · exact (h.reducedFloor_rest w).2
    · rfl
  by_cases e : f = z
  · subst e
    have record := h.reduceHome_floor f f
    rw [if_pos rfl] at record
    cases carrier : (h.floor f).carrier? with
    | none =>
      have same : h.reducedFloor f = h.floor f := by simp only [reducedFloor, carrier]
      rw [reducedFloor, record, same]
      simp only [carrier]
    | some w =>
      have same := reducedFloor_of_folded (Floor.carrier?_eq.mp carrier)
      have folded : ((h.reduceHome f).floor f).state = .folded w := by
        rw [record, (h.reducedFloor_rest f).1]
        exact Floor.carrier?_eq.mp carrier
      rw [reducedFloor_of_folded folded, record, same, members]
      simp only [BitVec.and_assoc, BitVec.and_self]
  · have record := h.reduceHome_floor f z
    rw [if_neg e] at record
    unfold reducedFloor
    rw [record]
    simp only [members]

theorem reduceHomes_floor (fs : List FloorId) (h : Hall) (z : FloorId) :
    (fs.foldl reduceHome h).floor z = if z ∈ fs then h.reducedFloor z else h.floor z := by
  induction fs generalizing h with
  | nil => rfl
  | cons f fs ih =>
    rw [List.foldl_cons, ih, reducedFloor_reduceHome, reduceHome_floor]
    by_cases e : f = z
    · simp [e]
    · simp [e, Ne.symm e]

/-- A home set that shrinks is reported. -/
theorem reduceHomes_stands (fs : List FloorId) {h : Hall} (m : z ∈ fs) (folded : (h.floor z).state = .folded w)
    (shrinks : (h.floor z).home &&& (h.floor w).members ≠ (h.floor z).home) :
    (fs.foldl reduceHome h).stands (.foldChanged z) = true := by
  induction fs generalizing h with
  | nil => cases m
  | cons f fs ih =>
    rw [List.foldl_cons]
    by_cases e : f = z
    · subst e
      refine (Steady.foldl Steady.reduceHome fs _).stands ?_
      simp only [reduceHome, Floor.carrier?_eq.mpr folded, if_neg shrinks]
      exact stands_raise _ _
    · have record := h.reduceHome_floor f z
      rw [if_neg e] at record
      have members : ((h.reduceHome f).floor w).members = (h.floor w).members := by
        rw [reduceHome_floor]
        split
        · exact (h.reducedFloor_rest w).2
        · rfl
      refine ih ((List.mem_cons.mp m).resolve_left (Ne.symm e)) ?_ ?_
      · rw [record]
        exact folded
      · rw [record, members]
        exact shrinks

/-- The hall of an unfold's end once the home sets are reduced and the adopted entries made. -/
def unfoldEnded (h : Hall) (x : FloorId) : Hall :=
  let g := (List.finRange 6).foldl reduceHome h
  if (g.foldedInto x).isEmpty then g.endAdopted x else g.adoptionPass x

theorem endUnfold_eq (now : Clock) (h : Hall) (x : FloorId) (spoke : Bool) : h.endUnfold now x spoke =
    ((((if spoke && ((h.unfoldEnded x).floor x).delegates = 0 then (h.unfoldEnded x).quiet now x
      else h.unfoldEnded x).raise (.foldChanged x)).recomposeFloor x).arbitrate now) := rfl

theorem unfoldEnded_standing (h : Hall) (x : FloorId) :
    SameStanding ((List.finRange 6).foldl reduceHome h) (h.unfoldEnded x) := by
  unfold unfoldEnded
  simp only []
  split
  · exact .updFloor _ x fun _ => rfl
  · exact .of_relists (Relists.adoptionPass _ x)

theorem unfoldEnded_steady (h : Hall) (x : FloorId) :
    Steady ((List.finRange 6).foldl reduceHome h) (h.unfoldEnded x) := by
  unfold unfoldEnded
  exact Steady.ite (Steady.endAdopted _ x) (Steady.adoptionPass _ x)

theorem unfoldEnded_adopted {h : Hall} {x : FloorId} (alone : ∀ z, (h.floor z).state ≠ .folded x) :
    ((h.unfoldEnded x).floor x).adopted = none := by
  have none_ : ((List.finRange 6).foldl reduceHome h).foldedInto x = [] :=
    List.eq_nil_iff_forall_not_mem.mpr fun z m => by
      have folded := mem_foldedInto.mp m
      rw [reduceHomes_floor, if_pos (List.mem_finRange z), (h.reducedFloor_rest z).1] at folded
      exact alone z folded
  unfold unfoldEnded
  simp only [none_, List.isEmpty_nil, if_true]
  rw [endAdopted, floor_updFloor, if_pos rfl]

end Hall

theorem unfoldEndReduces (now : Clock) (h : Hall) (x : FloorId) (spoke : Bool) : ∃ t, t = h.endUnfold now x spoke ∧
    t.stands (.foldChanged x) = true ∧
    (∀ z w, (h.floor z).state = .folded w → (t.floor z).state = .folded w ∧
      (t.floor z).home = (h.floor z).home &&& (h.floor w).members ∧
      ((h.floor z).home &&& (h.floor w).members ≠ (h.floor z).home → t.stands (.foldChanged z) = true)) ∧
    ((∀ z, (h.floor z).state ≠ .folded x) → (t.floor x).adopted = none) := by
  refine ⟨_, rfl, ?_⟩
  rw [Hall.endUnfold_eq]
  generalize hq : (if spoke && ((h.unfoldEnded x).floor x).delegates = 0 then (h.unfoldEnded x).quiet now x
    else h.unfoldEnded x) = q
  have quiet : SameStanding (h.unfoldEnded x) q ∧ Steady (h.unfoldEnded x) q := by
    rw [← hq]
    split
    · exact ⟨.quiet now _ x, Steady.quiet now _ x⟩
    · exact ⟨.refl _, .refl _⟩
  have tail : SameStanding q (((q.raise (.foldChanged x)).recomposeFloor x).arbitrate now) :=
    (SameStanding.of_floors (Hall.recomposeFloor_floors (q.raise (.foldChanged x)) x)).trans (.arbitrate now _)
  have steady : Steady q (((q.raise (.foldChanged x)).recomposeFloor x).arbitrate now) :=
    ((Steady.raise _ _).trans (Steady.recomposeFloor _ x)).trans (Steady.arbitrate now _)
  refine ⟨?_, fun z w folded => ?_, fun alone => ?_⟩
  · exact ((Steady.recomposeFloor _ x).trans (Steady.arbitrate now _)).stands (Hall.stands_raise q _)
  · obtain ⟨state, -, home, -⟩ := Floor.of_standing
      ((((h.unfoldEnded_standing x).trans quiet.1).trans tail) z)
    have record := Hall.reduceHomes_floor (List.finRange 6) h z
    rw [if_pos (List.mem_finRange z), Hall.reducedFloor_of_folded folded] at record
    rw [state, home, record]
    exact ⟨folded, rfl, fun shrinks => (((h.unfoldEnded_steady x).trans quiet.2).trans steady).stands
      (Hall.reduceHomes_stands _ (List.mem_finRange z) folded shrinks)⟩
  · have kept : (q.floor x).adopted = none := by
      have ended := Hall.unfoldEnded_adopted alone
      rw [← hq]
      split
      · rw [Hall.quiet_adopted now fun z folded => ?_]
        · exact ended
        · obtain ⟨state, -⟩ := Floor.of_standing (h.unfoldEnded_standing x z)
          rw [state, Hall.reduceHomes_floor, if_pos (List.mem_finRange z), (h.reducedFloor_rest z).1] at folded
          exact alone z folded
      · exact ended
    rw [Hall.arbitrate_adopted]
    exact (congrArg Floor.adopted (Hall.floor_of_floors (Hall.recomposeFloor_floors (q.raise (.foldChanged x)) x) x)).trans
      kept

end Sys2Proof

/-! PROOFS. The records that a fold leaves (08 R139 to R142, R146). -/

namespace Sys2Proof

namespace Hall

variable {h : Hall} {x y : FloorId}

/-! ## The records step by step -/

/-- A floor's record once the entries of a fold have moved (08 R139 to R141). -/
theorem foldEntries_floor (now : Clock) (h : Hall) (ne : x ≠ y) :
    (∃ s q l, (h.foldEntries now x y).floor x = { (h.foldRelation x y (h.foldedInto y)).floor x with
        speakers := s, queue := q, lastRemoval := l }) ∧
      (h.foldEntries now x y).floor y = { (h.foldRelation x y (h.foldedInto y)).floor y with
        speakers := [], queue := [], lastRemoval := none } ∧
      ∀ f, f ≠ x → f ≠ y → (h.foldEntries now x y).floor f = (h.foldRelation x y (h.foldedInto y)).floor f := by
  unfold foldEntries
  generalize h.foldRelation x y (h.foldedInto y) = r
  rw [foldSpeakers_eq]
  obtain ⟨mX, mY, mOthers⟩ := floor_of_upds ne
    (r.carrySpeakers_floors (fun f => { f with speakers := [] }) x y (r.floor y).speakers)
  generalize r.carrySpeakers x y (fun f => { f with speakers := [] }) (r.floor y).speakers = m at mX mY mOthers ⊢
  have locS := (LocalTo.closeExcess now m x .mergeExcess).trans
    (LocalTo.checkBadges now _ x ((r.floor y).speakers.map (·.seat)))
  generalize (m.closeExcess now x .mergeExcess).checkBadges now x ((r.floor y).speakers.map (·.seat)) = s at locS ⊢
  rw [foldQueue_eq]
  obtain ⟨qX, qY, qOthers⟩ := floor_of_upds ne
    (s.carryQueue_floors (fun f => { f with queue := [], lastRemoval := none }) x y (s.floor y).queue)
  generalize s.carryQueue x y (fun f => { f with queue := [], lastRemoval := none }) (s.floor y).queue = q
    at qX qY qOthers ⊢
  have locQ := LocalTo.settleQueue q x ((s.floor y).queue.map (·.seat))
  refine ⟨?_, ?_, fun f nx ny => ?_⟩
  · obtain ⟨s₁, q₁, l₁, record₁⟩ := locS.lists
    obtain ⟨s₂, q₂, l₂, record₂⟩ := locQ.lists
    exact ⟨s₂, q₂, l₂, by rw [record₂, qX, record₁, mX]⟩
  · rw [locQ.others y ne.symm, qY, locS.others y ne.symm, mY]
  · rw [locQ.others f nx, qOthers f nx ny, locS.others f nx, mOthers f nx ny]

/-- The holders of y joined to those of a floor (08 R142). -/
def joinedHolders (h : Hall) (x y : FloorId) : List SeatId :=
  (h.floor y).holders.foldl (fun l n => insertSeat n l) (h.floor x).holders

theorem mem_joinedHolders {n : SeatId} :
    n ∈ h.joinedHolders x y ↔ n ∈ (h.floor x).holders ∨ n ∈ (h.floor y).holders := by
  unfold joinedHolders
  generalize (h.floor x).holders = l
  induction (h.floor y).holders generalizing l with
  | nil => simp
  | cons m ms ih =>
    rw [List.foldl_cons, ih, mem_insertSeat, List.mem_cons]
    tauto

/-- The records once the holders are joined. -/
theorem foldHolders_floor (h : Hall) (ne : x ≠ y) :
    ((h.foldHolders x y).floor x).roll = Floor.roll { h.floor x with
        holders := h.joinedHolders x y, requestHolds := (h.floor x).requestHolds || (h.floor y).requestHolds } ∧
      (h.foldHolders x y).floor y = { h.floor y with holders := [], requestHolds := false } ∧
      ∀ f, f ≠ x → f ≠ y → (h.foldHolders x y).floor f = h.floor f := by
  unfold foldHolders
  simp only []
  generalize hg : (h.updFloor x fun f => { f with
    holders := (h.floor y).holders.foldl (fun l n => insertSeat n l) f.holders
    requestHolds := f.requestHolds || (h.floor y).requestHolds }).updFloor y (fun f => { f with
      holders := [], requestHolds := false }) = g
  have loc := LocalTo.remute g x
  refine ⟨?_, ?_, fun f nx ny => ?_⟩
  · rw [SameRoll.remute g x x, ← hg, floor_updFloor, if_neg ne.symm, floor_updFloor, if_pos rfl]
    rfl
  · rw [loc.others y ne.symm, ← hg, floor_updFloor, if_pos rfl, floor_updFloor, if_neg ne]
  · rw [loc.others f nx, ← hg, floor_updFloor, if_neg ny.symm, floor_updFloor, if_neg nx.symm]

/-- The hall of a fold once the channels and outputs have followed (08 R143, R144). -/
def foldCarried (now : Clock) (h : Hall) (x y : FloorId) : Hall :=
  ((h.foldMoved now x y).foldOriginals x y (h.foldedInto y)).foldOutputs x (y :: h.foldedInto y)

theorem foldInto_carried (now : Clock) (h : Hall) (x y : FloorId) : h.foldInto now x y =
    ((((((h.foldCarried now x y).adoptionPass x).settleSwap now y).raiseFold (x :: y :: h.foldedInto y)).recomposeFloor
      x).arbitrate now) := rfl

theorem foldCarried_speechless (now : Clock) (h : Hall) (x y : FloorId) :
    Speechless (h.foldMoved now x y) (h.foldCarried now x y) :=
  (Speechless.foldOriginals _ x y _).trans (Speechless.foldOutputs _ x _)

/-- The records once the holders have moved. -/
theorem foldMoved_floor (now : Clock) (ne : x ≠ y) (liveX : (h.floor x).state = .live) (liveY : (h.floor y).state = .live) :
    ((h.foldMoved now x y).floor x).standing = (.live, (h.floor x).members ||| (h.floor y).members, (h.floor x).home,
        h.joinedHolders x y, (h.floor x).requestHolds || (h.floor y).requestHolds) ∧
      (h.foldMoved now x y).floor y = { (h.floor y).dropAdopted (fun _ => true) with
        state := .folded x, home := (h.floor y).members, members := 0#12, adopted := none, speakers := [], queue := [],
        lastRemoval := none, holders := [], requestHolds := false } ∧
      ∀ f, f ≠ x → f ≠ y → (h.foldMoved now x y).floor f =
        if f ∈ h.foldedInto y then { h.floor f with state := .folded x } else h.floor f := by
  obtain ⟨relX, relY, relOthers⟩ := foldRelation_floor (h := h) ne (live_not_folded (y := y) liveX) (live_not_folded liveY)
  obtain ⟨⟨s, q, l, entX⟩, entY, entOthers⟩ := h.foldEntries_floor now ne
  obtain ⟨rollX, holdY, holdOthers⟩ := (h.foldEntries now x y).foldHolders_floor ne
  have dropped : ((h.floor y).dropAdopted fun _ => true).holders = (h.floor y).holders ∧
      ((h.floor y).dropAdopted fun _ => true).requestHolds = (h.floor y).requestHolds := by
    rw [(Relisted.dropAdopted (h.floor y) fun _ => true).rest]
    exact ⟨rfl, rfl⟩
  refine ⟨?_, ?_, fun f nx ny => ?_⟩
  · obtain ⟨state, members, home, -, holders, requests, -⟩ := Floor.of_roll rollX
    unfold foldMoved
    rw [Floor.standing, state, members, home, holders, requests]
    simp only [joinedHolders, entX, entY, relX, relY, liveX, dropped]
  · unfold foldMoved
    rw [holdY, entY, relY]
  · unfold foldMoved
    rw [holdOthers f nx ny, entOthers f nx ny, relOthers f nx ny]

/-! ## What a swap leaves of an empty floor -/

/-- A floor whose lists are empty has nothing to close in a swap. -/
theorem completeSwap_empty (now : Clock) {h : Hall} {f : FloorId} (silent : (h.floor f).speakers = [])
    (idle : (h.floor f).queue = []) :
    ((h.completeSwap now f).floor f).speakers = [] ∧ ((h.completeSwap now f).floor f).queue = [] := by
  have noneLeft : ∀ {l : List Speaker}, (∀ e ∈ l, ∃ d ∈ (h.floor f).speakers, d.seat = e.seat) → l = [] := fun k =>
    List.eq_nil_iff_forall_not_mem.mpr fun e m => by
      obtain ⟨d, md, -⟩ := k e m
      rw [silent] at md
      cases md
  have flip : ((h.updFloor f Floor.flip).floor f).speakers = [] ∧ ((h.updFloor f Floor.flip).floor f).queue = [] := by
    rw [floor_updFloor, if_pos rfl]
    exact ⟨silent, idle⟩
  have excess : (h.updFloor f Floor.flip).closeExcess now f .bankForced = h.updFloor f Floor.flip :=
    closeExcess_none now .bankForced (by rw [Floor.delegates, flip.1]; exact Nat.zero_le _)
  have badges : (((h.updFloor f Floor.flip).requireBadges now f).floor f).queue = [] := by
    unfold requireBadges
    split
    · rw [(removeEntries_lists _ f _ _).2, (closeTurns_lists now _ f _ _).2, flip.2]
      rfl
    · exact flip.2
  have queue : ((h.swapped now f).floor f).queue = [] := by
    rw [swapped, remute_queue, excess, trimQueue, (removeEntries_lists _ f _ _).2, badges]
    rfl
  have relists := Relists.swapListen (h.swapped now f) f
  have lists : ∀ {a b : Floor}, Relisted a b → b.speakers = a.speakers ∧ b.queue = a.queue := fun k => by
    rw [k.rest]
    exact ⟨rfl, rfl⟩
  obtain ⟨speakers', queue'⟩ := lists relists.record
  rw [completeSwap_eq, speakers', queue', queue]
  refine ⟨noneLeft fun e m => ?_, rfl⟩
  obtain ⟨d, md, -⟩ := (LocalTo.swapped now h f).fewer e m
  rw [flip.1] at md
  cases md

/-! ## The swap of the folded floor (08 R146) -/

theorem settleSwap_others (now : Clock) (h : Hall) {z : FloorId} (ne : z ≠ y) :
    (h.settleSwap now y).floor z = h.floor z := by
  have swapped := h.completeSwap_others now ne
  unfold settleSwap
  generalize h.completeSwap now y = g at swapped ⊢
  split
  · exact swapped
  · rfl

theorem settleSwap_standing (now : Clock) (h : Hall) (y : FloorId) : SameStanding h (h.settleSwap now y) := by
  have swapped := SameStanding.completeSwap now h y
  unfold settleSwap
  generalize h.completeSwap now y = g at swapped ⊢
  split
  · exact swapped
  · exact .refl h

theorem completeSwap_flips (now : Clock) (h : Hall) (f : FloorId) :
    ((h.completeSwap now f).floor f).swapPending = false ∧
      ((h.completeSwap now f).floor f).sess.map (·.current) = (h.floor f).sess.map fun s => s.current.other := by
  obtain ⟨-, current, pending⟩ := swaps_floor (Swaps.completeSwap now h f) f
  rw [current, pending, floor_updFloor, if_pos rfl]
  refine ⟨rfl, ?_⟩
  simp only [Floor.flip, Option.map_map]
  rfl

theorem settleSwap_flips (now : Clock) (h : Hall) (y : FloorId) :
    ((h.settleSwap now y).floor y).swapPending = false ∧ ((h.floor y).swapPending = true →
      (h.settleSwap now y).stands (.swapDone y) = true ∧
      ((h.settleSwap now y).floor y).sess.map (·.current) = (h.floor y).sess.map fun s => s.current.other) := by
  obtain ⟨pending, current⟩ := h.completeSwap_flips now y
  unfold settleSwap
  generalize h.completeSwap now y = g at pending current ⊢
  split
  · exact ⟨pending, fun _ => ⟨stands_raise g _, current⟩⟩
  next still => exact ⟨Bool.eq_false_iff.mpr still, fun due => absurd due still⟩

theorem settleSwap_empty (now : Clock) {h : Hall} (silent : (h.floor y).speakers = []) (idle : (h.floor y).queue = []) :
    ((h.settleSwap now y).floor y).speakers = [] ∧ ((h.settleSwap now y).floor y).queue = [] := by
  have swapped := completeSwap_empty now silent idle
  unfold settleSwap
  generalize h.completeSwap now y = g at swapped ⊢
  split
  · exact swapped
  · exact ⟨silent, idle⟩

theorem settleSwap_adopted (now : Clock) {h : Hall} (alone : ∀ z, (h.floor z).state ≠ .folded y) :
    ((h.settleSwap now y).floor y).adopted = (h.floor y).adopted := by
  have swapped := completeSwap_adopted now alone
  unfold settleSwap
  generalize h.completeSwap now y = g at swapped ⊢
  split
  · exact swapped
  · rfl

/-! ## The end of a fold -/

/-- The hall of a fold once the listen table and the swap are settled (08 R145, R146). -/
def foldSettled (now : Clock) (h : Hall) (x y : FloorId) : Hall :=
  ((h.foldCarried now x y).adoptionPass x).settleSwap now y

theorem foldInto_settled (now : Clock) (h : Hall) (x y : FloorId) : h.foldInto now x y =
    ((((h.foldSettled now x y).raiseFold (x :: y :: h.foldedInto y)).recomposeFloor x).arbitrate now) := rfl

theorem foldSettled_standing (now : Clock) (h : Hall) (x y : FloorId) :
    SameStanding (h.foldMoved now x y) (h.foldSettled now x y) :=
  ((SameStanding.of_floors (floors_of_talk (h.foldCarried_speechless now x y).talk)).trans
    (.of_relists (Relists.adoptionPass _ x))).trans (settleSwap_standing now _ y)

theorem raiseFold_floors (h : Hall) (fs : List FloorId) : (h.raiseFold fs).floors = h.floors :=
  floors_of_talk (Speechless.raiseFold h fs).talk

/-- What the end of a fold writes of the records: the arbiter's run. -/
theorem foldInto_floors (now : Clock) (h : Hall) (x y : FloorId) :
    SameStanding (h.foldSettled now x y) (h.foldInto now x y) ∧ ∀ f, ((h.foldSettled now x y).floor f).queue = [] →
      (h.foldInto now x y).floor f = (h.foldSettled now x y).floor f := by
  rw [foldInto_settled]
  generalize h.foldSettled now x y = s
  have floors : ((s.raiseFold (x :: y :: h.foldedInto y)).recomposeFloor x).floors = s.floors :=
    (recomposeFloor_floors _ x).trans (raiseFold_floors s _)
  refine ⟨(SameStanding.of_floors floors).trans (.arbitrate now _), fun f idle => ?_⟩
  rw [arbitrate_floor now (Floor.waits_of_empty (by rw [floor_of_floors floors]; exact idle)), floor_of_floors floors]

/-- FOLD_CHANGED of each floor that a fold names. -/
theorem raiseFold_stands (h : Hall) {fs : List FloorId} {f : FloorId} (m : f ∈ fs) :
    (h.raiseFold fs).stands (.foldChanged f) = true := by
  induction fs generalizing h with
  | nil => cases m
  | cons z fs ih =>
    obtain rfl | m := List.mem_cons.mp m
    · exact (Steady.raiseFold _ fs).stands (stands_raise h _)
    · exact ih _ m

theorem foldInto_stands (now : Clock) (h : Hall) {f : FloorId} (m : f = x ∨ f = y ∨ (h.floor f).state = .folded y) :
    (h.foldInto now x y).stands (.foldChanged f) = true := by
  rw [foldInto_settled]
  exact ((Steady.recomposeFloor _ x).trans (Steady.arbitrate now _)).stands
    (raiseFold_stands _ (by simpa only [List.mem_cons, mem_foldedInto] using m))

end Hall

/-- The record of the folded floor (08 R139 to R142, R146). -/
theorem Hall.foldInto_folded (now : Clock) {h : Hall} {x y : FloorId} (ne : x ≠ y) (liveX : (h.floor x).state = .live)
    (liveY : (h.floor y).state = .live) :
    ((h.foldInto now x y).floor y).speakers = [] ∧ ((h.foldInto now x y).floor y).queue = [] ∧
      ((h.foldInto now x y).floor y).swapPending = false ∧ ((h.foldInto now x y).floor y).adopted = none ∧
      ((h.floor y).swapPending = true → (h.foldInto now x y).stands (.swapDone y) = true ∧
        ((h.foldInto now x y).floor y).sess.map (·.current) = (h.floor y).sess.map fun s => s.current.other) := by
  obtain ⟨movedX, movedY, movedOthers⟩ := foldMoved_floor now ne liveX liveY
  have base : ((h.foldCarried now x y).adoptionPass x).floor y = (h.foldMoved now x y).floor y := by
    rw [(Relists.adoptionPass _ x).others y ne.symm, (h.foldCarried_speechless now x y).floor]
  have alone : ∀ z, (((h.foldCarried now x y).adoptionPass x).floor z).state ≠ .folded y := fun z folded => by
    obtain ⟨state, -⟩ := Floor.of_standing (((SameStanding.of_floors (floors_of_talk
      (h.foldCarried_speechless now x y).talk)).trans (.of_relists (Relists.adoptionPass _ x))) z)
    rw [state] at folded
    by_cases ex : z = x
    · subst ex
      obtain ⟨live, -⟩ := Prod.mk.inj movedX
      rw [live] at folded
      cases folded
    · by_cases ey : z = y
      · subst ey
        rw [movedY] at folded
        exact ne (FloorState.folded.inj folded)
      · rw [movedOthers z ex ey] at folded
        split at folded
        · exact ne (FloorState.folded.inj folded)
        next out => exact out (mem_foldedInto.mpr folded)
  have dropped := Relisted.dropAdopted (h.floor y) fun _ => true
  have pending : (((h.foldCarried now x y).adoptionPass x).floor y).swapPending = (h.floor y).swapPending := by
    rw [base, movedY, dropped.rest]
  have current : (((h.foldCarried now x y).adoptionPass x).floor y).sess.map (fun s => s.current.other) =
      (h.floor y).sess.map fun s => s.current.other := by
    have bare := congrArg (Option.map fun s : Session => s.current.other) dropped.sess
    rw [Option.map_map, Option.map_map] at bare
    rw [base, movedY]
    exact bare
  obtain ⟨speakers, queue⟩ := settleSwap_empty now (h := (h.foldCarried now x y).adoptionPass x) (y := y)
    (by rw [base, movedY]) (by rw [base, movedY])
  obtain ⟨unswapped, flips⟩ := ((h.foldCarried now x y).adoptionPass x).settleSwap_flips now y
  have adopted := settleSwap_adopted now alone
  rw [base, movedY] at adopted
  have tail := (h.foldInto_floors now x y).2 y queue
  have steady : Steady (h.foldSettled now x y) (h.foldInto now x y) :=
    ((Steady.raiseFold _ _).trans (Steady.recomposeFloor _ x)).trans (Steady.arbitrate now _)
  rw [tail]
  refine ⟨speakers, queue, unswapped, adopted, fun due => ?_⟩
  obtain ⟨done, flipped⟩ := flips (pending.trans due)
  exact ⟨steady.stands done, flipped.trans current⟩

theorem foldRecords (now : Clock) (h : Hall) (x y : FloorId) (ne : x ≠ y) (liveX : (h.floor x).state = .live)
    (liveY : (h.floor y).state = .live) :
    ∃ t, t = h.foldInto now x y ∧ (t.floor x).state = .live ∧
      (t.floor x).members = (h.floor x).members ||| (h.floor y).members ∧
      (t.floor y).state = .folded x ∧ (t.floor y).home = (h.floor y).members ∧ (t.floor y).members = 0#12 ∧
      (t.floor y).speakers = [] ∧ (t.floor y).queue = [] ∧ (t.floor y).holders = [] ∧
      (t.floor y).requestHolds = false ∧ (t.floor y).swapPending = false ∧ (t.floor y).adopted = none ∧
      ((h.floor y).swapPending = true → t.stands (.swapDone y) = true ∧
        (t.floor y).sess.map (·.current) = (h.floor y).sess.map fun s => s.current.other) ∧
      (∀ z, (h.floor z).state = .folded y →
        (t.floor z).state = .folded x ∧ (t.floor z).home = (h.floor z).home ∧ t.stands (.foldChanged z) = true) ∧
      (∀ z, z ≠ x → z ≠ y → (h.floor z).state ≠ .folded y →
        (t.floor z).state = (h.floor z).state ∧ (t.floor z).members = (h.floor z).members) ∧
      (∀ n, n ∈ (t.floor x).holders ↔ n ∈ (h.floor x).holders ∨ n ∈ (h.floor y).holders) ∧
      (t.floor x).requestHolds = ((h.floor x).requestHolds || (h.floor y).requestHolds) ∧
      t.stands (.foldChanged x) = true ∧ t.stands (.foldChanged y) = true := by
  obtain ⟨movedX, movedY, movedOthers⟩ := Hall.foldMoved_floor now ne liveX liveY
  obtain ⟨speakers, queue, unswapped, adopted, flips⟩ := Hall.foldInto_folded now ne liveX liveY
  have standing : ∀ f, ((h.foldInto now x y).floor f).standing = ((h.foldMoved now x y).floor f).standing :=
    (h.foldSettled_standing now x y).trans (h.foldInto_floors now x y).1
  obtain ⟨stateX, membersX, -, holdersX, requestsX⟩ := Floor.of_standing (standing x)
  obtain ⟨stateY, membersY, homeY, holdersY, requestsY⟩ := Floor.of_standing (standing y)
  rw [movedY] at stateY membersY homeY holdersY requestsY
  simp only [Floor.standing, Prod.mk.injEq] at movedX
  obtain ⟨stateM, membersM, -, holdersM, requestsM⟩ := movedX
  refine ⟨_, rfl, stateX.trans stateM, membersX.trans membersM, stateY, homeY, membersY, speakers, queue, holdersY,
    requestsY, unswapped, adopted, flips, fun z carried => ?_, fun z nx ny free => ?_, fun n => ?_,
    requestsX.trans requestsM, h.foldInto_stands now (.inl rfl), h.foldInto_stands now (.inr (.inl rfl))⟩
  · have nx : z ≠ x := by rintro rfl; rw [liveX] at carried; cases carried
    have ny : z ≠ y := by rintro rfl; rw [liveY] at carried; cases carried
    obtain ⟨state, -, home, -⟩ := Floor.of_standing (standing z)
    rw [movedOthers z nx ny, if_pos (Hall.mem_foldedInto.mpr carried)] at state home
    exact ⟨state, home, h.foldInto_stands now (.inr (.inr carried))⟩
  · obtain ⟨state, members, -⟩ := Floor.of_standing (standing z)
    rw [movedOthers z nx ny, if_neg fun m => free (Hall.mem_foldedInto.mp m)] at state members
    exact ⟨state, members⟩
  · rw [holdersX, holdersM, Hall.mem_joinedHolders]

end Sys2Proof

/-! PROOFS. The speakers and the queue that a fold moves (08 R140, R141). -/

namespace Sys2Proof

namespace Hall

variable {h : Hall} {x y : FloorId}

/-! ## The hall step by step -/

/-- The hall of a fold once y's speakers have joined those of x (08 R140). -/
def foldJoined (h : Hall) (x y : FloorId) : Hall :=
  (h.foldRelation x y (h.foldedInto y)).carrySpeakers x y (fun f => { f with speakers := [] })
    ((h.foldRelation x y (h.foldedInto y)).floor y).speakers

/-- The hall of a fold once the excess is closed and the badges are checked. -/
def foldSpoken (now : Clock) (h : Hall) (x y : FloorId) : Hall :=
  ((h.foldJoined x y).closeExcess now x .mergeExcess).checkBadges now x ((h.floor y).speakers.map (·.seat))

/-- The hall of a fold once y's queue has joined that of x (08 R141). -/
def foldQueued (now : Clock) (h : Hall) (x y : FloorId) : Hall :=
  (h.foldSpoken now x y).carryQueue x y (fun f => { f with queue := [], lastRemoval := none })
    ((h.foldSpoken now x y).floor y).queue

theorem foldJoined_floor (ne : x ≠ y) (liveX : (h.floor x).state = .live) (liveY : (h.floor y).state = .live) :
    ((h.foldJoined x y).floor x).speakers = (h.floor x).speakers ++ (h.floor y).speakers ∧
      ((h.foldJoined x y).floor x).queue = (h.floor x).queue ∧ ((h.foldJoined x y).floor x).bank = (h.floor x).bank ∧
      ((h.foldJoined x y).floor y).queue = (h.floor y).queue := by
  obtain ⟨relX, -, -⟩ := foldRelation_floor (h := h) ne (live_not_folded (y := y) liveX) (live_not_folded liveY)
  obtain ⟨speakersY, queueY⟩ := foldRelation_lists ne liveX liveY y
  obtain ⟨mX, mY, -⟩ := floor_of_upds ne ((h.foldRelation x y (h.foldedInto y)).carrySpeakers_floors
    (fun f => { f with speakers := [] }) x y ((h.foldRelation x y (h.foldedInto y)).floor y).speakers)
  unfold foldJoined
  rw [mX, mY, speakersY, queueY, relX]
  exact ⟨rfl, rfl, rfl, rfl⟩

theorem foldEntries_eq (now : Clock) (ne : x ≠ y) (liveX : (h.floor x).state = .live)
    (liveY : (h.floor y).state = .live) :
    h.foldEntries now x y = (h.foldQueued now x y).settleQueue x ((h.floor y).queue.map (·.seat)) := by
  obtain ⟨speakersY, -⟩ := foldRelation_lists ne liveX liveY y
  have spoken : (h.foldRelation x y (h.foldedInto y)).foldSpeakers now x y = h.foldSpoken now x y := by
    rw [foldSpeakers_eq, speakersY, foldSpoken, foldJoined, speakersY]
  have loc := (LocalTo.closeExcess now (h.foldJoined x y) x .mergeExcess).trans
    (LocalTo.checkBadges now _ x ((h.floor y).speakers.map (·.seat)))
  have queueY : ((h.foldSpoken now x y).floor y).queue = (h.floor y).queue := by
    rw [foldSpoken, loc.others y ne.symm, (foldJoined_floor ne liveX liveY).2.2.2]
  rw [foldEntries, spoken, foldQueue_eq, queueY, foldQueued, queueY]

theorem foldSpoken_local (now : Clock) (h : Hall) (x y : FloorId) : LocalTo x (h.foldJoined x y) (h.foldSpoken now x y) :=
  (LocalTo.closeExcess now _ x _).trans (LocalTo.checkBadges now _ x _)

theorem foldQueued_floor (now : Clock) (ne : x ≠ y) (liveX : (h.floor x).state = .live)
    (liveY : (h.floor y).state = .live) :
    ((h.foldQueued now x y).floor x).speakers = ((h.foldSpoken now x y).floor x).speakers ∧
      ((h.foldQueued now x y).floor x).queue = ((h.foldSpoken now x y).floor x).queue ++ (h.floor y).queue ∧
      ((h.foldQueued now x y).floor x).bank = (h.floor x).bank := by
  obtain ⟨-, -, bank, queueY⟩ := foldJoined_floor ne liveX liveY
  have loc := h.foldSpoken_local now x y
  have queue : ((h.foldSpoken now x y).floor y).queue = (h.floor y).queue := by rw [loc.others y ne.symm, queueY]
  have bank' := (loc.bank x).trans bank
  unfold foldQueued
  generalize h.foldSpoken now x y = s at queue bank' ⊢
  obtain ⟨qX, -, -⟩ := floor_of_upds ne (s.carryQueue_floors
    (fun f => { f with queue := [], lastRemoval := none }) x y (s.floor y).queue)
  rw [qX, queue]
  exact ⟨rfl, rfl, bank'⟩

theorem foldJoined_listed (l : h.Listed) (ne : x ≠ y) (liveX : (h.floor x).state = .live)
    (liveY : (h.floor y).state = .live) : (h.foldJoined x y).Listed := by
  have lists := foldRelation_lists ne liveX liveY
  have rel : (h.foldRelation x y (h.foldedInto y)).Listed :=
    l.of_records (foldRelation_slots x y _) (fun f => (lists f).1) fun f => (lists f).2
  have moved := rel.carrySpeakers ne (k := fun f => { f with speakers := [] }) (fun _ => true) (by simp) rfl
  rwa [List.filter_true] at moved

theorem foldQueued_listed (l : h.Listed) (now : Clock) (ne : x ≠ y) (liveX : (h.floor x).state = .live)
    (liveY : (h.floor y).state = .live) : (h.foldQueued now x y).Listed := by
  have joined := foldJoined_listed l ne liveX liveY
  have spoken : (h.foldSpoken now x y).Listed := by
    unfold foldSpoken
    generalize h.foldJoined x y = m at joined ⊢
    obtain ⟨spoken, -⟩ := Listed.absorbed joined now x .mergeExcess ((h.floor y).speakers.map (·.seat))
    exact spoken
  unfold foldQueued
  generalize h.foldSpoken now x y = s at spoken ⊢
  have moved := spoken.carryQueue ne (k := fun f => { f with queue := [], lastRemoval := none }) (fun _ => true)
    (by simp) rfl
  rwa [List.filter_true] at moved

theorem foldJoined_steady (h : Hall) (x y : FloorId) : Steady h (h.foldJoined x y) := by
  have relation := Steady.foldRelation h x y (h.foldedInto y)
  unfold foldJoined
  generalize h.foldRelation x y (h.foldedInto y) = r at relation ⊢
  exact (((relation.trans (Steady.updFloor r y _)).trans (Steady.raiseIf _ _ _)).trans
    ((Steady.updFloor _ x _).trans (Steady.moveSlots _ x _))).trans (Steady.raiseIf _ _ _)

theorem foldSpoken_steady (now : Clock) (h : Hall) (x y : FloorId) :
    Steady (h.foldJoined x y) (h.foldSpoken now x y) := by
  unfold foldSpoken
  generalize h.foldJoined x y = m
  refine (Steady.closeExcess now m x .mergeExcess).trans ?_
  generalize m.closeExcess now x .mergeExcess = e
  unfold checkBadges
  exact Steady.ite ((Steady.closeTurns now e x _ _).trans (Steady.removeEntries _ x _ _)) (.refl e)

theorem foldQueued_steady (now : Clock) (h : Hall) (x y : FloorId) :
    Steady (h.foldSpoken now x y) (h.foldQueued now x y) := by
  unfold foldQueued
  generalize h.foldSpoken now x y = s
  exact (((Steady.updFloor s y _).trans (Steady.raiseIf _ _ _)).trans (Steady.updFloor _ x _)).trans (Steady.raiseIf _ _ _)

theorem foldBadges (now : Clock) (h : Hall) (x y : FloorId) (n : SeatId) :
    (h.foldQueued now x y).badged n = h.badged n :=
  (((h.foldJoined_steady x y).trans (h.foldSpoken_steady now x y)).trans (h.foldQueued_steady now x y)).badged n

/-! ## No excess and no badges required -/

theorem closeAndCheck_none (now : Clock) {g : Hall} {x : FloorId} (c : TurnCause) (ns : List SeatId)
    (room : (g.floor x).delegates ≤ (g.floor x).bank.limit) (open_ : (g.floor x).bank.badgeRequired = false) :
    (g.closeExcess now x c).checkBadges now x ns = g := by
  rw [closeExcess_none now c room, checkBadges, open_]
  rfl

/-- What the trim of a queue takes last is the entry just beyond the cap (08 R141). -/
theorem trimQueue_lastRemoval {g : Hall} {x : FloorId} (c : RemovalCause) {w : Waiting}
    (beyond : ((g.floor x).queue.drop (g.floor x).bank.cap).head? = some w) :
    ((g.trimQueue x c).floor x).lastRemoval = some (w.seat, c) :=
  g.removeEntries_lastRemoval x _ c (by rw [List.getLast?_map, List.getLast?_reverse, beyond, Option.map_some])

/-- A fold without an excess and without a badge check: all speakers stand in x's list, the queue is trimmed to its cap. -/
theorem foldEntries_whole (now : Clock) (l : h.Listed) (ne : x ≠ y) (liveX : (h.floor x).state = .live)
    (liveY : (h.floor y).state = .live)
    (room : (((h.floor x).speakers ++ (h.floor y).speakers).filter fun e => e.kind = .delegate).length ≤
      (h.floor x).bank.limit) (open_ : (h.floor x).bank.badgeRequired = false) :
    ((h.foldEntries now x y).floor x).speakers = (h.floor x).speakers ++ (h.floor y).speakers ∧
      ((h.foldEntries now x y).floor x).queue =
        ((h.floor x).queue ++ (h.floor y).queue).take (h.floor x).bank.cap ∧
      ∀ w, (((h.floor x).queue ++ (h.floor y).queue).drop (h.floor x).bank.cap).head? = some w →
        ((h.foldEntries now x y).floor x).lastRemoval = some (w.seat, .mergeOverflow) := by
  obtain ⟨speakers, queue, bank, -⟩ := foldJoined_floor ne liveX liveY
  have spoken : h.foldSpoken now x y = h.foldJoined x y :=
    closeAndCheck_none now _ _ (by rw [Floor.delegates, speakers, bank, List.countP_eq_length_filter]; exact room)
      (by rw [bank]; exact open_)
  obtain ⟨speakersQ, queueQ, bankQ⟩ := foldQueued_floor now ne liveX liveY
  have listed := foldQueued_listed l now ne liveX liveY
  rw [spoken, speakers] at speakersQ
  rw [spoken, queue] at queueQ
  rw [foldEntries_eq now ne liveX liveY]
  generalize h.foldQueued now x y = q at speakersQ queueQ bankQ listed ⊢
  have trim : q.settleQueue x ((h.floor y).queue.map (·.seat)) = q.trimQueue x .mergeOverflow := by
    rw [settleQueue, bankQ, open_]
    rfl
  obtain ⟨speakersT, queueT⟩ := listed.trimQueue_lists x .mergeOverflow
  rw [trim, speakersT, queueT, speakersQ, queueQ, bankQ]
  exact ⟨rfl, rfl, fun w beyond => trimQueue_lastRemoval _ (by rw [queueQ, bankQ]; exact beyond)⟩

/-! ## The excess closed -/

theorem foldJoined_excess {e : Speaker} (ne : x ≠ y) (liveX : (h.floor x).state = .live) (liveY : (h.floor y).state = .live)
    (beyond : e ∈ (((h.floor x).speakers ++ (h.floor y).speakers).filter fun e => e.kind = .delegate).drop
      (h.floor x).bank.limit) : e ∈ ((h.foldJoined x y).floor x).excess := by
  obtain ⟨speakers, -, bank, -⟩ := foldJoined_floor ne liveX liveY
  rw [Floor.excess, List.mem_reverse, speakers, bank]
  exact beyond

/-- The speakers closed as an excess do not speak afterwards. -/
theorem closeExcess_gone (now : Clock) {g : Hall} (l : g.Listed) {x : FloorId} (c : TurnCause) {e : Speaker}
    (beyond : e ∈ (g.floor x).excess) : ∀ d ∈ ((g.closeExcess now x c).floor x).speakers, d.seat ≠ e.seat := by
  obtain ⟨-, speakers, -⟩ := l.closeExcess_fold now c (fun e m => Floor.mem_excess m) (l.excess_nodup x)
  intro d m
  have m : d ∈ (g.floor x).speakers.filter fun y => y.seat ∉ (g.floor x).excess.map (·.seat) := speakers ▸ m
  have out := of_decide_eq_true (List.mem_filter.mp m).2
  exact fun same => out (List.mem_map.mpr ⟨e, beyond, same.symm⟩)

/-- The turn of each delegate beyond the limit, once the entries have moved (08 R140). -/
theorem foldEntries_turn (now : Clock) (l : h.Listed) (ne : x ≠ y) (liveX : (h.floor x).state = .live)
    (liveY : (h.floor y).state = .live) {e : Speaker} (held : (h.seat? e.seat).isSome = true)
    (beyond : e ∈ (((h.floor x).speakers ++ (h.floor y).speakers).filter fun e => e.kind = .delegate).drop
      (h.floor x).bank.limit) :
    (h.foldEntries now x y).turns.get e.seat = some (e.ended now x .mergeExcess) := by
  have listed := foldJoined_listed l ne liveX liveY
  have excess := foldJoined_excess ne liveX liveY beyond
  obtain ⟨-, -, written⟩ := listed.closeExcess now x .mergeExcess
  have written := written e excess ((h.foldJoined_steady x y).isSome held)
  have gone := closeExcess_gone now listed .mergeExcess excess
  have check := LocalTo.checkBadges now ((h.foldJoined x y).closeExcess now x .mergeExcess) x
    ((h.floor y).speakers.map (·.seat))
  have spoken : (h.foldSpoken now x y).turns.get e.seat = some (e.ended now x .mergeExcess) :=
    (check.still e.seat gone).trans written
  have silent : ∀ d ∈ ((h.foldSpoken now x y).floor x).speakers, d.seat ≠ e.seat := fun d m same => by
    obtain ⟨d', m', same'⟩ := check.fewer d m
    exact gone d' m' (same'.trans same)
  have turns : (h.foldQueued now x y).turns = (h.foldSpoken now x y).turns :=
    (carryQueue_moves (h.foldSpoken now x y) _ ne _).turns
  obtain ⟨speakers, -, -⟩ := foldQueued_floor now ne liveX liveY
  rw [foldEntries_eq now ne liveX liveY, (LocalTo.settleQueue _ x _).still e.seat (by rw [speakers]; exact silent), turns,
    spoken]

/-! ## Badges -/

theorem checkBadges_gone (now : Clock) {g : Hall} {x : FloorId} {ns : List SeatId} {n : SeatId}
    (required : (g.floor x).bank.badgeRequired = true) (m : n ∈ ns) (bare : g.badged n = false) :
    n ∉ ((g.checkBadges now x ns).floor x).seats := by
  unfold checkBadges
  rw [if_pos required]
  simp only []
  have steady := Steady.closeTurns now g x
    (g.unbadged (((g.floor x).speakers.map (·.seat)).filter fun n => ns.contains n)) .noBadge
  obtain ⟨speakers, -⟩ := g.closeTurns_lists now x
    (g.unbadged (((g.floor x).speakers.map (·.seat)).filter fun n => ns.contains n)) .noBadge
  generalize g.closeTurns now x (g.unbadged (((g.floor x).speakers.map (·.seat)).filter fun n => ns.contains n))
    .noBadge = k at steady speakers ⊢
  obtain ⟨speakers', queue'⟩ := k.removeEntries_lists x
    (k.unbadged (((k.floor x).queue.map (·.seat)).filter fun n => ns.contains n)) .noBadge
  have check : ∀ (a : Hall) (l : List SeatId), a.badged n = false → n ∈ l →
      n ∈ a.unbadged (l.filter fun n => ns.contains n) := fun a l bare ml => by
    simp [unbadged, ml, m, bare]
  rw [Floor.seats, speakers', queue', speakers, List.mem_append]
  rintro (mem | mem)
  · obtain ⟨e, me, rfl⟩ := List.mem_map.mp mem
    obtain ⟨me, out⟩ := List.mem_filter.mp me
    exact (of_decide_eq_true out) (check g _ bare (List.mem_map_of_mem me))
  · obtain ⟨w, mw, rfl⟩ := List.mem_map.mp mem
    obtain ⟨mw, out⟩ := List.mem_filter.mp mw
    exact (of_decide_eq_true out) (check k _ (by rw [steady.badged]; exact bare) (List.mem_map_of_mem mw))

theorem within_settleQueue (g : Hall) (x : FloorId) (ns : List SeatId) : Within g (g.settleQueue x ns) := by
  have removed : Within g (g.removeEntries x (g.unbadged ns) .noBadge) := by
    obtain ⟨speakers, queue⟩ := g.removeEntries_lists x (g.unbadged ns) .noBadge
    exact .of_sublists (LocalTo.removeEntries g x _ _) (by rw [speakers]) (by rw [queue]; exact List.filter_sublist)
  unfold Hall.settleQueue
  generalize g.removeEntries x (g.unbadged ns) .noBadge = k at removed ⊢
  split
  · exact removed.trans (Within.trimQueue k x _)
  · exact Within.trimQueue g x _

theorem settleQueue_gone {g : Hall} (l : g.Listed) {x : FloorId} {ns : List SeatId} {n : SeatId}
    (required : (g.floor x).bank.badgeRequired = true) (m : n ∈ ns) (waits : n ∈ (g.floor x).queue.map (·.seat))
    (bare : g.badged n = false) : n ∉ ((g.settleQueue x ns).floor x).seats := by
  obtain ⟨speakers, queue⟩ := g.removeEntries_lists x (g.unbadged ns) .noBadge
  unfold Hall.settleQueue
  rw [if_pos required]
  refine fun mem => ?_
  have mem := Within.trimQueue _ x _ x n mem
  rw [Floor.seats, speakers, queue, List.mem_append] at mem
  obtain ⟨w, mw, rfl⟩ := List.mem_map.mp waits
  obtain mem | mem := mem
  · obtain ⟨e, me, same⟩ := List.mem_map.mp mem
    exact l.not_speaks_of_queued mw me same
  · obtain ⟨v, mv, same⟩ := List.mem_map.mp mem
    obtain ⟨-, out⟩ := List.mem_filter.mp mv
    exact (of_decide_eq_true out) (by rw [same]; exact List.mem_filter.mpr ⟨m, by rw [bare]; rfl⟩)

/-- A seat without a badge that came with y stands in no list of a floor that requires badges (08 R140, R141). -/
theorem foldEntries_gone (now : Clock) (l : h.Listed) (ne : x ≠ y) (liveX : (h.floor x).state = .live)
    (liveY : (h.floor y).state = .live) (required : (h.floor x).bank.badgeRequired = true) {n : SeatId}
    (came : (∃ e ∈ (h.floor y).speakers, e.seat = n) ∨ ∃ w ∈ (h.floor y).queue, w.seat = n) (bare : h.badged n = false) :
    n ∉ ((h.foldEntries now x y).floor x).seats := by
  obtain ⟨-, -, bank, -⟩ := foldJoined_floor ne liveX liveY
  obtain ⟨speakersQ, queueQ, bankQ⟩ := foldQueued_floor now ne liveX liveY
  have listedQ := foldQueued_listed l now ne liveX liveY
  have badges := h.foldBadges now x y n
  rw [foldEntries_eq now ne liveX liveY]
  obtain ⟨e, me, rfl⟩ | ⟨w, mw, rfl⟩ := came
  · -- it spoke: the check of the speakers removes it, and y's queue does not bring it back
    have closing := Steady.closeExcess now (h.foldJoined x y) x .mergeExcess
    have out : e.seat ∉ ((h.foldSpoken now x y).floor x).seats :=
      checkBadges_gone now (by rw [(LocalTo.closeExcess now _ x _).bank, bank]; exact required) (List.mem_map_of_mem me)
        (by rw [closing.badged, (h.foldJoined_steady x y).badged]; exact bare)
    have outQ : e.seat ∉ ((h.foldQueued now x y).floor x).seats := fun mem => by
      rw [Floor.seats, speakersQ, queueQ, List.map_append, ← List.append_assoc, List.mem_append] at mem
      obtain mem | mem := mem
      · exact out mem
      · obtain ⟨w, mw, same⟩ := List.mem_map.mp mem
        exact l.not_speaks_of_queued mw me same.symm
    exact fun mem => outQ (within_settleQueue _ x _ x _ mem)
  · -- it waited: the check of the queue removes it, and a seat that waits does not speak
    exact settleQueue_gone listedQ (by rw [bankQ]; exact required) (List.mem_map_of_mem mw)
      (by rw [queueQ]; exact List.mem_map_of_mem (List.mem_append_right _ mw)) (by rw [badges]; exact bare)

end Hall

end Sys2Proof

/-! PROOFS. What the later steps of a fold leave of the survivor's lists: mutes alone, until the arbiter's run. -/

namespace Sys2Proof

namespace Hall

variable {h : Hall} {x y : FloorId}

theorem foldHolders_lists (e : Hall) (ne : x ≠ y) :
    ((e.foldHolders x y).floor x).speakers.map Speaker.plain = (e.floor x).speakers.map Speaker.plain ∧
      ((e.foldHolders x y).floor x).queue = (e.floor x).queue ∧
      ((e.foldHolders x y).floor x).lastRemoval = (e.floor x).lastRemoval ∧
      ((e.foldHolders x y).floor x).bank = (e.floor x).bank := by
  obtain ⟨rollX, -, -⟩ := e.foldHolders_floor ne
  obtain ⟨-, -, -, -, -, -, queue, last, speakers⟩ := Floor.of_roll rollX
  refine ⟨speakers, queue, last, ?_⟩
  unfold foldHolders
  rw [(LocalTo.remute _ x).bank, floor_updFloor, if_neg ne.symm, floor_updFloor, if_pos rfl]
  rfl

theorem settleListen_lists (now : Clock) (g : Hall) (ne : x ≠ y) :
    (((g.adoptionPass x).settleSwap now y).floor x).speakers.map Speaker.plain =
        (g.floor x).speakers.map Speaker.plain ∧
      (((g.adoptionPass x).settleSwap now y).floor x).queue = (g.floor x).queue ∧
      (((g.adoptionPass x).settleSwap now y).floor x).lastRemoval = (g.floor x).lastRemoval ∧
      (((g.adoptionPass x).settleSwap now y).floor x).bank.bare = (g.floor x).bank.bare := by
  have relists := (Relists.adoptionPass g x).record
  obtain ⟨-, -, -, -, -, -, queue, last, speakers⟩ := Floor.of_roll relists.roll
  rw [settleSwap_others now _ ne]
  exact ⟨speakers, queue, last, relists.bank⟩

/-- The survivor's lists once the listen table and the swap are settled. -/
theorem foldSettled_lists (now : Clock) (h : Hall) (ne : x ≠ y) :
    ((h.foldSettled now x y).floor x).speakers.map Speaker.plain =
        ((h.foldEntries now x y).floor x).speakers.map Speaker.plain ∧
      ((h.foldSettled now x y).floor x).queue = ((h.foldEntries now x y).floor x).queue ∧
      ((h.foldSettled now x y).floor x).lastRemoval = ((h.foldEntries now x y).floor x).lastRemoval ∧
      ((h.foldSettled now x y).floor x).bank.bare = ((h.foldEntries now x y).floor x).bank.bare := by
  obtain ⟨speakers, queue, last, bank⟩ := (h.foldCarried now x y).settleListen_lists now ne
  obtain ⟨speakers', queue', last', bank'⟩ := (h.foldEntries now x y).foldHolders_lists ne
  have carried : (h.foldCarried now x y).floor x = ((h.foldEntries now x y).foldHolders x y).floor x :=
    (h.foldCarried_speechless now x y).floor x
  unfold foldSettled
  rw [speakers, queue, last, bank, carried, speakers', queue', last', bank']
  exact ⟨rfl, rfl, rfl, rfl⟩

theorem settleSwap_turns (now : Clock) {g : Hall} {y : FloorId} (silent : (g.floor y).speakers = []) :
    (g.settleSwap now y).turns = g.turns := by
  have flip : ((g.updFloor y Floor.flip).floor y).speakers = [] := by
    rw [floor_updFloor, if_pos rfl]
    exact silent
  have swapped : (g.completeSwap now y).turns = g.turns := by
    rw [completeSwap_eq, (Relists.swapListen _ y).turns]
    refine Tbl.ext_get fun n => ((LocalTo.swapped now g y).still n fun e m => ?_).trans ?_
    · rw [flip] at m
      cases m
    · rw [Turns.same (updFloor_seats g y _)]
  unfold settleSwap
  generalize g.completeSwap now y = k at swapped ⊢
  split
  · exact swapped
  · rfl

/-- No turn ends in the later steps of a fold. -/
theorem foldInto_turns (now : Clock) (ne : x ≠ y) (liveX : (h.floor x).state = .live) (liveY : (h.floor y).state = .live) :
    (h.foldInto now x y).turns = (h.foldEntries now x y).turns := by
  obtain ⟨-, movedY, -⟩ := foldMoved_floor now ne liveX liveY
  have silent : (((h.foldCarried now x y).adoptionPass x).floor y).speakers = [] := by
    rw [(Relists.adoptionPass _ x).others y ne.symm, (h.foldCarried_speechless now x y).floor, movedY]
  have settled : (h.foldSettled now x y).turns = (h.foldMoved now x y).turns := by
    rw [foldSettled, settleSwap_turns now silent, (Relists.adoptionPass _ x).turns, (h.foldCarried_speechless now x y).turns]
  have moved : (h.foldMoved now x y).turns = (h.foldEntries now x y).turns := by
    unfold foldMoved foldHolders
    generalize h.foldEntries now x y = e
    rw [Turns.remute, Turns.same (updFloor_seats _ y _), Turns.same (updFloor_seats _ x _)]
  rw [foldInto_settled, Turns.arbitrate, (Speechless.recomposeFloor _ x).turns, (Speechless.raiseFold _ _).turns, settled,
    moved]

/-- The survivor's lists after the arbiter's run: speakers appended, no seat added. -/
theorem foldInto_lists (now : Clock) (h : Hall) (ne : x ≠ y) :
    ((h.foldEntries now x y).floor x).speakers.map Speaker.plain <+:
        ((h.foldInto now x y).floor x).speakers.map Speaker.plain ∧
      (∀ n ∈ ((h.foldInto now x y).floor x).seats, n ∈ ((h.foldEntries now x y).floor x).seats) ∧
      (((h.foldEntries now x y).floor x).bank.autoAdvance = false →
        ((h.foldInto now x y).floor x).queue = ((h.foldEntries now x y).floor x).queue ∧
        ((h.foldInto now x y).floor x).lastRemoval = ((h.foldEntries now x y).floor x).lastRemoval) := by
  obtain ⟨speakers, queue, last, bank⟩ := h.foldSettled_lists now ne
  rw [foldInto_settled]
  generalize h.foldSettled now x y = s at speakers queue last bank ⊢
  generalize h.foldEntries now x y = e at speakers queue last bank ⊢
  have floors : ((s.raiseFold (x :: y :: h.foldedInto y)).recomposeFloor x).floors = s.floors :=
    (recomposeFloor_floors _ x).trans (raiseFold_floors _ _)
  generalize (s.raiseFold (x :: y :: h.foldedInto y)).recomposeFloor x = k at floors ⊢
  have record := floor_of_floors floors x
  have seats : (s.floor x).seats = (e.floor x).seats := by
    have names := congrArg (List.map (·.seat)) speakers
    rw [List.map_map, List.map_map] at names
    rw [Floor.seats, Floor.seats, queue]
    exact congrArg (· ++ (e.floor x).queue.map (·.seat)) names
  refine ⟨?_, fun n m => ?_, fun manual => ?_⟩
  · obtain ⟨l, q, after, -⟩ := (Handed.arbitrate now k).rest x
    rw [after, record, List.map_append, speakers]
    exact List.prefix_append _ _
  · have before := Within.arbitrate now k x n m
    rwa [record, seats] at before
  · have auto : (k.floor x).bank.autoAdvance = false := by
      have same : (k.floor x).bank.bare.autoAdvance = (e.floor x).bank.bare.autoAdvance := by
        rw [record, bank]
      exact same.trans manual
    rw [arbitrate_floor now (Floor.waits_of_manual auto), record]
    exact ⟨queue, last⟩

end Hall

/-- The bank of the survivor is its own until the arbiter's run. -/
theorem Hall.foldEntries_bank (now : Clock) {h : Hall} {x y : FloorId} (ne : x ≠ y) (liveX : (h.floor x).state = .live)
    (liveY : (h.floor y).state = .live) : ((h.foldEntries now x y).floor x).bank = (h.floor x).bank := by
  rw [foldEntries_eq now ne liveX liveY, (LocalTo.settleQueue _ x _).bank]
  exact (foldQueued_floor now ne liveX liveY).2.2

theorem foldSpeech (now : Clock) (h : Hall) (x y : FloorId) (ne : x ≠ y) (liveX : (h.floor x).state = .live)
    (liveY : (h.floor y).state = .live) (i : Machine.SpeechInv h) :
    ∃ t es qs, t = h.foldInto now x y ∧ es = (h.floor x).speakers ++ (h.floor y).speakers ∧
      qs = (h.floor x).queue ++ (h.floor y).queue ∧
      ((es.filter fun e => e.kind = .delegate).length ≤ (h.floor x).bank.limit →
        (h.floor x).bank.badgeRequired = false →
        es.map (·.seat) <+: (t.floor x).speakers.map (·.seat) ∧
        (∀ e, e ∈ (h.floor y).speakers →
          ∃ v, t.slots.get e.slot = some v ∧ v.seat = e.seat ∧ v.floor = x) ∧
        ((h.floor x).bank.autoAdvance = false → (t.floor x).queue = qs.take (h.floor x).bank.cap ∧
          ∀ w, (qs.drop (h.floor x).bank.cap).head? = some w →
            (t.floor x).lastRemoval = some (w.seat, .mergeOverflow))) ∧
      (∀ e r, e ∈ (es.filter fun e => e.kind = .delegate).drop (h.floor x).bank.limit → h.seat? e.seat = some r →
        ∃ q, t.seat? e.seat = some q ∧ q.lastTurn =
          some ⟨.mergeExcess, x, (now - e.start).toNat / 10, e.timer.elim 0 (·.overrun)⟩) ∧
      ((h.floor x).bank.badgeRequired = true → ∀ n,
        ((∃ e ∈ (h.floor y).speakers, e.seat = n) ∨ ∃ w ∈ (h.floor y).queue, w.seat = n) → h.badged n = false →
        (∀ e, e ∈ (t.floor x).speakers → e.seat ≠ n) ∧ ∀ w, w ∈ (t.floor x).queue → w.seat ≠ n) := by
  obtain ⟨front, within, manual⟩ := h.foldInto_lists now ne
  have bank := Hall.foldEntries_bank now ne liveX liveY
  refine ⟨_, _, _, rfl, rfl, rfl, fun room open_ => ?_, fun e r beyond held => ?_, fun required n came bare => ?_⟩
  · obtain ⟨speakers, queue, last⟩ := Hall.foldEntries_whole now i.listed ne liveX liveY room open_
    rw [speakers] at front
    refine ⟨?_, fun e m => ?_, fun auto => ?_⟩
    · have seats := front.map (·.seat)
      rwa [List.map_map, List.map_map] at seats
    · have entry : e.plain ∈ ((h.foldInto now x y).floor x).speakers.map Speaker.plain :=
        front.subset (List.mem_map_of_mem (List.mem_append_right _ m))
      obtain ⟨d, md, same⟩ := List.mem_map.mp entry
      obtain ⟨seat, slot⟩ := Prod.mk.inj (congrArg (fun p : Speaker => (p.seat, p.slot)) same)
      have seat : d.seat = e.seat := seat
      have slot : d.slot = e.slot := slot
      have held := (i.foldInto now ne liveX liveY).listed.held x d md
      rw [slot] at held
      exact ⟨_, held, seat, rfl⟩
    · obtain ⟨queue', last'⟩ := manual (by rw [bank]; exact auto)
      rw [queue', last']
      exact ⟨queue, last⟩
  · exact (Steady.foldInto now h x y).lastTurn held (by
      rw [Hall.foldInto_turns now ne liveX liveY, Hall.foldEntries_turn now i.listed ne liveX liveY
        (Option.isSome_iff_exists.mpr ⟨r, held⟩) beyond]
      rfl)
  · have gone := Hall.foldEntries_gone now i.listed ne liveX liveY required came bare
    exact ⟨fun e m same => gone (within n (same ▸ Hall.Listed.mem_seats_speaker m)),
      fun w m same => gone (within n (same ▸ Hall.Listed.mem_seats_queue m))⟩

end Sys2Proof

/-! PROOFS. What the moves of channels reach: the channel moved, with its content, and its output (06 R104, R105, 07 R136). -/

namespace Sys2Proof

/-- The language and the channel of an output in use. -/
def Hall.spoken (h : Hall) (p : BoothId × Out) : Option (Lang × ChannelId) :=
  (h.output p.1 p.2).use.map fun u => (u.lang, u.chan)

/-- An operation that reaches some channels and the states of some outputs. -/
structure Reaches (P : ChannelId → Prop) (Q : BoothId × Out → Prop) (h g : Hall) : Prop where
  channels : ∀ c, ¬ P c → g.channels.get c = h.channels.get c
  outputs : ∀ p, ¬ Q p → (g.output p.1 p.2).use = (h.output p.1 p.2).use
  spoken : ∀ p, g.spoken p = h.spoken p
  delays : ∀ b, (g.booths.get b).delay = (h.booths.get b).delay

namespace Reaches

variable {P P' : ChannelId → Prop} {Q Q' : BoothId × Out → Prop} {h g : Hall}

theorem refl (h : Hall) : Reaches P Q h h := ⟨fun _ _ => rfl, fun _ _ => rfl, fun _ => rfl, fun _ => rfl⟩

theorem trans {a b c : Hall} (p : Reaches P Q a b) (q : Reaches P Q b c) : Reaches P Q a c :=
  ⟨fun d k => (q.channels d k).trans (p.channels d k), fun d k => (q.outputs d k).trans (p.outputs d k),
    fun d => (q.spoken d).trans (p.spoken d), fun d => (q.delays d).trans (p.delays d)⟩

theorem mono (k : Reaches P Q h g) (channels : ∀ c, P c → P' c) (outputs : ∀ p, Q p → Q' p) : Reaches P' Q' h g :=
  ⟨fun c n => k.channels c fun m => n (channels c m), fun p n => k.outputs p fun m => n (outputs p m), k.spoken, k.delays⟩

theorem foldl {β : Type} {f : Hall → β → Hall} (l : List β)
    (step : ∀ g, Reaches P Q h g → ∀ b ∈ l, Reaches P Q g (f g b)) : Reaches P Q h (l.foldl f h) :=
  List.foldlRecOn l f (motive := fun g => Reaches P Q h g) (refl h) fun g k b m => k.trans (step g k b m)

theorem of_booths (booths : g.booths = h.booths) (channels : ∀ c, ¬ P c → g.channels.get c = h.channels.get c) :
    Reaches P Q h g :=
  ⟨channels, fun p _ => by rw [Hall.output_of_booths booths], fun p => by
    rw [Hall.spoken, Hall.spoken, Hall.output_of_booths booths], fun b => by rw [booths]⟩

theorem of_sound (k : g.sound = h.sound) : Reaches P Q h g :=
  of_booths (Hall.booths_of_sound k) fun _ _ => by rw [Hall.channels_of_sound k]

/-- An output in use keeps its channel. -/
theorem chan (k : Reaches P Q h g) (b : BoothId) (o : Out) : (g.output b o).chan? = (h.output b o).chan? := by
  have e := congrArg (Option.map Prod.snd) (k.spoken (b, o))
  rw [Hall.spoken, Hall.spoken, Option.map_map, Option.map_map] at e
  exact e

/-! ## Channels -/

section

variable (h : Hall) (c : ChannelId)

theorem setUse (u : ChanUse) : Reaches (· = c) Q h (h.setUse c u) :=
  of_booths rfl fun d ne => by simp [Hall.setUse, Tbl.upd, Tbl.get_set_ne _ _ (Ne.symm ne)]

theorem setContent (x : Content) : Reaches (· = c) Q h (h.setContent c x) := by
  refine of_booths (Hall.setContent_booths h c x) fun d ne => ?_
  unfold Hall.setContent
  split
  · rw [Hall.route_channels]
    simp [Tbl.upd, Tbl.get_set_ne _ _ (Ne.symm ne)]
  · rfl

theorem lend (x : FloorId) : Reaches (· = c) Q h (h.lend c x) := by
  unfold Hall.lend
  split
  · split
    · exact (setUse h c _).trans (of_sound (Sound.mapReport _ x))
    · exact refl h
  · exact refl h

theorem relend (x : FloorId) : Reaches (· = c) Q h (h.relend c x) := by
  unfold Hall.relend
  split
  · split
    · exact ((setUse h c _).trans (of_sound (Sound.mapReport _ _))).trans (of_sound (Sound.mapReport _ x))
    · exact refl h
  · exact refl h

theorem giveBack : Reaches (· = c) Q h (h.giveBack c) := by
  unfold Hall.giveBack
  split
  · split
    · exact refl h
    · exact ((setUse h c _).trans (of_sound (Sound.mapReportOf _ _))).trans (of_sound (Sound.mapReport _ _))
  · exact refl h

theorem reserveChannel : Reaches (· = c) Q h (h.reserveChannel c) := by
  unfold Hall.reserveChannel
  split
  · split
    · exact refl h
    · exact ((setUse h c _).trans (setContent _ c _)).trans (of_sound (Sound.mapReportOf _ _))
  · exact refl h

theorem carryChannel (x : FloorId) : Reaches (· = c) Q h (h.carryChannel c x) := by
  unfold Hall.carryChannel
  split
  · split
    · exact lend h c x
    · exact relend h c x
  · exact refl h

/-- The original channel of a floor moved, with its content. -/
theorem mixOriginal (z x : FloorId) {move : Hall → ChannelId → Hall} (step : ∀ c, Reaches (· = c) Q h (move h c)) :
    Reaches (fun c => (h.floor z).original? = some c) Q h (h.mixOriginal z x move) := by
  unfold Hall.mixOriginal
  split
  next c org => exact ((step c).trans (setContent _ c _)).mono (fun d e => by rw [org, e]) fun _ => id
  · exact refl h

end

/-! ## Outputs -/

section

variable (h : Hall) (b : BoothId) (o : Out)

theorem setOutState (st : OutState) : Reaches P (· = (b, o)) h (h.setOutState b o st) := by
  have delays := fun c => Hall.delay_of_setups (Hall.setups_setOutput h b o
    { h.output b o with use := (h.output b o).use.map fun u => { u with state := st } }) c
  refine ⟨fun _ _ => rfl, fun p ne => ?_, fun p => ?_, delays⟩
  · rw [Hall.setOutState, Hall.output_setOutput, if_neg fun k => ne (Prod.ext k.1 k.2)]
  · rw [Hall.spoken, Hall.spoken, Hall.setOutState, Hall.output_setOutput]
    split
    next k =>
      rw [k.1, k.2, Option.map_map]
      rfl
    · rfl

theorem takeOff (c : ReleaseCause) : Reaches P Q h (h.takeOff b o c) := by
  have use : ∀ d p, ((h.takeOff b o c).output d p).use = (h.output d p).use := fun d p => by
    rw [Hall.takeOff_output]
    split
    next k => rw [k.1, k.2]
    · rfl
  exact ⟨fun _ _ => by rw [Hall.takeOff_channels], fun p _ => use p.1 p.2, fun p => by
    rw [Hall.spoken, Hall.spoken, use], Hall.delay_of_setups (Hall.setups_takeOff h b o c)⟩

theorem outContent (x : Content) : Reaches (fun c => (h.output b o).chan? = some c) Q h (h.outContent b o x) := by
  unfold Hall.outContent
  split
  next c chan => exact (setContent h c x).mono (fun d e => by rw [chan, e]) fun _ => id
  · exact refl h

theorem mixContent : Reaches (fun c => (h.output b o).chan? = some c) Q h (h.mixContent b o) := by
  unfold Hall.mixContent
  split
  · exact outContent h b o _
  · exact refl h

theorem enterFallback : Reaches (fun c => (h.output b o).chan? = some c) (· = (b, o)) h (h.enterFallback b o) := by
  have silent := setOutState (P := fun c => (h.output b o).chan? = some c) h b o .fallback
  exact (silent.trans ((mixContent (h.setOutState b o .fallback) b o).mono
    (fun c k => by rwa [silent.chan b o] at k) fun _ => id)).trans (of_sound (Sound.raise _ _))

theorem enterSilent : Reaches (fun c => (h.output b o).chan? = some c) (· = (b, o)) h (h.enterSilent b o) := by
  have state := setOutState (P := fun c => (h.output b o).chan? = some c) h b o
    (.silent ((h.booths.get b).delay * 10))
  have silent := state.trans ((outContent (h.setOutState b o (.silent ((h.booths.get b).delay * 10))) b o .silence).mono
    (fun c k => by rwa [state.chan b o] at k) fun _ => id)
  unfold Hall.enterSilent
  simp only []
  split
  · exact silent.trans ((enterFallback _ b o).mono
      (fun c k => by rwa [silent.chan b o] at k) fun _ => id)
  · exact silent

theorem recomposeDesks : Reaches P Q h (h.recomposeDesks b) := of_sound (Sound.recomposeAll h _)

theorem holdOutput : Reaches (fun c => (h.output b o).chan? = some c) (· = (b, o)) h (h.holdOutput b o) := by
  unfold Hall.holdOutput
  split
  next u use =>
    have chan : (h.output b o).chan? = some u.chan := by rw [Output.chan?, use]; rfl
    exact ((((takeOff h b o _).trans (setOutState _ b o _)).trans
      ((reserveChannel _ u.chan).mono (fun c e => by rw [chan, e]) fun _ => id)).trans
      (of_sound (Sound.relayRecheck _))).trans (recomposeDesks _ _)
  · exact refl h

theorem placeOutput (x : FloorId) (p : BoothId × Out) :
    Reaches (fun c => (h.output p.1 p.2).chan? = some c) (· = p) h (h.placeOutput x p) := by
  unfold Hall.placeOutput
  split
  next u use =>
    have chan : (h.output p.1 p.2).chan? = some u.chan := by rw [Output.chan?, use]; rfl
    split
    · exact refl h
    · split
      · exact holdOutput h p.1 p.2
      · exact (carryChannel h u.chan x).mono (fun c e => by rw [chan, e]) fun _ => id
  · exact refl h

theorem giveBackOutput (p : BoothId × Out) :
    Reaches (fun c => (h.output p.1 p.2).chan? = some c) (· = p) h (h.giveBackOutput p) := by
  unfold Hall.giveBackOutput
  split
  next u use =>
    have chan : (h.output p.1 p.2).chan? = some u.chan := by rw [Output.chan?, use]; rfl
    have given : Reaches (fun c => (h.output p.1 p.2).chan? = some c) (· = p) h (h.giveBack u.chan) :=
      (giveBack h u.chan).mono (fun c e => by rw [chan, e]) fun _ => id
    split
    · exact given.trans (((enterSilent _ p.1 p.2).mono (fun c k => by
        rwa [given.chan p.1 p.2] at k) fun _ => id).trans (recomposeDesks _ _))
    · exact given
  · exact refl h

theorem followServing (b : BoothId) :
    Reaches (fun c => ∃ o, (h.output b o).chan? = some c) (fun _ => False) h (h.followServing b) := by
  unfold Hall.followServing
  refine foldl _ fun g k o _ => ?_
  split
  · split
    · exact (mixContent g b o).mono (fun c chan => ⟨o, by rwa [k.chan b o] at chan⟩) fun _ => id
    · exact refl g
  · exact refl g

theorem servingChanged (bs : List BoothId) :
    Reaches (fun c => ∃ p : BoothId × Out, (h.output p.1 p.2).chan? = some c) (fun _ => False) h (h.servingChanged bs) := by
  unfold Hall.servingChanged
  refine Reaches.trans (foldl bs fun g k b _ => ?_) (of_sound (Sound.relayRecheck _))
  exact (followServing g b).mono (fun c ⟨o, chan⟩ => ⟨(b, o), by rwa [k.chan b o] at chan⟩) fun _ => id

end

end Reaches

end Sys2Proof

/-! PROOFS. The channels and outputs that a fold leaves (08 R143, R144). -/

namespace Sys2Proof

open Hall

/-! ## Lists of moves -/

namespace Reaches

variable {Q : BoothId × Out → Prop} {h : Hall}

/-- Outputs moved one after another, each with its channel. -/
theorem outputs_foldl {f : Hall → BoothId × Out → Hall}
    (step : ∀ h p, Reaches (fun c => (h.output p.1 p.2).chan? = some c) (· = p) h (f h p)) (ps : List (BoothId × Out))
    (h : Hall) :
    Reaches (fun c => ∃ p ∈ ps, (h.output p.1 p.2).chan? = some c) (· ∈ ps) h (ps.foldl f h) :=
  foldl ps fun g k p m => (step g p).mono (fun c chan => ⟨p, m, by rwa [k.chan p.1 p.2] at chan⟩) fun q e => e ▸ m

/-- The original channels of some floors moved one after another. -/
theorem mixOriginals {x : FloorId} {move : Hall → ChannelId → Hall} (step : ∀ g c, Reaches (· = c) Q g (move g c))
    (talk : ∀ g c, Speechless g (move g c)) (zs : List FloorId) (h : Hall) :
    Reaches (fun c => ∃ z ∈ zs, (h.floor z).original? = some c) Q h (zs.foldl (fun g z => g.mixOriginal z x move) h) := by
  induction zs generalizing h with
  | nil => exact refl h
  | cons z zs ih =>
    have floor := (Speechless.mixOriginal h z x talk).floor
    refine ((mixOriginal h z x (step h)).mono (fun c org => ⟨z, List.mem_cons_self, org⟩) fun _ => id).trans
      ((ih _).mono (fun c ⟨w, m, org⟩ => ⟨w, List.mem_cons_of_mem z m, by rwa [floor] at org⟩) fun _ => id)

end Reaches

theorem boothOutputs_nodup {bs : List BoothId} (k : bs.Nodup) : (boothOutputs bs).Nodup := by
  induction bs with
  | nil => exact List.nodup_nil
  | cons b bs ih =>
    obtain ⟨out, rest⟩ := List.nodup_cons.mp k
    have cons : boothOutputs (b :: bs) = (b, .a) :: (b, .b) :: boothOutputs bs := rfl
    have fresh : ∀ o, (b, o) ∉ boothOutputs bs := fun o m => out (mem_boothOutputs.mp m)
    rw [cons]
    exact List.nodup_cons.mpr ⟨by simp [fresh], List.nodup_cons.mpr ⟨fresh _, ih rest⟩⟩

theorem Hall.boothsOf_nodup (h : Hall) (fs : List FloorId) : (h.boothsOf fs).Nodup := by
  unfold Hall.boothsOf
  rw [Tbl.positions_eq]
  exact (List.nodup_finRange 12).filter _

/-! ## The content of original channels -/

/-- A channel in use with the mix of floor x. -/
def Hall.Carries (h : Hall) (c : ChannelId) (x : FloorId) : Prop :=
  (h.channels.get c).use ≠ none ∧ (h.channels.get c).content = .floorMix x

namespace Hall

variable {h : Hall} {c : ChannelId} {x z : FloorId}

theorem setContent_carries (used : (h.channels.get c).use ≠ none) (x : FloorId) :
    (h.setContent c (.floorMix x)).Carries c x := by
  obtain ⟨u, use⟩ := Option.ne_none_iff_exists'.mp used
  unfold Carries
  rw [setContent_channel use, if_pos rfl]
  exact ⟨Option.some_ne_none u, rfl⟩

theorem setUse_used (h : Hall) (c : ChannelId) (u : ChanUse) : ((h.setUse c u).channels.get c).use ≠ none := by
  simp [Hall.setUse]

theorem lend_used (used : (h.channels.get c).use ≠ none) (x : FloorId) : ((h.lend c x).channels.get c).use ≠ none := by
  unfold lend
  split
  · split
    · rw [channels_of_sound (Sound.mapReport _ x)]
      exact setUse_used _ c _
    · exact used
  · exact used

theorem relend_used (used : (h.channels.get c).use ≠ none) (x : FloorId) :
    ((h.relend c x).channels.get c).use ≠ none := by
  unfold relend
  split
  · split
    · rw [channels_of_sound (Sound.mapReport _ x), channels_of_sound (Sound.mapReport _ _)]
      exact setUse_used _ c _
    · exact used
  · exact used

theorem giveBack_used (used : (h.channels.get c).use ≠ none) : ((h.giveBack c).channels.get c).use ≠ none := by
  unfold giveBack
  split
  · split
    · exact used
    · rw [channels_of_sound (Sound.mapReport _ _), channels_of_sound (Sound.mapReportOf _ _)]
      exact setUse_used _ c _
  · exact used

section

variable {move : Hall → ChannelId → Hall} (step : ∀ g c, Reaches (· = c) (fun _ => False) g (move g c))
  (used : ∀ g c, (g.channels.get c).use ≠ none → ((move g c).channels.get c).use ≠ none)

include used in
/-- The original channel of a floor moved carries the mix it is given. -/
theorem mixOriginal_carries (org : (h.floor z).original? = some c) (use : (h.channels.get c).use ≠ none) :
    (h.mixOriginal z x move).Carries c x := by
  simp only [mixOriginal, org]
  exact setContent_carries (used h c use) x

include step used

theorem mixOriginal_used (use : (h.channels.get c).use ≠ none) :
    ((h.mixOriginal z x move).channels.get c).use ≠ none := by
  by_cases org : (h.floor z).original? = some c
  · exact (mixOriginal_carries used org use).1
  · rw [(Reaches.mixOriginal (Q := fun _ => False) h z x (step h)).channels c org]
    exact use

theorem mixOriginal_keeps (k : h.Carries c x) : (h.mixOriginal z x move).Carries c x := by
  by_cases org : (h.floor z).original? = some c
  · exact mixOriginal_carries used org k.1
  · unfold Carries
    rw [(Reaches.mixOriginal (Q := fun _ => False) h z x (step h)).channels c org]
    exact k

theorem mixOriginals_keep (zs : List FloorId) (k : h.Carries c x) :
    (zs.foldl (fun g z => g.mixOriginal z x move) h).Carries c x :=
  List.foldlRecOn zs _ (motive := fun g : Hall => g.Carries c x) k fun _ k _ _ => mixOriginal_keeps step used k

theorem mixOriginals_carry (talk : ∀ g c, Speechless g (move g c)) {zs : List FloorId} (m : z ∈ zs) {h : Hall}
    (org : (h.floor z).original? = some c) (use : (h.channels.get c).use ≠ none) :
    (zs.foldl (fun g z => g.mixOriginal z x move) h).Carries c x := by
  induction zs generalizing h with
  | nil => cases m
  | cons w zs ih =>
    by_cases e : z = w
    · subst e
      exact mixOriginals_keep step used zs (mixOriginal_carries used org use)
    · refine ih ((List.mem_cons.mp m).resolve_left e) ?_ (mixOriginal_used step used use)
      rw [(Speechless.mixOriginal h w x talk).floor]
      exact org

end

/-! ## Channels of no output -/

/-- A channel that belongs to no output. -/
def Unspoken (h : Hall) (c : ChannelId) : Prop := ∀ b o, (h.output b o).chan? ≠ some c

theorem unspoken_of_original {old : FloorId → FloorState} (i : h.board.Linked old)
    (org : (h.floor z).original? = some c) : h.Unspoken c := fun b o chan => by
  obtain ⟨u, use, -, origin⟩ := i.woven.originals z c org
  obtain ⟨v, used, rfl⟩ := Option.map_eq_some_iff.mp chan
  obtain ⟨w, use', origin', -⟩ := i.woven.use_of_output used
  obtain rfl := Option.some.inj (use.symm.trans use')
  rw [origin] at origin'
  cases origin'

theorem Carries.outputs {P : ChannelId → Prop} {Q : BoothId × Out → Prop} {g : Hall} (k : h.Carries c x)
    (reach : Reaches P Q h g) (out : ¬ P c) : g.Carries c x := by
  unfold Carries
  rw [reach.channels c out]
  exact k

end Hall

/-! ## One output placed -/

namespace Hall

variable {h : Hall} {x : FloorId} {b : BoothId} {o : Out} {u : OutUse}

theorem reserveChannel_booths (h : Hall) (c : ChannelId) : (h.reserveChannel c).booths = h.booths := by
  unfold reserveChannel
  split
  · split
    · rfl
    · rw [booths_of_sound (Sound.mapReportOf _ _), setContent_booths]
      rfl
  · rfl

theorem holdOutput_use (use : (h.output b o).use = some u) :
    ((h.holdOutput b o).output b o).use = some { u with state := .held } := by
  have kept : ((h.takeOff b o .outputHeld).output b o).use = some u := by
    rw [takeOff_output, if_pos ⟨rfl, rfl⟩]
    exact use
  simp only [holdOutput, use]
  rw [recomposeDesks, output_of_booths (recomposeAll_booths _ _), output_of_booths (booths_of_sound (Sound.relayRecheck _)),
    output_of_booths (reserveChannel_booths _ _), setOutState, output_setOutput, if_pos ⟨rfl, rfl⟩, kept]
  rfl

theorem placeOutput_held (use : (h.output b o).use = some u) (stays : u.state = .held ∨ h.languageTaken x u.lang = true) :
    ((h.placeOutput x (b, o)).output b o).use = some { u with state := .held } := by
  simp only [placeOutput, use]
  split
  next held =>
    rw [use, ← held]
  next unheld =>
    rw [if_pos (stays.resolve_left unheld)]
    exact holdOutput_use use

theorem placeOutput_carried (use : (h.output b o).use = some u) (unheld : u.state ≠ .held)
    (free : h.languageTaken x u.lang = false) : ((h.placeOutput x (b, o)).output b o).use = some u := by
  have kept := (Reaches.carryChannel (Q := fun _ => False) h u.chan x).outputs (b, o) id
  simp only [placeOutput, use, if_neg unheld, free]
  exact kept.trans use

end Hall

end Sys2Proof

/-! PROOFS. The channels and outputs that a fold leaves (08 R143, R144), with the invariant for what each channel is and the
moves for what each carries. -/

namespace Sys2Proof

open Hall

/-! ## What the invariant says of channels of folded floors -/

namespace Board.Linked

variable {m : Board} {old : FloorId → FloorState}

/-- A language of an output's channel is that of the output. -/
theorem spoken_of_lang (i : m.Linked old) {c : ChannelId} {u : ChanUse} {l : Lang} (use : m.use c = some u)
    (lang : u.lang = some l) (ne : l ≠ 0) : ∃ b o v, m.out b o = some v ∧ v.chan = c ∧ v.lang = l := by
  cases origin : u.origin with
  | original =>
    obtain ⟨-, e⟩ := i.woven.original_of_use use origin
    rw [lang] at e
    split at e
    · exact absurd (Option.some.inj e) ne
    · cases e
  | output b o =>
    obtain ⟨v, out, chan, e, -⟩ := i.woven.output_of_use use origin
    exact ⟨b, o, v, out, chan, Option.some.inj (e.symm.trans lang)⟩

end Board.Linked

namespace Board.Inv

variable {m : Board}

theorem fits (i : m.Inv) {c : ChannelId} {u : ChanUse} (use : m.use c = some u) : u.fits (m.state u.owner) :=
  (i.woven.holds c u use).elim id id

/-- The original channel of a floor folded into x is LENT to it (06 R105). -/
theorem original_lent (i : m.Inv) {z x : FloorId} {c : ChannelId} (folded : m.state z = .folded x)
    (org : m.original z = some c) : m.use c = some ⟨.lent x, z, none, .original⟩ := by
  obtain ⟨⟨hold, owner, lang, origin⟩, use, rfl, rfl⟩ := i.woven.originals z c org
  have fits := i.fits use
  obtain ⟨-, e⟩ := i.woven.original_of_use use rfl
  unfold ChanUse.fits at fits
  cases hold with
  | owned => simp [folded] at fits
  | reserved => simp at fits
  | lent w =>
    simp only [folded, FloorState.folded.injEq] at fits
    simp only [reduceCtorEq, if_false] at e
    rw [use, fits, e]

theorem original_owned (i : m.Inv) {z : FloorId} {c : ChannelId} (live : m.state z = .live)
    (org : m.original z = some c) : m.use c = some ⟨.owned, z, some 0, .original⟩ := by
  obtain ⟨⟨hold, owner, lang, origin⟩, use, rfl, rfl⟩ := i.woven.originals z c org
  have fits := i.fits use
  obtain ⟨-, e⟩ := i.woven.original_of_use use rfl
  unfold ChanUse.fits at fits
  cases hold with
  | owned =>
    simp only [if_true] at e
    rw [use, e]
  | reserved => simp [live] at fits
  | lent w => simp [live] at fits

/-- The channel of an output of a folded floor is LENT to its carrier, or RESERVED when the output is HELD (06 R105). -/
theorem output_folded (i : m.Inv) {z x : FloorId} {b : BoothId} {o : Out} {v : OutUse} (folded : m.state z = .folded x)
    (home : m.home b = some z) (used : m.out b o = some v) :
    m.use v.chan = some ⟨if v.state = .held then .reserved else .lent x, z, some v.lang, .output b o⟩ := by
  obtain ⟨⟨hold, owner, lang, origin⟩, use, rfl, rfl, -, home'⟩ := i.woven.use_of_output used
  obtain rfl := Option.some.inj (home'.symm.trans home)
  have fits := i.fits use
  have matched := i.matched b o v _ used use
  rw [use]
  unfold ChanUse.fits at fits
  cases hold with
  | owned => simp [folded] at fits
  | reserved => rw [if_pos (matched.mp rfl)]
  | lent w =>
    simp only [folded, FloorState.folded.injEq] at fits
    rw [if_neg fun held => ChanHold.noConfusion (matched.mpr held), fits]

theorem output_live (i : m.Inv) {z : FloorId} {b : BoothId} {o : Out} {v : OutUse} (live : m.state z = .live)
    (home : m.home b = some z) (used : m.out b o = some v) :
    m.use v.chan = some ⟨.owned, z, some v.lang, .output b o⟩ := by
  obtain ⟨⟨hold, owner, lang, origin⟩, use, rfl, rfl, -, home'⟩ := i.woven.use_of_output used
  obtain rfl := Option.some.inj (home'.symm.trans home)
  have fits := i.fits use
  rw [use]
  unfold ChanUse.fits at fits
  cases hold with
  | owned => rfl
  | reserved => simp [live] at fits
  | lent w => simp [live] at fits

/-- A channel in the map of a LIVE floor x has no owner that is folded into another one, nor another LIVE one. -/
theorem map_of_owner (i : m.Inv) {x y : FloorId} (ne : x ≠ y) {c : ChannelId} {u : ChanUse} (use : m.use c = some u)
    (liveY : m.state y = .live) (owner : u.owner = y ∨ m.state u.owner = .folded y) : u.map ≠ some x := by
  have fits := i.fits use
  unfold ChanUse.fits at fits
  unfold ChanUse.map
  cases hold : u.hold with
  | owned =>
    rintro ⟨⟩
    simp only [hold] at fits
    obtain e | folded := owner
    · exact ne e
    · rw [fits] at folded
      cases folded
  | reserved => exact fun e => by cases e
  | lent w =>
    rintro ⟨⟩
    simp only [hold] at fits
    obtain e | folded := owner
    · rw [e, liveY] at fits
      cases fits
    · rw [fits] at folded
      exact ne (FloorState.folded.inj folded)

end Board.Inv

/-! ## The fold -/

namespace Hall

variable {h : Hall} {x y : FloorId}

theorem foldInto_sound (now : Clock) (h : Hall) (x y : FloorId) :
    (h.foldInto now x y).sound = (h.foldCarried now x y).sound := by
  rw [foldInto_carried]
  generalize h.foldCarried now x y = g
  have swap : ((g.adoptionPass x).settleSwap now y).sound = (g.adoptionPass x).sound := by
    have swapped := Sound.completeSwap now (g.adoptionPass x) y
    unfold settleSwap
    generalize (g.adoptionPass x).completeSwap now y = k at swapped ⊢
    split
    · exact swapped
    · rfl
  rw [Sound.arbitrate]
  refine ((Sound.recomposeAll _ _).trans (Sound.recomposeAll _ _)).trans ?_
  refine (foldl_keeps (part := Hall.sound) (fun g f => Sound.raise g (.foldChanged f)) _ _).trans (swap.trans ?_)
  exact (Relists.adoptionPass g x).sound

/-- The hall of a fold once the original channels have followed (08 R143). -/
def foldMixed (now : Clock) (h : Hall) (x y : FloorId) : Hall :=
  (h.foldMoved now x y).foldOriginals x y (h.foldedInto y)

/-- The outputs that a fold places, in the order in which it does (08 R144). -/
def foldedOutputs (now : Clock) (h : Hall) (x y : FloorId) : List (BoothId × Out) :=
  boothOutputs ((h.foldMixed now x y).boothsOf (y :: h.foldedInto y))

theorem foldCarried_eq (now : Clock) (h : Hall) (x y : FloorId) : h.foldCarried now x y =
    ((h.foldedOutputs now x y).foldl (Hall.placeOutput x) (h.foldMixed now x y)).servingChanged
      ((h.foldMixed now x y).boothsOf (y :: h.foldedInto y)) := rfl

/-- What the original channels' moves reach. -/
theorem foldMixed_reaches (now : Clock) (h : Hall) (x y : FloorId) : Reaches
    (fun c => ∃ z ∈ y :: h.foldedInto y, ((h.foldMoved now x y).floor z).original? = some c) (fun _ => False)
    (h.foldMoved now x y) (h.foldMixed now x y) := by
  unfold foldMixed foldOriginals
  generalize h.foldMoved now x y = k
  have first := Reaches.mixOriginal (Q := fun _ => False) k y x (move := fun g c => g.lend c x) fun c => .lend k c x
  have floor := (Speechless.mixOriginal k y x (move := fun g c => g.lend c x) fun g c => .lend g c x).floor
  refine (first.mono (fun c org => ⟨y, List.mem_cons_self, org⟩) fun _ => id).trans
    ((Reaches.mixOriginals (fun g c => .relend g c x) (fun g c => .relend g c x) (h.foldedInto y) _).mono
      (fun c ⟨z, m, org⟩ => ⟨z, List.mem_cons_of_mem y m, by rwa [floor] at org⟩) fun _ => id)

theorem foldMixed_carries (now : Clock) {z : FloorId} {c : ChannelId} (m : z ∈ y :: h.foldedInto y)
    (org : ((h.foldMoved now x y).floor z).original? = some c)
    (use : ((h.foldMoved now x y).channels.get c).use ≠ none) : (h.foldMixed now x y).Carries c x := by
  unfold foldMixed foldOriginals
  generalize h.foldMoved now x y = k at org use ⊢
  have keep := fun (g : Hall) (d : ChannelId) => Reaches.relend (Q := fun _ => False) g d x
  have still := fun (g : Hall) (d : ChannelId) (used : (g.channels.get d).use ≠ none) => relend_used used x
  obtain rfl | m := List.mem_cons.mp m
  · exact mixOriginals_keep keep still _ (mixOriginal_carries (fun g d used => lend_used used x) org use)
  · refine mixOriginals_carry keep still (fun g d => .relend g d x) m ?_
      (mixOriginal_used (fun g d => .lend g d x) (fun g d used => lend_used used x) use)
    rw [(Speechless.mixOriginal k y x (move := fun g c => g.lend c x) fun g c => .lend g c x).floor]
    exact org

end Hall

end Sys2Proof

/-! PROOFS. The fold's clause on channels and outputs (08 R143, R144). -/

namespace Sys2Proof

open Hall

theorem Hall.board_original (h : Hall) (f : FloorId) : h.board.original f = (h.floor f).original? := rfl

theorem Hall.board_out (h : Hall) (b : BoothId) (o : Out) : h.board.out b o = (h.output b o).use := rfl

theorem Hall.board_home (h : Hall) (b : BoothId) : h.board.home b = (h.booths.get b).floor := rfl

section

variable {h : Hall} {x y : FloorId}

/-- An output of a booth of y, or of a floor folded into y. -/
def Hall.Follows (h : Hall) (y : FloorId) (p : BoothId × Out) : Prop :=
  ∃ z ∈ y :: h.foldedInto y, h.board.home p.1 = some z

/-- The original channels have followed: what the invariant keeps, and which outputs are placed next. -/
theorem Hall.foldMixed_carried (i : h.board.Inv) (now : Clock) (ne : x ≠ y) (liveX : (h.floor x).state = .live)
    (liveY : (h.floor y).state = .live) : Carried h.board.state (h.foldMoved now x y) (h.foldMixed now x y) ∧
      (h.foldMixed now x y).board.state x = .live ∧
      (∀ z ∈ y :: h.foldedInto y, (h.foldMixed now x y).board.state z = .folded x) ∧
      ∀ p, p ∈ h.foldedOutputs now x y ↔ h.Follows y p := by
  obtain ⟨start, state, -⟩ := i.foldMoved now ne liveX liveY
  obtain ⟨-, -, home⟩ := foldMoved_sound now h ne
  have moved : ∀ z ∈ y :: h.foldedInto y, (h.foldMoved now x y).board.state z = .folded x := fun z m => by
    rw [state, if_pos (List.mem_cons.mp m)]
  have carried : Carried h.board.state (h.foldMoved now x y) (h.foldMixed now x y) :=
    (Carried.foldOriginals start moved liveY fun z m => mem_foldedInto.mp m).1
  refine ⟨carried, ?_, fun z m => by rw [carried.state]; exact moved z m, fun p => ?_⟩
  · rw [carried.state, state, if_neg (by simp [ne, live_not_folded liveX])]
    exact liveX
  · rw [foldedOutputs, mem_boothOutputs, mem_boothsOf, carried.home, home]
    rfl

/-- A channel that a fold leaves until it comes to an output: that of another output, or of no floor that follows. -/
theorem Hall.foldMixed_leaves (i : h.board.Inv) (now : Clock) (ne : x ≠ y) (liveX : (h.floor x).state = .live)
    (liveY : (h.floor y).state = .live) {c : ChannelId} {w : ChanUse} (use : h.board.use c = some w)
    (rest : w.origin ≠ .original ∨ w.owner ∉ y :: h.foldedInto y) : (h.foldMixed now x y).board.use c = some w := by
  obtain ⟨-, -, original⟩ := i.foldMoved now ne liveX liveY
  obtain ⟨uses, -, -⟩ := foldMoved_sound now h ne
  have reach := (h.foldMixed_reaches now x y).channels c fun ⟨z, m, org⟩ => by
    rw [← board_original, original] at org
    obtain ⟨w', use', owner, origin⟩ := i.woven.originals z c org
    obtain rfl := Option.some.inj (use.symm.trans use')
    obtain k | k := rest
    · exact k origin
    · exact k (owner ▸ m)
  rw [board_use, reach, ← board_use, uses]
  exact use

/-- The languages and channels of outputs, once the original channels have followed. -/
theorem Hall.foldMixed_spoken (now : Clock) (h : Hall) (ne : x ≠ y) (p : BoothId × Out) :
    (h.foldMixed now x y).spoken p = h.spoken p := by
  obtain ⟨-, outs, -⟩ := foldMoved_sound now h ne
  have same : ((h.foldMoved now x y).output p.1 p.2).use = (h.output p.1 p.2).use := congrFun (congrFun outs p.1) p.2
  rw [(h.foldMixed_reaches now x y).spoken, spoken, spoken, same]

/-- The hall in which a fold comes to one of its outputs, and what it finds there. -/
theorem Hall.foldPlaces (i : h.board.Inv) (now : Clock) (ne : x ≠ y) (liveX : (h.floor x).state = .live)
    (liveY : (h.floor y).state = .live) {p : BoothId × Out} {u : OutUse} (follows : h.Follows y p)
    (used : h.board.out p.1 p.2 = some u) :
    ∃ a : Hall, a.board.Linked h.board.state ∧ a.board.state x = .live ∧ (a.output p.1 p.2).use = some u ∧
      (∀ q, a.spoken q = h.spoken q) ∧
      (∀ c w, h.board.use c = some w → c = u.chan ∨ w.owner ∉ y :: h.foldedInto y → a.board.use c = some w) ∧
      ((h.foldInto now x y).output p.1 p.2).use = ((a.placeOutput x p).output p.1 p.2).use := by
  obtain ⟨carried, live, moved, members⟩ := foldMixed_carried i now ne liveX liveY
  obtain ⟨-, outs, home⟩ := foldMoved_sound now h ne
  have nodup : (h.foldedOutputs now x y).Nodup := boothOutputs_nodup (boothsOf_nodup _ _)
  obtain ⟨s, t, split⟩ := List.append_of_mem ((members p).mpr follows)
  rw [split] at nodup
  obtain ⟨-, nodupT, apart⟩ := List.nodup_append.mp nodup
  have outS : p ∉ s := fun m => apart p m p List.mem_cons_self rfl
  have outT : p ∉ t := (List.nodup_cons.mp nodupT).1
  have inside : ∀ q ∈ s, h.Follows y q := fun q m => (members q).mp (by rw [split]; exact List.mem_append_left _ m)
  have reach := Reaches.outputs_foldl (fun g q => Reaches.placeOutput g x q) s (h.foldMixed now x y)
  obtain ⟨placed, -⟩ := Carried.placeOutputs carried.linked live (ps := s) fun q m => by
    obtain ⟨z, mz, at_⟩ := inside q m
    exact ⟨z, by rw [carried.home, home]; exact at_, moved z mz⟩
  obtain ⟨v, use, origin, -, -, -⟩ := i.woven.use_of_output used
  refine ⟨s.foldl (Hall.placeOutput x) (h.foldMixed now x y), placed.linked, by rw [placed.state]; exact live, ?_,
    fun q => ?_, fun c w use' rest => ?_, ?_⟩
  · rw [reach.outputs p outS, (h.foldMixed_reaches now x y).outputs p id]
    exact (congrFun (congrFun outs p.1) p.2).trans used
  · rw [reach.spoken, foldMixed_spoken now h ne]
  · have mixed := foldMixed_leaves i now ne liveX liveY use' (by
      obtain rfl | k := rest
      · obtain rfl := Option.some.inj (use.symm.trans use')
        exact .inl (by rw [origin]; exact ChanOrigin.noConfusion)
      · exact .inr k)
    rw [board_use, reach.channels c, ← board_use, mixed]
    rintro ⟨q, m, chan⟩
    obtain ⟨z, mz, at_⟩ := inside q m
    have spoken := foldMixed_spoken now h ne q
    obtain ⟨v', used', rfl⟩ := Option.map_eq_some_iff.mp chan
    rw [Hall.spoken, used'] at spoken
    obtain ⟨v'', used'', same⟩ := Option.map_eq_some_iff.mp spoken.symm
    obtain ⟨-, chan⟩ := Prod.mk.inj same
    obtain ⟨w'', use'', origin'', -, -, home''⟩ := i.woven.use_of_output (b := q.1) (o := q.2) used''
    rw [chan] at use''
    obtain rfl := Option.some.inj (use'.symm.trans use'')
    obtain e | k := rest
    · rw [e, use] at use'
      obtain rfl := Option.some.inj use'
      rw [origin] at origin''
      injection origin'' with e₁ e₂
      exact outS (Prod.ext e₁ e₂ ▸ m)
    · obtain rfl := Option.some.inj (home''.symm.trans at_)
      exact k mz
  · have tail := Reaches.outputs_foldl (fun g q => Reaches.placeOutput g x q) t
      (Hall.placeOutput x (s.foldl (Hall.placeOutput x) (h.foldMixed now x y)) p)
    rw [output_of_booths (booths_of_sound (foldInto_sound now h x y)), foldCarried_eq,
      (Reaches.servingChanged _ _).outputs p id, split, List.foldl_append, List.foldl_cons, tail.outputs p outT]

/-- Channels and outputs are those once the outputs have followed. -/
theorem Hall.foldInto_board (now : Clock) (h : Hall) (x y : FloorId) :
    (h.foldInto now x y).board = (h.foldCarried now x y).board :=
  board_settleFold _ now x y _

theorem Hall.foldCarried_carried (i : h.board.Inv) (now : Clock) (ne : x ≠ y) (liveX : (h.floor x).state = .live)
    (liveY : (h.floor y).state = .live) : Carried h.board.state (h.foldMoved now x y) (h.foldCarried now x y) := by
  obtain ⟨carried, live, moved, -⟩ := foldMixed_carried i now ne liveX liveY
  exact carried.trans (Carried.foldOutputs carried.linked live moved).1

/-- The owners, homes and original channels that a fold leaves. -/
theorem Hall.foldInto_places (i : h.board.Inv) (now : Clock) (ne : x ≠ y) (liveX : (h.floor x).state = .live)
    (liveY : (h.floor y).state = .live) :
    (∀ z ∈ y :: h.foldedInto y, (h.foldInto now x y).board.state z = .folded x) ∧
      (h.foldInto now x y).board.home = h.board.home ∧ (h.foldInto now x y).board.original = h.board.original := by
  obtain ⟨-, state, original⟩ := i.foldMoved now ne liveX liveY
  obtain ⟨-, -, home⟩ := foldMoved_sound now h ne
  have carried := foldCarried_carried i now ne liveX liveY
  rw [foldInto_board, carried.home, carried.original, carried.state]
  exact ⟨fun z m => by rw [state, if_pos (List.mem_cons.mp m)], home, original⟩

/-- The original channel of a floor that follows carries the mix of x (08 R143). -/
theorem Hall.foldInto_carries (i : h.board.Inv) (now : Clock) (ne : x ≠ y) (liveX : (h.floor x).state = .live)
    (liveY : (h.floor y).state = .live) {z : FloorId} {c : ChannelId} (m : z ∈ y :: h.foldedInto y)
    (org : h.board.original z = some c) : (h.foldInto now x y).Carries c x := by
  obtain ⟨start, -, original⟩ := i.foldMoved now ne liveX liveY
  obtain ⟨carried, -⟩ := foldMixed_carried i now ne liveX liveY
  rw [← original] at org
  obtain ⟨u, use, -⟩ := start.woven.originals z c org
  have mixed := foldMixed_carries now m (by rw [← board_original]; exact org)
    (by rw [← board_use, use]; exact Option.some_ne_none u)
  have unspoken : (h.foldMixed now x y).Unspoken c := unspoken_of_original carried.linked (by
    rw [← board_original, carried.original]
    exact org)
  have outputs := Reaches.outputs_foldl (fun g q => Reaches.placeOutput g x q) (h.foldedOutputs now x y)
    (h.foldMixed now x y)
  have served := Reaches.servingChanged ((h.foldedOutputs now x y).foldl (Hall.placeOutput x) (h.foldMixed now x y))
    ((h.foldMixed now x y).boothsOf (y :: h.foldedInto y))
  have done : (h.foldCarried now x y).Carries c x := by
    rw [foldCarried_eq]
    exact (mixed.outputs outputs fun ⟨q, _, chan⟩ => unspoken q.1 q.2 chan).outputs served fun ⟨q, chan⟩ =>
      unspoken q.1 q.2 (by rwa [outputs.chan] at chan)
  unfold Carries
  rw [channels_of_sound (foldInto_sound now h x y)]
  exact done

/-- A language taken on x before a fold is taken when the fold comes to an output. -/
theorem Hall.foldTaken (i : h.board.Inv) (ne : x ≠ y) (liveY : (h.floor y).state = .live) {a : Hall}
    (live : a.board.state x = .live) {l : Lang}
    (leaves : ∀ c w, h.board.use c = some w → w.owner ∉ y :: h.foldedInto y → a.board.use c = some w)
    (taken : h.languageTaken x l = true) : a.languageTaken x l = true := by
  obtain ⟨-, c, w, use, map, lang⟩ := h.languageTaken_iff.mp taken
  refine a.languageTaken_iff.mpr ⟨live, c, w, leaves c w use fun m => ?_, map, lang⟩
  exact i.map_of_owner ne use liveY ((List.mem_cons.mp m).imp_right mem_foldedInto.mp) map

/-- A language that no other channel has is not taken on x when the fold comes to its output. -/
theorem Hall.foldFree (i : h.board.Inv) (ne : x ≠ y) (liveY : (h.floor y).state = .live) {a : Hall}
    {old : FloorId → FloorState} (link : a.board.Linked old) (spoken : ∀ q, a.spoken q = h.spoken q) {p : BoothId × Out}
    {u : OutUse} (follows : h.Follows y p) (used : h.board.out p.1 p.2 = some u)
    (kept : ∀ w, h.board.use u.chan = some w → a.board.use u.chan = some w)
    (sole : ∀ c v, c ≠ u.chan → (h.channels.get c).use = some v → v.lang ≠ some u.lang) :
    a.languageTaken x u.lang = false := by
  obtain ⟨w, use, -, -, nonzero, home⟩ := i.woven.use_of_output used
  rw [Bool.eq_false_iff]
  intro taken
  obtain ⟨-, c, v, use', map, lang⟩ := a.languageTaken_iff.mp taken
  obtain ⟨b', o', v', out, rfl, lang'⟩ := link.spoken_of_lang use' lang nonzero
  have before : (h.output b' o').use.map (fun u => (u.lang, u.chan)) = some (u.lang, v'.chan) := by
    have same := spoken (b', o')
    have out : (a.output b' o').use = some v' := out
    rw [Hall.spoken, Hall.spoken, out] at same
    rw [← same, ← lang']
    rfl
  obtain ⟨v₀, used₀, same₀⟩ := Option.map_eq_some_iff.mp before
  obtain ⟨lang₀, chan₀⟩ := Prod.mk.inj same₀
  obtain ⟨w₀, use₀, -, spoken₀, -⟩ := i.woven.use_of_output (b := b') (o := o') used₀
  by_cases e : v'.chan = u.chan
  · obtain rfl := Option.some.inj ((kept w use).symm.trans (e ▸ use'))
    obtain ⟨z, m, at_⟩ := follows
    obtain rfl := Option.some.inj (home.symm.trans at_)
    exact i.map_of_owner ne use liveY ((List.mem_cons.mp m).imp_right mem_foldedInto.mp) map
  · exact sole v'.chan w₀ e (by rw [← board_use, ← chan₀]; exact use₀) (by rw [spoken₀, lang₀])

end

theorem foldChannels (now : Clock) (h : Hall) (x y : FloorId) (ne : x ≠ y) (liveX : (h.floor x).state = .live)
    (liveY : (h.floor y).state = .live) (i : Machine.ChannelInv h) : ∃ t, t = h.foldInto now x y ∧
      (∀ z c, z = y ∨ (h.floor z).state = .folded y → (h.floor z).original? = some c →
        t.channels.get c = ⟨some ⟨.lent x, z, none, .original⟩, .floorMix x⟩) ∧
      ∀ b o z u, z = y ∨ (h.floor z).state = .folded y → (h.booths.get b).floor = some z →
        (h.output b o).use = some u →
        (u.state = .held ∨ h.languageTaken x u.lang = true →
          (t.output b o).use = some { u with state := .held } ∧
          (t.channels.get u.chan).use = some ⟨.reserved, z, some u.lang, .output b o⟩) ∧
        (u.state ≠ .held →
          (∀ c v, c ≠ u.chan → (h.channels.get c).use = some v → v.lang ≠ some u.lang) →
          (t.output b o).use = some u ∧
          (t.channels.get u.chan).use = some ⟨.lent x, z, some u.lang, .output b o⟩) := by
  have i := channelInv_iff.mp i
  have after := i.foldInto now ne liveX liveY
  obtain ⟨folded, home, original⟩ := Hall.foldInto_places i now ne liveX liveY
  have follow : ∀ {z}, z = y ∨ (h.floor z).state = .folded y → z ∈ y :: h.foldedInto y := fun m =>
    List.mem_cons.mpr (m.imp_right mem_foldedInto.mpr)
  refine ⟨_, rfl, fun z c m org => ?_, fun b o z u m at_ used => ?_⟩
  · have use := after.original_lent (folded z (follow m)) (by rw [original]; exact org)
    obtain ⟨-, content⟩ := Hall.foldInto_carries i now ne liveX liveY (follow m) org
    rw [board_use] at use
    rw [← use, ← content]
  · have follows : h.Follows y (b, o) := ⟨z, follow m, at_⟩
    obtain ⟨a, link, live, use, spoken, leaves, last⟩ := Hall.foldPlaces i now ne liveX liveY follows used
    have channel : ∀ {v : OutUse}, ((h.foldInto now x y).output b o).use = some v →
        ((h.foldInto now x y).channels.get v.chan).use =
          some ⟨if v.state = .held then .reserved else .lent x, z, some v.lang, .output b o⟩ := fun out => by
      rw [← board_use]
      exact after.output_folded (folded z (follow m)) (by rw [home]; exact at_) out
    refine ⟨fun stays => ?_, fun unheld sole => ?_⟩
    · have placed := last.trans (placeOutput_held use (stays.imp_right
        (Hall.foldTaken i ne liveY live fun c w use out => leaves c w use (.inr out))))
      exact ⟨placed, channel placed⟩
    · have placed := last.trans (placeOutput_carried use unheld
        (Hall.foldFree i ne liveY link spoken follows used (fun w use => leaves _ w use (.inl rfl)) sole))
      have lent := channel placed
      rw [if_neg unheld] at lent
      exact ⟨placed, lent⟩

end Sys2Proof

/-! PROOFS. The records of a floor that revives, and of the floor it leaves (08 R147 to R151). -/

namespace Sys2Proof

namespace Hall

/-! ## The floor that revives (03 section 3.2, 08 R147) -/

/-- Floor r ranks at least as high as floor z: the higher precedence, on a tie the lower number. -/
def Outranks (h : Hall) (r z : FloorId) : Prop :=
  (h.floor z).precedence < (h.floor r).precedence ∨ (h.floor z).precedence = (h.floor r).precedence ∧ r ≤ z

/-- The choice of the highest floor in a list, as a fold. -/
def rankStep (h : Hall) (best : Option FloorId) (f : FloorId) : Option FloorId :=
  match best with
  | some g => if (h.floor g).precedence < (h.floor f).precedence then some f else some g
  | none => some f

theorem ranked_cons (h : Hall) (f : FloorId) (fs : List FloorId) : h.ranked (f :: fs) = fs.foldl h.rankStep (some f) := rfl

theorem rankStep_outranks {h : Hall} (fs : List FloorId) {b r : FloorId} (ascending : (b :: fs).Pairwise (· < ·))
    (pick : fs.foldl h.rankStep (some b) = some r) : ∀ z ∈ b :: fs, h.Outranks r z := by
  induction fs generalizing b with
  | nil =>
    obtain rfl := Option.some.inj pick
    exact fun z m => .inr (by obtain rfl := List.mem_singleton.mp m; exact ⟨rfl, le_refl _⟩)
  | cons f fs ih =>
    obtain ⟨below, rest⟩ := List.pairwise_cons.mp ascending
    obtain ⟨above, tail⟩ := List.pairwise_cons.mp rest
    rw [List.foldl_cons] at pick
    have bf : b < f := below f List.mem_cons_self
    by_cases higher : (h.floor b).precedence < (h.floor f).precedence
    · -- f replaces b, and ranks above it
      have step : h.rankStep (some b) f = some f := if_pos higher
      rw [step] at pick
      have all := ih rest pick
      intro z m
      obtain rfl | m := List.mem_cons.mp m
      · obtain k | ⟨k, -⟩ := all f List.mem_cons_self
        · exact .inl (higher.trans k)
        · exact .inl (k ▸ higher)
      · exact all z m
    · -- b stays, and f ranks no higher
      have step : h.rankStep (some b) f = some b := if_neg higher
      rw [step] at pick
      have all := ih (List.pairwise_cons.mpr ⟨fun g m => below g (List.mem_cons_of_mem f m), tail⟩) pick
      intro z m
      obtain rfl | m := List.mem_cons.mp m
      · exact all z List.mem_cons_self
      obtain rfl | m := List.mem_cons.mp m
      · obtain k | ⟨k, le⟩ := all b List.mem_cons_self
        · exact .inl (lt_of_le_of_lt (not_lt.mp higher) k)
        · obtain low | same := lt_or_eq_of_le (not_lt.mp higher)
          · exact .inl (k ▸ low)
          · exact .inr ⟨same.trans k, le.trans bf.le⟩
      · exact all z (List.mem_cons_of_mem b m)

theorem ranked_outranks {h : Hall} {fs : List FloorId} {r : FloorId} (ascending : fs.Pairwise (· < ·))
    (pick : h.ranked fs = some r) : ∀ z ∈ fs, h.Outranks r z := by
  cases fs with
  | nil => exact fun z m => by cases m
  | cons f fs => exact rankStep_outranks fs ascending pick

theorem anchoredIn_ascending (h : Hall) (x : FloorId) (c : SecSet) : (h.anchoredIn x c).Pairwise (· < ·) := by
  unfold anchoredIn foldedInto
  rw [Tbl.positions_eq]
  exact ((List.pairwise_lt_finRange 6).filter _).filter _

/-! ## The records of a revival -/

variable {h : Hall} {x r : FloorId} {others : List FloorId}

/-- The lists of the revived floor once the speakers of the component have come (08 R150). -/
theorem reviveEntries_floor (now : Clock) (k : Hall) (ne : x ≠ r) (c : SecSet) :
    ∃ s q l, (k.reviveEntries now x r c).floor r =
      { k.floor r with speakers := s, queue := q, lastRemoval := l } := by
  rw [reviveEntries_eq]
  have locS : LocalTo r (k.carrySpeakers r x (fun f => { f with speakers := f.speakers.filter fun e => !k.sits c e.seat })
      (k.speakersIn x c)) (k.reviveSpeakers now x r c) :=
    (LocalTo.closeExcess now _ r _).trans (LocalTo.checkBadges now _ r _)
  obtain ⟨mR, -, -⟩ := floor_of_upds ne.symm (k.carrySpeakers_floors
    (fun f => { f with speakers := f.speakers.filter fun e => !k.sits c e.seat }) r x (k.speakersIn x c))
  obtain ⟨s₁, q₁, l₁, record₁⟩ := locS.lists
  rw [mR] at record₁
  generalize k.reviveSpeakers now x r c = s at record₁ ⊢
  obtain ⟨qR, -, -⟩ := floor_of_upds ne.symm (s.carryQueue_floors
    (fun f => { f with queue := f.queue.filter fun e => !s.sits c e.seat }) r x (s.queueIn x c))
  obtain ⟨s₂, q₂, l₂, record₂⟩ := (LocalTo.settleQueue (s.carryQueue r x
    (fun f => { f with queue := f.queue.filter fun e => !s.sits c e.seat }) (s.queueIn x c)) r
    ((s.queueIn x c).map (·.seat))).lists
  exact ⟨s₂, q₂, l₂, by rw [record₂, qR, record₁]⟩

/-- The record of the revived floor (08 R149, R151). -/
theorem revive_revived (now : Clock) (h : Hall) (ne : x ≠ r) (c : SecSet) (outX : x ∉ others) (outR : r ∉ others) :
    ((h.revive now x r others c).floor r).state = .live ∧ ((h.revive now x r others c).floor r).members = c ∧
      ((h.revive now x r others c).floor r).home = 0#12 ∧
      ((h.revive now x r others c).floor r).swapPending = false ∧
      ((h.revive now x r others c).floor r).requestHolds = false ∧
      ((h.revive now x r others c).floor r).holders = (h.floor x).holders.filter fun n => h.sits c n := by
  obtain ⟨state, members, home, pending, holders, requests, -⟩ := Floor.of_roll ((h.revive_rolls now x r others c).1 r)
  obtain ⟨atR, atX, -⟩ := reviveRecords_floor (h := h) ne c outX outR
  obtain ⟨s, q, l, entries⟩ := (h.reviveRecords x r others c).reviveEntries_floor now ne c
  have parted := (parted_floor now (h := h) ne others c).2.1
  rw [entries, atR, atX] at parted
  rw [state, members, home, pending, holders, requests, parted]
  exact ⟨rfl, rfl, rfl, rfl, rfl, rfl⟩

/-- The record of the floor that it leaves. -/
theorem revive_left (now : Clock) (h : Hall) (ne : x ≠ r) (c : SecSet) (outX : x ∉ others) (outR : r ∉ others) :
    ((h.revive now x r others c).floor x).state = (h.floor x).state ∧
      ((h.revive now x r others c).floor x).members = (h.floor x).members &&& ~~~c ∧
      ((h.revive now x r others c).floor x).holders = (h.floor x).holders.filter (fun n => !h.sits c n) ∧
      ((h.revive now x r others c).floor x).speakers.map (·.seat) =
        ((h.floor x).speakers.map (·.seat)).filter (fun n => !h.sits c n) ∧
      ((h.revive now x r others c).floor x).queue = (h.floor x).queue.filter fun w => !h.sits c w.seat := by
  have roll := (h.revive_rolls now x r others c).1 x
  obtain ⟨state, members, -, -, holders, -, queue, -⟩ := Floor.of_roll roll
  obtain ⟨-, atX, -⟩ := reviveRecords_floor (h := h) ne c outX outR
  have parted := (parted_floor now (h := h) ne others c).1
  rw [atX] at parted
  rw [state, members, holders, queue, Floor.seats_of_roll roll, parted]
  refine ⟨rfl, rfl, rfl, ?_, rfl⟩
  rw [List.filter_map]
  rfl

/-- The records of the other floors. -/
theorem revive_rest (now : Clock) (h : Hall) (ne : x ≠ r) (c : SecSet) (outX : x ∉ others) (outR : r ∉ others)
    {f : FloorId} (nx : f ≠ x) (nr : f ≠ r) : (h.revive now x r others c).floor f =
      if f ∈ others then { h.floor f with state := .folded r } else h.floor f := by
  rw [(h.revive_rolls now x r others c).2 f nx nr, (parted_floor now ne others c).2.2 f nx nr,
    (reviveRecords_floor ne c outX outR).2.2 f nx nr]

/-! ## A revival without an excess and without a badge check -/

/-- All speakers of the component stand in the revived floor's list, its queue is trimmed to its cap (08 R150). -/
theorem reviveEntries_whole (now : Clock) {k : Hall} (l : k.Listed) (ne : x ≠ r) (c : SecSet)
    (silent : (k.floor r).speakers = []) (idle : (k.floor r).queue = [])
    (room : (k.speakersIn x c).countP (fun e => e.kind = .delegate) ≤ (k.floor r).bank.limit)
    (open_ : (k.floor r).bank.badgeRequired = false) :
    ((k.reviveEntries now x r c).floor r).speakers = k.speakersIn x c ∧
      ((k.reviveEntries now x r c).floor r).queue = (k.queueIn x c).take (k.floor r).bank.cap := by
  rw [reviveEntries_eq]
  have moved := l.carrySpeakers (x := r) (y := x) ne.symm
    (k := fun f => { f with speakers := f.speakers.filter fun e => !k.sits c e.seat }) (fun e => k.sits c e.seat) rfl rfl
  obtain ⟨mR, mX, -⟩ := floor_of_upds ne.symm (k.carrySpeakers_floors
    (fun f => { f with speakers := f.speakers.filter fun e => !k.sits c e.seat }) r x (k.speakersIn x c))
  have steady : Steady k (k.carrySpeakers r x
      (fun f => { f with speakers := f.speakers.filter fun e => !k.sits c e.seat }) (k.speakersIn x c)) :=
    (((Steady.updFloor k x _).trans (Steady.raiseIf _ _ _)).trans ((Steady.updFloor _ r _).trans
      (Steady.moveSlots _ r _))).trans (Steady.raiseIf _ _ _)
  have spoken : k.reviveSpeakers now x r c = k.carrySpeakers r x
      (fun f => { f with speakers := f.speakers.filter fun e => !k.sits c e.seat }) (k.speakersIn x c) := by
    refine closeAndCheck_none now _ _ ?_ ?_
    · rw [mR, Floor.delegates, silent]
      exact room
    · rw [mR]
      exact open_
  rw [spoken]
  change (k.carrySpeakers r x (fun f => { f with speakers := f.speakers.filter fun e => !k.sits c e.seat })
    (k.speakersIn x c)).Listed at moved
  generalize k.carrySpeakers r x (fun f => { f with speakers := f.speakers.filter fun e => !k.sits c e.seat })
    (k.speakersIn x c) = s at moved mR mX steady ⊢
  have queued := moved.carryQueue (x := r) (y := x) ne.symm
    (k := fun f => { f with queue := f.queue.filter fun e => !s.sits c e.seat }) (fun e => s.sits c e.seat) rfl rfl
  obtain ⟨qR, -, -⟩ := floor_of_upds ne.symm (s.carryQueue_floors
    (fun f => { f with queue := f.queue.filter fun e => !s.sits c e.seat }) r x (s.queueIn x c))
  have queueIn : s.queueIn x c = k.queueIn x c := by
    rw [Hall.queueIn, mX]
    exact List.filter_congr fun w _ => steady.sits c w.seat
  change (s.carryQueue r x (fun f => { f with queue := f.queue.filter fun e => !s.sits c e.seat })
    (s.queueIn x c)).Listed at queued
  generalize s.carryQueue r x (fun f => { f with queue := f.queue.filter fun e => !s.sits c e.seat })
    (s.queueIn x c) = q at queued qR ⊢
  have trim : q.settleQueue r ((s.queueIn x c).map (·.seat)) = q.trimQueue r .mergeOverflow := by
    have none_ : (q.floor r).bank.badgeRequired = false := by
      rw [qR, mR]
      exact open_
    rw [settleQueue, none_]
    rfl
  obtain ⟨speakers, queue⟩ := queued.trimQueue_lists r .mergeOverflow
  rw [trim, speakers, queue, qR, mR, silent, idle, queueIn]
  exact ⟨rfl, rfl⟩

/-- The lists of the revived floor, when nothing is closed and no badge is required. -/
theorem revive_lists (now : Clock) (i : Machine.SpeechInv h) (c : SecSet) (ne : x ≠ r) (outX : x ∉ others)
    (outR : r ∉ others) (folded : ∀ f, f = r ∨ f ∈ others → (h.floor f).state ≠ .live)
    (room : (h.speakersIn x c).countP (fun e => e.kind = .delegate) ≤ (h.floor r).bank.limit)
    (open_ : (h.floor r).bank.badgeRequired = false) :
    ((h.revive now x r others c).floor r).speakers.map (·.seat) = (h.speakersIn x c).map (·.seat) ∧
      ((h.revive now x r others c).floor r).queue = (h.queueIn x c).take (h.floor r).bank.cap := by
  have roll := (h.revive_rolls now x r others c).1 r
  obtain ⟨-, -, -, -, -, -, queue, -⟩ := Floor.of_roll roll
  obtain ⟨atR, atX, -⟩ := reviveRecords_floor (h := h) ne c outX outR
  obtain ⟨silent, idle⟩ := (i.fits r).empty (folded r (.inl rfl))
  have sits : ∀ n, (h.reviveRecords x r others c).sits c n = h.sits c n := (Steady.reviveRecords h x r others c).sits c
  have speakersIn : (h.reviveRecords x r others c).speakersIn x c = h.speakersIn x c := by
    rw [Hall.speakersIn, atX]
    exact List.filter_congr fun e _ => sits e.seat
  have queueIn : (h.reviveRecords x r others c).queueIn x c = h.queueIn x c := by
    rw [Hall.queueIn, atX]
    exact List.filter_congr fun w _ => sits w.seat
  have bank : ((h.reviveRecords x r others c).floor r).bank = (h.floor r).bank := by
    rw [atR]
    rfl
  obtain ⟨speakers', queue'⟩ := reviveEntries_whole now (i.reviveRecords ne c outX outR folded).listed ne c
    (by rw [atR]; exact silent) (by rw [atR]; exact idle) (by rw [speakersIn, bank]; exact room)
    (by rw [bank]; exact open_)
  have parted := (parted_floor now (h := h) ne others c).2.1
  rw [queue, Floor.seats_of_roll roll, parted]
  simp only [speakers', queue', speakersIn, queueIn, bank, and_self]

theorem revive_stands (now : Clock) (h : Hall) (x r : FloorId) (others : List FloorId) (c : SecSet) {z : FloorId}
    (m : z = r ∨ z ∈ others) : (h.revive now x r others c).stands (.foldChanged z) = true := by
  rw [revive_eq]
  exact (Steady.recomposeFloor _ r).stands (raiseFold_stands _ (List.mem_cons.mpr m))

end Hall

end Sys2Proof

/-! PROOFS. The channels and outputs of a revival (08 R152), and its clause. -/

namespace Sys2Proof

open Hall

/-! ## One output given back -/

namespace Hall

variable {h : Hall} {b : BoothId} {o : Out} {u : OutUse}

/-- The state in which an output is given back: HELD becomes SILENT with its delay started, or FALLBACK without one
(07 R118, R136). -/
def restored (h : Hall) (b : BoothId) (st : OutState) : OutState :=
  if st = .held then
    (if (h.booths.get b).delay = 0 then .fallback else .silent ((h.booths.get b).delay * 10))
  else st

theorem enterSilent_use (use : (h.output b o).use = some u) :
    ((h.enterSilent b o).output b o).use = some { u with state := h.silence b } := by
  have use : h.board.out b o = some u := use
  show (h.enterSilent b o).board.out b o = _
  rw [board_enterSilent, Board.setState, Board.setOut_out, if_pos ⟨rfl, rfl⟩, use]
  rfl

theorem giveBackOutput_use (use : (h.output b o).use = some u) :
    ((h.giveBackOutput (b, o)).output b o).use = some { u with state := h.restored b u.state } := by
  have given := Reaches.giveBack (Q := fun _ => False) h u.chan
  have use' : ((h.giveBack u.chan).output b o).use = some u := (given.outputs (b, o) id).trans use
  simp only [giveBackOutput, use]
  unfold restored
  split
  · rw [restoreOutput, recomposeDesks, output_of_booths (recomposeAll_booths _ _), enterSilent_use use', silence,
      given.delays]
  · exact use'

end Hall

/-! ## The revival step by step -/

namespace Hall

variable {h : Hall} {x r : FloorId} {others : List FloorId}

/-- The hall of a revival once the channels have followed (08 R152). -/
def reviveCarriedAll (now : Clock) (h : Hall) (x r : FloorId) (others : List FloorId) (c : SecSet) : Hall :=
  (h.reviveHeld now x r others c).reviveChannels r others

theorem revive_carried (now : Clock) (h : Hall) (x r : FloorId) (others : List FloorId) (c : SecSet) :
    h.revive now x r others c = (((h.reviveCarriedAll now x r others c).reviveListen x r others c).raiseFold
      (r :: others)).recomposeFloor r := rfl

theorem revive_board (now : Clock) (h : Hall) (x r : FloorId) (others : List FloorId) (c : SecSet) :
    (h.revive now x r others c).board = (h.reviveCarriedAll now x r others c).board := by
  rw [revive_carried, board_recomposeFloor, board_raiseFold, board_reviveListen]

theorem revive_sound (now : Clock) (h : Hall) (x r : FloorId) (others : List FloorId) (c : SecSet) :
    (h.revive now x r others c).sound = (h.reviveCarriedAll now x r others c).sound := by
  rw [revive_carried]
  generalize h.reviveCarriedAll now x r others c = g
  have listen : (g.reviveListen x r others c).sound = g.sound := by
    have removed := (Relists.removeAdopted g x fun z => z = r || others.contains z).sound
    unfold reviveListen
    generalize g.removeAdopted x (fun z => z = r || others.contains z) = k at removed ⊢
    refine (Sound.retune _ _).trans ?_
    split
    · exact removed
    · exact (Relists.adoptionPass k r).sound.trans removed
  refine ((Sound.recomposeAll _ _).trans (Sound.recomposeAll _ _)).trans ?_
  exact (foldl_keeps (part := Hall.sound) (fun g f => Sound.raise g (.foldChanged f)) _ _).trans listen

/-- The original channel of the revived floor returned. -/
def reviveOwn (k : Hall) (r : FloorId) : Hall := k.mixOriginal r r fun g c => g.giveBack c

/-- The outputs of the revived floor given back. -/
def reviveGiven (k : Hall) (r : FloorId) : Hall :=
  (boothOutputs ((k.reviveOwn r).boothsOf [r])).foldl Hall.giveBackOutput (k.reviveOwn r)

theorem reviveChannels_eq (k : Hall) (r : FloorId) (others : List FloorId) : k.reviveChannels r others =
    (others.foldl (Hall.reviveCarried r) (k.reviveGiven r)).servingChanged
      ((others.foldl (Hall.reviveCarried r) (k.reviveGiven r)).boothsOf (r :: others)) := rfl

/-- One of the other floors taken along reaches its original channel, its outputs and their channels. -/
theorem reviveCarried_reaches (r : FloorId) (g : Hall) (z : FloorId) : Reaches
    (fun c => (g.floor z).original? = some c ∨ ∃ p : BoothId × Out, (g.output p.1 p.2).chan? = some c)
    (· ∈ boothOutputs (g.boothsOf [z])) g (Hall.reviveCarried r g z) := by
  have own := Reaches.mixOriginal (Q := (· ∈ boothOutputs (g.boothsOf [z]))) g z r (move := fun g c => g.relend c r)
    fun c => .relend g c r
  have outputs := Reaches.outputs_foldl (fun g q => Reaches.placeOutput g r q) (boothOutputs (g.boothsOf [z]))
    (g.mixOriginal z r fun g c => g.relend c r)
  exact (own.mono (fun c => .inl) fun _ => id).trans
    (outputs.mono (fun c ⟨q, _, chan⟩ => .inr ⟨q, by rwa [own.chan] at chan⟩) fun _ => id)

/-- A channel of no output that carries r's mix goes on carrying it as another floor is taken along. -/
theorem reviveCarried_carries {g : Hall} {c : ChannelId} (unspoken : g.Unspoken c) (k : g.Carries c r) (z : FloorId) :
    (Hall.reviveCarried r g z).Carries c r := by
  have own := Reaches.mixOriginal (Q := fun _ => False) g z r (move := fun g c => g.relend c r) fun c => .relend g c r
  have carries : (g.mixOriginal z r fun g c => g.relend c r).Carries c r :=
    mixOriginal_keeps (fun g d => .relend g d r) (fun g d used => relend_used used r) k
  exact carries.outputs (Reaches.outputs_foldl (fun g q => Reaches.placeOutput g r q) (boothOutputs (g.boothsOf [z])) _)
    fun ⟨q, _, chan⟩ => unspoken q.1 q.2 (by rwa [own.chan] at chan)

/-- The original channel of a floor taken along carries r's mix. -/
theorem reviveCarried_mixed {g : Hall} {c : ChannelId} (unspoken : g.Unspoken c) {z : FloorId}
    (org : (g.floor z).original? = some c) (use : (g.channels.get c).use ≠ none) :
    (Hall.reviveCarried r g z).Carries c r := by
  have own := Reaches.mixOriginal (Q := fun _ => False) g z r (move := fun g c => g.relend c r) fun c => .relend g c r
  have carries : (g.mixOriginal z r fun g c => g.relend c r).Carries c r :=
    mixOriginal_carries (fun g d used => relend_used used r) org use
  exact carries.outputs (Reaches.outputs_foldl (fun g q => Reaches.placeOutput g r q) (boothOutputs (g.boothsOf [z])) _)
    fun ⟨q, _, chan⟩ => unspoken q.1 q.2 (by rwa [own.chan] at chan)

end Hall

namespace Carried

variable {old : FloorId → FloorState} {h : Hall} {x r : FloorId} {others : List FloorId}

/-- The other floors of K taken along, with what each of them keeps. -/
theorem reviveOthers (i : h.board.Linked old) (live : h.board.state r = .live)
    (now : ∀ z ∈ others, h.board.state z = .folded r) (before : ∀ z ∈ others, old z = .folded x) {P : Hall → Prop}
    (start : P h) (keep : ∀ g, ∀ z ∈ others, Carried old h g → P g → P (Hall.reviveCarried r g z)) :
    Carried old h (others.foldl (Hall.reviveCarried r) h) ∧ P (others.foldl (Hall.reviveCarried r) h) := by
  obtain ⟨moved, -, done⟩ := each (P := P) (D := fun _ _ => True) (fun _ _ _ _ _ => trivial) others i start
    (f := Hall.reviveCarried r) fun g z m q p => by
      obtain ⟨moved, -⟩ := reviveCarried q.linked (by rw [q.state]; exact live) (by rw [q.state]; exact now z m)
        (before z m)
      exact ⟨moved, trivial, keep g z m q p⟩
  exact ⟨moved, done⟩

/-- The revived floor's own channel and outputs given back. -/
theorem reviveGiven (i : h.board.Linked old) (live : h.board.state r = .live) (unlent : h.Unlent r) :
    Carried old h (h.reviveOwn r) ∧ Carried old h (h.reviveGiven r) := by
  obtain ⟨own, -⟩ := returnOriginal (x := r) i live
  obtain ⟨given, -⟩ := giveBackBooths own.linked (by rw [own.state]; exact live) (unlent.mixOriginal r) rfl
  exact ⟨own, own.trans given⟩

end Carried

namespace Hall

variable {old : FloorId → FloorState} {k : Hall} {x r : FloorId} {others : List FloorId}

/-- The serving floors' change reaches no channel but those of outputs. -/
theorem Carries.served {h : Hall} {c : ChannelId} (done : h.Carries c x) (u : h.Unspoken c) (bs : List BoothId) :
    (h.servingChanged bs).Carries c x :=
  done.outputs (Reaches.servingChanged h bs) fun ⟨q, chan⟩ => u q.1 q.2 chan

theorem reviveOwn_reaches (k : Hall) (r : FloorId) : Reaches (fun c => (k.floor r).original? = some c) (fun _ => False) k
    (k.reviveOwn r) :=
  Reaches.mixOriginal k r r fun c => .giveBack k c

theorem reviveGiven_reaches (k : Hall) (r : FloorId) :
    Reaches (fun c => ∃ p ∈ boothOutputs ((k.reviveOwn r).boothsOf [r]), ((k.reviveOwn r).output p.1 p.2).chan? = some c)
      (· ∈ boothOutputs ((k.reviveOwn r).boothsOf [r])) (k.reviveOwn r) (k.reviveGiven r) :=
  Reaches.outputs_foldl (fun g q => Reaches.giveBackOutput g q) _ _

section

variable (i : k.board.Linked old) (live : k.board.state r = .live) (unlent : k.Unlent r)
  (now : ∀ z ∈ others, k.board.state z = .folded r) (before : ∀ z ∈ others, old z = .folded x)

include i live unlent now before

/-- The original channel of the revived floor carries its own mix again (08 R152 step 1). -/
theorem reviveChannels_own {c : ChannelId} (org : k.board.original r = some c) :
    (k.reviveChannels r others).Carries c r := by
  obtain ⟨own, given⟩ := Carried.reviveGiven i live unlent
  have unspoken : ∀ {g : Hall}, Carried old k g → g.Unspoken c := fun q =>
    unspoken_of_original q.linked (by rw [← board_original, q.original]; exact org)
  obtain ⟨u, use, -⟩ := i.woven.originals r c org
  have first : (k.reviveOwn r).Carries c r := mixOriginal_carries (fun g d used => giveBack_used used)
    (by rw [← board_original]; exact org) (by rw [← board_use, use]; exact Option.some_ne_none u)
  have second : (k.reviveGiven r).Carries c r := first.outputs (k.reviveGiven_reaches r) fun ⟨q, _, chan⟩ =>
    unspoken own q.1 q.2 chan
  obtain ⟨moved, done⟩ := Carried.reviveOthers (others := others) given.linked (by rw [given.state]; exact live)
    (fun z m => by rw [given.state]; exact now z m) before second fun g z _ q carries =>
      reviveCarried_carries (unspoken (given.trans q)) carries z
  rw [reviveChannels_eq]
  exact done.served (unspoken (given.trans moved)) _

/-- The original channel of each other floor carries the revived floor's mix (08 R152 step 3). -/
theorem reviveChannels_other {z : FloorId} (m : z ∈ others) {c : ChannelId} (org : k.board.original z = some c) :
    (k.reviveChannels r others).Carries c r := by
  obtain ⟨-, given⟩ := Carried.reviveGiven i live unlent
  have unspoken : ∀ {g : Hall}, Carried old k g → g.Unspoken c := fun q =>
    unspoken_of_original q.linked (by rw [← board_original, q.original]; exact org)
  obtain ⟨s, t, split⟩ := List.append_of_mem m
  have ms : ∀ w ∈ s, w ∈ others := fun w mw => by rw [split]; exact List.mem_append_left _ mw
  have mt : ∀ w ∈ t, w ∈ others := fun w mw => by
    rw [split]
    exact List.mem_append_right _ (List.mem_cons_of_mem z mw)
  obtain ⟨first, -⟩ := Carried.reviveOthers (others := s) (P := fun _ => True) given.linked
    (by rw [given.state]; exact live) (fun w mw => by rw [given.state]; exact now w (ms w mw))
    (fun w mw => before w (ms w mw)) trivial fun _ _ _ _ _ => trivial
  have reached := given.trans first
  obtain ⟨u, use, -⟩ := reached.linked.woven.originals z c (by rw [reached.original]; exact org)
  have mixed := reviveCarried_mixed (r := r) (unspoken reached) (z := z)
    (by rw [← board_original, reached.original]; exact org) (by rw [← board_use, use]; exact Option.some_ne_none u)
  obtain ⟨here, -⟩ := Carried.reviveCarried reached.linked (by rw [reached.state]; exact live)
    (by rw [reached.state]; exact now z m) (before z m)
  have after := reached.trans here
  obtain ⟨last, done⟩ := Carried.reviveOthers (others := t) after.linked (by rw [after.state]; exact live)
    (fun w mw => by rw [after.state]; exact now w (mt w mw)) (fun w mw => before w (mt w mw)) mixed
    fun g w _ q carries => reviveCarried_carries (unspoken (after.trans q)) carries w
  have all : others.foldl (Hall.reviveCarried r) (k.reviveGiven r) = t.foldl (Hall.reviveCarried r)
      (Hall.reviveCarried r (s.foldl (Hall.reviveCarried r) (k.reviveGiven r)) z) := by
    rw [split, List.foldl_append, List.foldl_cons]
  rw [reviveChannels_eq, all]
  exact done.served (unspoken (after.trans last)) _

/-- An output of the revived floor, given back (08 R152 step 2). -/
theorem reviveChannels_output (outR : r ∉ others) {p : BoothId × Out} {u : OutUse} (home : k.board.home p.1 = some r)
    (used : k.board.out p.1 p.2 = some u) :
    ((k.reviveChannels r others).output p.1 p.2).use = some { u with state := k.restored p.1 u.state } := by
  obtain ⟨own, given⟩ := Carried.reviveGiven i live unlent
  have m : p ∈ boothOutputs ((k.reviveOwn r).boothsOf [r]) := mem_boothOutputs.mpr
    (mem_boothsOf.mpr ⟨r, List.mem_singleton.mpr rfl, by rw [own.home]; exact home⟩)
  have nodup : (boothOutputs ((k.reviveOwn r).boothsOf [r])).Nodup := boothOutputs_nodup (boothsOf_nodup _ _)
  obtain ⟨s, t, split⟩ := List.append_of_mem m
  rw [split] at nodup
  obtain ⟨-, nodupT, apart⟩ := List.nodup_append.mp nodup
  have outS : p ∉ s := fun m => apart p m p List.mem_cons_self rfl
  have outT : p ∉ t := (List.nodup_cons.mp nodupT).1
  have front := Reaches.outputs_foldl (fun g q => Reaches.giveBackOutput g q) s (k.reviveOwn r)
  have found : ((s.foldl Hall.giveBackOutput (k.reviveOwn r)).output p.1 p.2).use = some u := by
    rw [front.outputs p outS, (k.reviveOwn_reaches r).outputs p id]
    exact used
  have delay : (s.foldl Hall.giveBackOutput (k.reviveOwn r)).restored p.1 u.state = k.restored p.1 u.state := by
    rw [restored, restored, front.delays, (k.reviveOwn_reaches r).delays]
  have back := Reaches.outputs_foldl (fun g q => Reaches.giveBackOutput g q) t
    (Hall.giveBackOutput (s.foldl Hall.giveBackOutput (k.reviveOwn r)) p)
  have second : ((k.reviveGiven r).output p.1 p.2).use = some { u with state := k.restored p.1 u.state } := by
    rw [reviveGiven, split, List.foldl_append, List.foldl_cons, back.outputs p outT, ← delay]
    exact giveBackOutput_use found
  obtain ⟨moved, done⟩ := Carried.reviveOthers (others := others)
    (P := fun g => (g.output p.1 p.2).use = some { u with state := k.restored p.1 u.state }) given.linked
    (by rw [given.state]; exact live) (fun z m => by rw [given.state]; exact now z m) before second fun g z m q kept => by
      rw [(reviveCarried_reaches r g z).outputs p]
      · exact kept
      · intro mem
        obtain ⟨w, mw, at_⟩ := mem_boothsOf.mp (mem_boothOutputs.mp mem)
        rw [(given.trans q).home, home] at at_
        obtain rfl := Option.some.inj at_
        exact outR (List.mem_singleton.mp mw ▸ m)
  rw [reviveChannels_eq, (Reaches.servingChanged _ _).outputs p id]
  exact done

end

end Hall

/-! ## The clause -/

namespace Hall

variable {h : Hall} {x r : FloorId}

/-- What a channel carries is no more than its content and whether it is used. -/
theorem Carries.of_sound {g k : Hall} {k' : ChannelId} {f : FloorId} (c : g.Carries k' f) (same : k.sound = g.sound) :
    k.Carries k' f := by
  unfold Carries
  rw [channels_of_sound same]
  exact c

theorem Carries.channel {g : Hall} {k : ChannelId} {f : FloorId} {u : ChanUse} (c : g.Carries k f)
    (use : (g.channels.get k).use = some u) : g.channels.get k = ⟨some u, .floorMix f⟩ := by
  obtain ⟨-, content⟩ := c
  rw [← use, ← content]

/-- The channel of an output of a LIVE floor is owned by the floor (06 section 6.1). -/
theorem output_owned {g : Hall} {f : FloorId} {b : BoothId} {o : Out} {v : OutUse} (i : g.board.Inv)
    (live : (g.floor f).state = .live) (home : (g.booths.get b).floor = some f) (used : (g.output b o).use = some v) :
    (g.channels.get v.chan).use = some ⟨.owned, f, some v.lang, .output b o⟩ := by
  rw [← board_use]
  exact i.output_live (by rw [board_state]; exact live) (by rw [board_home]; exact home) (by rw [board_out]; exact used)

theorem reviveEntries_sound (now : Clock) (k : Hall) (ne : x ≠ r) (c : SecSet) :
    (k.reviveEntries now x r c).sound = k.sound := by
  have spoken : (k.reviveSpeakers now x r c).sound = k.sound :=
    (LocalTo.checkBadges now _ r _).sound.trans ((LocalTo.closeExcess now _ r _).sound.trans
      (carrySpeakers_moves k _ ne.symm _).sound)
  rw [reviveEntries_eq]
  exact (LocalTo.settleQueue _ r _).sound.trans ((carryQueue_moves _ _ ne.symm _).sound.trans spoken)

theorem reviveHolders_sound (g : Hall) (x r : FloorId) (c : SecSet) : (g.reviveHolders x r c).sound = g.sound :=
  (Sound.remute _ x).trans (Sound.remute _ r)

theorem reviveHeld_delay (now : Clock) (h : Hall) (ne : x ≠ r) (others : List FloorId) (c : SecSet) (b : BoothId) :
    ((h.reviveHeld now x r others c).booths.get b).delay = (h.booths.get b).delay := by
  have sound : (h.reviveHeld now x r others c).sound = h.sound :=
    (reviveHolders_sound _ x r c).trans ((reviveEntries_sound now _ ne c).trans (h.reviveRecords_sound x r others c))
  rw [booths_of_sound sound]

/-- The floors of K but the one that revives. -/
def otherAnchors (h : Hall) (x r : FloorId) (c : SecSet) : List FloorId :=
  (h.anchoredIn x c).filter fun f => f ≠ r

theorem mem_otherAnchors {c : SecSet} {z : FloorId} : z ∈ h.otherAnchors x r c ↔ z ∈ h.anchoredIn x c ∧ z ≠ r := by
  unfold otherAnchors
  rw [List.mem_filter, decide_eq_true_eq]

theorem takePart_revives (now : Clock) {c : SecSet} (pick : h.ranked (h.anchoredIn x c) = some r) :
    Hall.takePart now x h c = h.revive now x r (h.otherAnchors x r c) c := by
  simp only [takePart, pick]
  rfl

end Hall

theorem partRevived (now : Clock) (h : Hall) (x r : FloorId) (c : SecSet) (speech : Machine.SpeechInv h)
    (channels : Machine.ChannelInv h) (liveX : (h.floor x).state = .live) (pick : h.ranked (h.anchoredIn x c) = some r) :
    (∀ z, z ∈ h.anchoredIn x c → z ≠ r → (h.floor z).precedence < (h.floor r).precedence ∨
      (h.floor z).precedence = (h.floor r).precedence ∧ r < z) ∧
    ∃ t, t = Hall.takePart now x h c ∧ (t.floor r).state = .live ∧ (t.floor r).members = c ∧
      (t.floor r).home = 0#12 ∧ (t.floor r).swapPending = false ∧ (t.floor r).requestHolds = false ∧
      (t.floor r).holders = (h.floor x).holders.filter (fun n => h.sits c n) ∧
      (t.floor x).state = .live ∧ (t.floor x).members = (h.floor x).members &&& ~~~c ∧
      (t.floor x).holders = (h.floor x).holders.filter (fun n => !h.sits c n) ∧
      (t.floor x).speakers.map (·.seat) = ((h.floor x).speakers.map (·.seat)).filter (fun n => !h.sits c n) ∧
      (t.floor x).queue = (h.floor x).queue.filter (fun w => !h.sits c w.seat) ∧
      ((h.speakersIn x c).countP (fun e => e.kind = .delegate) ≤ (h.floor r).bank.limit →
        (h.floor r).bank.badgeRequired = false →
        (t.floor r).speakers.map (·.seat) = (h.speakersIn x c).map (·.seat) ∧
        (t.floor r).queue = (h.queueIn x c).take (h.floor r).bank.cap) ∧
      (∀ z, z ∈ h.anchoredIn x c → t.stands (.foldChanged z) = true ∧
        (z ≠ r → (t.floor z).state = .folded r ∧ (t.floor z).home = (h.floor z).home)) ∧
      (∀ z, z ≠ x → z ∉ h.anchoredIn x c → t.floor z = h.floor z) ∧
      (∀ k, (h.floor r).original? = some k →
        t.channels.get k = ⟨some ⟨.owned, r, some 0, .original⟩, .floorMix r⟩) ∧
      (∀ z k, z ∈ h.anchoredIn x c → z ≠ r → (h.floor z).original? = some k →
        t.channels.get k = ⟨some ⟨.lent r, z, none, .original⟩, .floorMix r⟩) ∧
      ∀ b o u, (h.booths.get b).floor = some r → (h.output b o).use = some u →
        (t.channels.get u.chan).use = some ⟨.owned, r, some u.lang, .output b o⟩ ∧
        (t.output b o).use = some { u with
          state := if u.state = .held then
              (if (h.booths.get b).delay = 0 then .fallback else .silent ((h.booths.get b).delay * 10))
            else u.state } := by
  have i := channelInv_iff.mp channels
  have folded := mem_anchoredIn (ranked_mem pick)
  have outR : r ∉ h.otherAnchors x r c := fun m => (mem_otherAnchors.mp m).2 rfl
  have along : ∀ z ∈ h.otherAnchors x r c, (h.floor z).state = .folded x := fun z m =>
    mem_anchoredIn (mem_otherAnchors.mp m).1
  obtain ⟨ne, outX⟩ := i.reviver folded along
  have unlive : ∀ f, f = r ∨ f ∈ h.otherAnchors x r c → (h.floor f).state ≠ .live := by
    rintro f (rfl | m) live
    · rw [folded] at live
      cases live
    · rw [along f m] at live
      cases live
  refine ⟨fun z m other => (ranked_outranks (h.anchoredIn_ascending x c) pick z m).imp_right fun k =>
    ⟨k.1, lt_of_le_of_ne k.2 other.symm⟩, _, rfl, ?_⟩
  rw [takePart_revives now pick]
  obtain ⟨state, members, home, pending, requests, holders⟩ := h.revive_revived now ne c outX outR
  obtain ⟨stateX, membersX, holdersX, speakersX, queueX⟩ := h.revive_left now ne c outX outR
  have anchored : ∀ z, z ∈ h.anchoredIn x c → z = r ∨ z ∈ h.otherAnchors x r c := fun z m => by
    by_cases e : z = r
    · exact .inl e
    · exact .inr (mem_otherAnchors.mpr ⟨m, e⟩)
  have taken : ∀ z ∈ h.otherAnchors x r c, (h.revive now x r (h.otherAnchors x r c) c).floor z =
      { h.floor z with state := .folded r } := fun z m => by
    have nx : z ≠ x := fun e => outX (e ▸ m)
    rw [h.revive_rest now ne c outX outR nx (mem_otherAnchors.mp m).2, if_pos m]
  -- the channels
  have after := i.revive now c folded outR along
  obtain ⟨start, states, original, unlent⟩ := i.reviveHeld now c folded outR along
  obtain ⟨-, outs, homes⟩ := reviveHeld_sound now h ne (h.otherAnchors x r c) c
  have live : (h.reviveHeld now x r (h.otherAnchors x r c) c).board.state r = .live := by rw [states, if_pos rfl]
  have others : ∀ z ∈ h.otherAnchors x r c, (h.reviveHeld now x r (h.otherAnchors x r c) c).board.state z = .folded r :=
    fun z m => by rw [states, if_neg (mem_otherAnchors.mp m).2, if_pos m]
  have moved := (Carried.reviveChannels start live unlent others along).1
  have sound := h.revive_sound now x r (h.otherAnchors x r c) c
  have board := h.revive_board now x r (h.otherAnchors x r c) c
  have original' : (h.revive now x r (h.otherAnchors x r c) c).board.original = h.board.original := by
    rw [board, reviveCarriedAll, moved.original, original]
  have homes' : (h.revive now x r (h.otherAnchors x r c) c).board.home = h.board.home := by
    rw [board, reviveCarriedAll, moved.home, homes]
  refine ⟨state, members, home, pending, requests, holders, stateX.trans liveX, membersX, holdersX, speakersX, queueX,
    revive_lists now speech c ne outX outR unlive, fun z m => ⟨h.revive_stands now x r _ c (anchored z m), fun nr => ?_⟩,
    fun z nx out => ?_, fun k org => ?_, fun z k m nr org => ?_, fun b o u at_ used => ?_⟩
  · rw [taken z (mem_otherAnchors.mpr ⟨m, nr⟩)]
    exact ⟨rfl, rfl⟩
  · have nr : z ≠ r := fun e => out (e ▸ ranked_mem pick)
    rw [h.revive_rest now ne c outX outR nx nr, if_neg fun m => out (mem_otherAnchors.mp m).1]
  · have use := after.original_owned state (by rw [original']; exact org)
    have carries := reviveChannels_own start live unlent others along (by rw [original]; exact org)
    rw [board_use] at use
    exact (carries.of_sound sound).channel use
  · have m := mem_otherAnchors.mpr ⟨m, nr⟩
    have use := after.original_lent (x := r) (by rw [board_state, taken z m]) (by rw [original']; exact org)
    have carries := reviveChannels_other start live unlent others along m (by rw [original]; exact org)
    rw [board_use] at use
    exact (carries.of_sound sound).channel use
  · have given := reviveChannels_output start live unlent others along outR (p := (b, o))
      (by rw [homes]; exact at_) (by rw [outs]; exact used)
    have out : ((h.revive now x r (h.otherAnchors x r c) c).output b o).use =
        some { u with state := h.restored b u.state } := by
      have same : (h.reviveHeld now x r (h.otherAnchors x r c) c).restored b u.state = h.restored b u.state := by
        rw [restored, restored, reviveHeld_delay now h ne]
      rw [output_of_booths (booths_of_sound sound), ← same]
      exact given
    have use := output_owned (v := { u with state := h.restored b u.state }) after state
      (by rw [← board_home, homes']; exact at_) out
    exact ⟨use, out⟩

end Sys2Proof

/-! PROOFS. What a fold leaves of the survivor's listen table and adopted entries (08 R145). -/

namespace Sys2Proof

/-! ## Listen tables -/

theorem Session.bank_setBank_self (s : Session) (i : BankId) (b : Bank) : (s.setBank i b).bank i = b := by
  cases i <;> rfl

theorem Floor.bank_setListen {f : Floor} (opened : f.sess ≠ none) (k : ListenSlot) (l : Option Lang) :
    (f.setListen k l).bank.listen = f.bank.listen.set k l := by
  obtain ⟨s, sess⟩ := Option.ne_none_iff_exists'.mp opened
  simp only [Floor.bank, Floor.setListen_sess, sess, Option.map_some, Swaps.setBank_current, Session.bank_setBank_self]

theorem Floor.setListen_unopened {f : Floor} (closed : f.sess = none) (k : ListenSlot) (l : Option Lang) :
    (f.setListen k l).bank = f.bank := by
  simp only [Floor.bank, Floor.setListen_sess, closed, Option.map_none]

/-- A listen entry written leaves the other slots. -/
theorem Floor.listen_setListen_ne (f : Floor) {j k : ListenSlot} (ne : j ≠ k) (l : Option Lang) :
    (f.setListen j l).bank.listen.get k = f.bank.listen.get k := by
  by_cases opened : f.sess = none
  · rw [setListen_unopened opened]
  · rw [bank_setListen opened, Tbl.get_set_ne _ _ ne]

theorem holdsLang_iff {t : Tbl (Option Lang) 16} {l : Lang} : holdsLang t l = true ↔ ∃ k, t.get k = some l := by
  simp [holdsLang, Tbl.some?_iff]

theorem get_emptySlot {t : Tbl (Option Lang) 16} {k : ListenSlot} (empty : emptySlot t = some k) : t.get k = none :=
  Option.isNone_iff_eq_none.mp (Tbl.lowest_some empty)

/-- Adopted entries dropped leave the slots that none of them names (08 R146). -/
theorem Floor.listen_dropAdopted (f : Floor) (gone : FloorId → Bool) {k : ListenSlot}
    (free : ∀ a ∈ f.adopted.getD [], a.place ≠ .slot k) :
    (f.dropAdopted gone).bank.listen.get k = f.bank.listen.get k := by
  unfold dropAdopted
  split
  · rfl
  next as adopted =>
    rw [adopted] at free
    change ((as.foldl _ f).bank).listen.get k = _
    clear adopted
    induction as generalizing f with
    | nil => rfl
    | cons a as ih =>
      rw [List.foldl_cons, ih _ fun b m => free b (List.mem_cons_of_mem a m)]
      have here : a.place ≠ .slot k := free a List.mem_cons_self
      split
      next j place =>
        split
        · exact f.listen_setListen_ne (fun e => here (by rw [place, e])) none
        · rfl
      · rfl

/-! ## The adoption pass -/

/-- A carrier's record: its adopted entries stand in the listen slots they name, or are SHORT. -/
structure Floor.Carrier (f : Floor) : Prop where
  opened : f.sess ≠ none
  carries : f.adopted ≠ none
  placed : ∀ a ∈ f.adopted.getD [], (∃ k, a.place = .slot k ∧ f.bank.listen.get k = some a.lang) ∨ a.place = .short

/-- A language stands in the listen table, or among the adopted entries as SHORT. -/
def Floor.Offers (f : Floor) (l : Lang) : Prop :=
  (∃ k, f.bank.listen.get k = some l) ∨ ∃ a ∈ f.adopted.getD [], a.lang = l ∧ a.place = .short

/-- What the adoption of languages keeps of a carrier. -/
structure Floor.Adopts (f g : Floor) : Prop where
  carrier : g.Carrier
  listen : ∀ k l, f.bank.listen.get k = some l → g.bank.listen.get k = some l
  adopted : ∀ a ∈ f.adopted.getD [], a ∈ g.adopted.getD []

namespace Floor

variable {f g k : Floor}

theorem Adopts.refl (c : f.Carrier) : Adopts f f := ⟨c, fun _ _ e => e, fun _ m => m⟩

theorem Adopts.trans (p : Adopts f g) (q : Adopts g k) : Adopts f k :=
  ⟨q.carrier, fun i l e => q.listen i l (p.listen i l e), fun a m => q.adopted a (p.adopted a m)⟩

theorem Adopts.offers (p : Adopts f g) {l : Lang} : f.Offers l → g.Offers l
  | .inl ⟨k, e⟩ => .inl ⟨k, p.listen k l e⟩
  | .inr ⟨a, m, e⟩ => .inr ⟨a, p.adopted a m, e⟩

/-- A language among the adopted entries of a carrier is offered by it. -/
theorem Carrier.offers (c : f.Carrier) {a : Adopted} (m : a ∈ f.adopted.getD []) : f.Offers a.lang :=
  (c.placed a m).imp (fun ⟨k, _, e⟩ => ⟨k, e⟩) fun short => ⟨a, m, rfl, short⟩

/-- A language adopted in an EMPTY slot. -/
theorem Carrier.adoptSlot (c : f.Carrier) (src : FloorId) {l : Lang} {k : ListenSlot}
    (empty : f.bank.listen.get k = none) {g : Floor} (given : g = { f.setListen k (some l) with
      adopted := some (f.adopted.getD [] ++ [⟨l, src, .slot k⟩]) }) : Adopts f g ∧ g.Offers l := by
  have table : g.bank.listen = f.bank.listen.set k (some l) := by
    rw [given]
    exact bank_setListen c.opened k (some l)
  have entries : g.adopted = some (f.adopted.getD [] ++ [⟨l, src, .slot k⟩]) := by rw [given]
  have kept : ∀ j m, f.bank.listen.get j = some m → g.bank.listen.get j = some m := fun j m e => by
    have ne : k ≠ j := fun same => by
      rw [← same, empty] at e
      cases e
    rw [table, Tbl.get_set_ne _ _ ne, e]
  have slot : g.bank.listen.get k = some l := by rw [table, Tbl.get_set_self]
  refine ⟨⟨⟨?_, by rw [entries]; exact Option.some_ne_none _, fun a m => ?_⟩, kept, fun a m => ?_⟩, .inl ⟨k, slot⟩⟩
  · have sess : g.sess = (f.setListen k (some l)).sess := by rw [given]
    rw [sess, setListen_sess, Ne, Option.map_eq_none_iff]
    exact c.opened
  · rw [entries, Option.getD_some, List.mem_append, List.mem_singleton] at m
    obtain m | rfl := m
    · exact (c.placed a m).imp_left fun ⟨j, at_, e⟩ => ⟨j, at_, kept j _ e⟩
    · exact .inl ⟨k, rfl, slot⟩
  · rw [entries]
    exact List.mem_append_left _ m

/-- A language adopted without a slot. -/
theorem Carrier.adoptShort (c : f.Carrier) (src : FloorId) (l : Lang) {g : Floor} (given : g = { f with
      adopted := some (f.adopted.getD [] ++ [⟨l, src, .short⟩]) }) : Adopts f g ∧ g.Offers l := by
  subst given
  refine ⟨⟨⟨c.opened, Option.some_ne_none _, fun a m => ?_⟩, fun _ _ e => e, fun a m => List.mem_append_left _ m⟩,
    .inr ⟨⟨l, src, .short⟩, List.mem_append_right _ List.mem_cons_self, rfl, rfl⟩⟩
  rw [Option.getD_some, List.mem_append, List.mem_singleton] at m
  obtain m | rfl := m
  · exact c.placed a m
  · exact .inr rfl

/-- One language offered to a carrier. -/
theorem Carrier.adopt (c : f.Carrier) (src : FloorId) (entry : Option Lang) :
    Adopts f (f.adopt src entry) ∧ ∀ l, entry = some l → (f.adopt src entry).Offers l := by
  cases entry with
  | none => exact ⟨.refl c, fun l e => by cases e⟩
  | some l =>
    suffices both : Adopts f (f.adopt src (some l)) ∧ (f.adopt src (some l)).Offers l from
      ⟨both.1, fun m e => Option.some.inj e ▸ both.2⟩
    by_cases has : (holdsLang f.bank.listen l || (f.adopted.getD []).any fun a => a.lang = l) = true
    · have same : f.adopt src (some l) = f := by simp only [Floor.adopt, has, if_true]
      rw [same]
      obtain table | entry := Bool.or_eq_true_iff.mp has
      · exact ⟨.refl c, .inl (holdsLang_iff.mp table)⟩
      · obtain ⟨a, m, lang⟩ := List.any_eq_true.mp entry
        obtain rfl := of_decide_eq_true lang
        exact ⟨.refl c, c.offers m⟩
    · cases empty : emptySlot f.bank.listen with
      | some k => exact c.adoptSlot src (get_emptySlot empty) (by simp only [Floor.adopt, has, empty]; rfl)
      | none => exact c.adoptShort src l (by simp only [Floor.adopt, has, empty]; rfl)

/-- What each step does for its own argument, a fold does for every argument, where the steps keep it. -/
theorem Adopts.foldl {β : Type} {step : Floor → β → Floor} {P : β → Floor → Prop}
    (each : ∀ f b, f.Carrier → Adopts f (step f b) ∧ P b (step f b))
    (keep : ∀ {b f g}, Adopts f g → P b f → P b g) (bs : List β) (c : f.Carrier) :
    Adopts f (bs.foldl step f) ∧ ∀ b ∈ bs, P b (bs.foldl step f) := by
  induction bs generalizing f with
  | nil => exact ⟨.refl c, fun b m => by cases m⟩
  | cons b bs ih =>
    obtain ⟨one, here⟩ := each f b c
    obtain ⟨rest, there⟩ := ih one.carrier
    refine ⟨one.trans rest, fun d m => ?_⟩
    obtain rfl | m := List.mem_cons.mp m
    · exact keep rest here
    · exact there d m

end Floor

namespace Hall

variable {h : Hall} {x y : FloorId}

/-- The adoption pass keeps a carrier's listen entries, and the carrier then offers each language that the listen table of
a floor of the pass holds (08 R145). -/
theorem adoptAll_adopts (c : (h.floor x).Carrier) (ys : List FloorId) :
    Floor.Adopts (h.floor x) (h.adoptAll x ys) ∧ ∀ z ∈ ys, ∀ k l, (h.floor z).bank.listen.get k = some l →
      (h.adoptAll x ys).Offers l := by
  obtain ⟨adopts, offers⟩ := Floor.Adopts.foldl (P := fun z f => ∀ e ∈ (h.floor z).bank.listen.rows, ∀ l, e = some l →
      f.Offers l) (step := fun f z => (h.floor z).bank.listen.rows.foldl (Floor.adopt z) f)
    (fun f z c => Floor.Adopts.foldl (P := fun e f => ∀ l, e = some l → f.Offers l) (fun f e c => c.adopt z e)
      (fun k offers l e => k.offers (offers l e)) _ c)
    (fun k offers e m l same => k.offers (offers e m l same)) ys c
  exact ⟨adopts, fun z m k l e => offers z m (some l) (e ▸ List.getElem_mem _) l rfl⟩

theorem stands_raiseIf {b : Bool} (due : b = true) (h : Hall) (i : AttnItem) : (h.raiseIf b i).stands i = true := by
  rw [raiseIf, if_pos due]
  exact stands_raise h i

theorem adoptionPass_floor (h : Hall) (x : FloorId) : (h.adoptionPass x).floor x = h.adoptAll x (h.foldedInto x) := by
  have write : ((h.updFloor x fun _ => h.adoptAll x (h.foldedInto x)).floor x) = h.adoptAll x (h.foldedInto x) := by
    rw [floor_updFloor, if_pos rfl]
  unfold adoptionPass adoptionPassOver
  simp only []
  split
  · rw [listenReport, floor_of_floors ((retune_floors _ _).trans (raiseIf_floors _ _ _)), write]
  · rw [floor_of_floors (raiseIf_floors _ _ _), write]

/-- ADOPT_SHORT of a pass that leaves a SHORT entry on a carrier that had no entry. -/
theorem adoptionPass_short (fresh : (h.floor x).adopted.getD [] = []) {a : Adopted}
    (m : a ∈ (h.adoptAll x (h.foldedInto x)).adopted.getD []) (short : a.place = .short) :
    (h.adoptionPass x).stands (.adoptShort x) = true := by
  have due : (((h.adoptAll x (h.foldedInto x)).adopted.getD []).drop ((h.floor x).adopted.getD []).length).any
      (fun a => a.place = .short) = true := by
    rw [fresh]
    exact List.any_eq_true.mpr ⟨a, m, decide_eq_true short⟩
  unfold adoptionPass adoptionPassOver
  simp only []
  split
  · exact (Steady.listenReport _ x).stands (stands_raiseIf due _ _)
  · exact stands_raiseIf due _ _

/-! ## The fold -/

/-- The session and the adopted entries of the survivor once the holders have moved. -/
theorem foldMoved_carrier (now : Clock) (ne : x ≠ y) (liveX : (h.floor x).state = .live) (liveY : (h.floor y).state = .live) :
    ((h.foldMoved now x y).floor x).sess = (h.floor x).sess ∧
      ((h.foldMoved now x y).floor x).adopted = some ((h.floor x).adopted.getD []) := by
  obtain ⟨relX, -, -⟩ := foldRelation_floor (h := h) ne (live_not_folded (y := y) liveX) (live_not_folded liveY)
  obtain ⟨⟨s, q, l, entX⟩, -, -⟩ := h.foldEntries_floor now ne
  have holders : ((h.foldMoved now x y).floor x).sess = ((h.foldEntries now x y).floor x).sess ∧
      ((h.foldMoved now x y).floor x).adopted = ((h.foldEntries now x y).floor x).adopted := by
    unfold foldMoved
    generalize h.foldEntries now x y = g
    unfold foldHolders
    simp only []
    obtain ⟨s, q, l, record⟩ := (LocalTo.remute ((g.updFloor x fun f => { f with
      holders := (g.floor y).holders.foldl (fun l n => insertSeat n l) f.holders
      requestHolds := f.requestHolds || (g.floor y).requestHolds }).updFloor y (fun f => { f with
        holders := [], requestHolds := false })) x).lists
    rw [record, floor_updFloor, if_neg ne.symm, floor_updFloor, if_pos rfl]
    exact ⟨rfl, rfl⟩
  rw [holders.1, holders.2, entX, relX]
  exact ⟨rfl, rfl⟩

/-- A listen entry of a floor of the fold that no adopted entry gave it, once the holders have moved. -/
theorem foldMoved_listen (now : Clock) (ne : x ≠ y) (liveX : (h.floor x).state = .live) (liveY : (h.floor y).state = .live)
    {z : FloorId} (follows : z = y ∨ (h.floor z).state = .folded y) {k : ListenSlot}
    (own : z = y → ∀ a ∈ (h.floor y).adopted.getD [], a.place ≠ .slot k) :
    ((h.foldMoved now x y).floor z).state = .folded x ∧
      ((h.foldMoved now x y).floor z).bank.listen.get k = (h.floor z).bank.listen.get k := by
  obtain ⟨-, movedY, movedOthers⟩ := foldMoved_floor now ne liveX liveY
  obtain rfl | folded := follows
  · rw [movedY]
    exact ⟨rfl, (h.floor z).listen_dropAdopted _ (own rfl)⟩
  · have nx : z ≠ x := by rintro rfl; rw [liveX] at folded; cases folded
    have ny : z ≠ y := by rintro rfl; rw [liveY] at folded; cases folded
    rw [movedOthers z nx ny, if_pos (mem_foldedInto.mpr folded)]
    exact ⟨rfl, rfl⟩

/-- The end of a fold leaves the survivor's session and adopted entries. -/
theorem foldInto_carrier (now : Clock) (h : Hall) (ne : x ≠ y) :
    ((h.foldInto now x y).floor x).sess = (((h.foldCarried now x y).adoptionPass x).floor x).sess ∧
      ((h.foldInto now x y).floor x).adopted = (((h.foldCarried now x y).adoptionPass x).floor x).adopted := by
  rw [foldInto_carried]
  generalize (h.foldCarried now x y).adoptionPass x = g
  have floors : (((g.settleSwap now y).raiseFold (x :: y :: h.foldedInto y)).recomposeFloor x).floors =
      (g.settleSwap now y).floors := (recomposeFloor_floors _ x).trans (raiseFold_floors _ _)
  generalize ((g.settleSwap now y).raiseFold (x :: y :: h.foldedInto y)).recomposeFloor x = k at floors ⊢
  obtain ⟨l, q, record, -⟩ := (Handed.arbitrate now k).rest x
  rw [record, floor_of_floors floors, settleSwap_others now g ne]
  exact ⟨rfl, rfl⟩

theorem foldInto_keeps (now : Clock) (h : Hall) (x y : FloorId) :
    Steady ((h.foldCarried now x y).adoptionPass x) (h.foldInto now x y) := by
  rw [foldInto_carried]
  exact ((((Steady.settleSwap now _ y).trans (Steady.raiseFold _ _)).trans (Steady.recomposeFloor _ x)).trans
    (Steady.arbitrate now _))

end Hall

theorem foldAdopts (now : Clock) (h : Hall) (x y : FloorId) (ne : x ≠ y) (liveX : (h.floor x).state = .live)
    (liveY : (h.floor y).state = .live) (unadopted : (h.floor x).adopted = none) (opened : (h.floor x).sess ≠ none) :
    ∃ t as, t = h.foldInto now x y ∧ (t.floor x).adopted = some as ∧
      (∀ k l, (h.floor x).bank.listen.get k = some l → (t.floor x).bank.listen.get k = some l) ∧
      (∀ a, a ∈ as → (∃ k, a.place = .slot k ∧ (t.floor x).bank.listen.get k = some a.lang) ∨
        a.place = .short ∧ t.stands (.adoptShort x) = true) ∧
      ∀ z k l, z = y ∨ (h.floor z).state = .folded y → (h.floor z).bank.listen.get k = some l →
        (z = y → ∀ a, a ∈ (h.floor y).adopted.getD [] → a.place ≠ .slot k) →
        (∃ j, (t.floor x).bank.listen.get j = some l) ∨ ∃ a, a ∈ as ∧ a.lang = l ∧ a.place = .short := by
  obtain ⟨sess, adopted⟩ := Hall.foldMoved_carrier now ne liveX liveY
  have moved := (h.foldCarried_speechless now x y).floor
  rw [unadopted] at adopted
  rw [← moved x] at sess adopted
  have carrier : ((h.foldCarried now x y).floor x).Carrier :=
    ⟨by rw [sess]; exact opened, by rw [adopted]; exact Option.some_ne_none _, fun a m => by rw [adopted] at m; cases m⟩
  have fresh : ((h.foldCarried now x y).floor x).adopted.getD [] = [] := by rw [adopted]; rfl
  obtain ⟨adopts, offers⟩ := Hall.adoptAll_adopts carrier ((h.foldCarried now x y).foldedInto x)
  have short := fun a => Hall.adoptionPass_short fresh (a := a)
  obtain ⟨sess', adopted'⟩ := h.foldInto_carrier now ne
  rw [Hall.adoptionPass_floor] at sess' adopted'
  have steady := h.foldInto_keeps now x y
  have source : ∀ {z k}, z = y ∨ (h.floor z).state = .folded y →
      (z = y → ∀ a ∈ (h.floor y).adopted.getD [], a.place ≠ .slot k) →
      z ∈ (h.foldCarried now x y).foldedInto x ∧
        ((h.foldCarried now x y).floor z).bank.listen.get k = (h.floor z).bank.listen.get k := fun follows own => by
    rw [Hall.mem_foldedInto, moved]
    exact Hall.foldMoved_listen now ne liveX liveY follows own
  have bank₀ : ((h.foldCarried now x y).floor x).bank = (h.floor x).bank := by rw [Floor.bank, Floor.bank, sess]
  generalize (h.foldCarried now x y).adoptAll x ((h.foldCarried now x y).foldedInto x) = r
    at adopts offers short sess' adopted'
  have bank : ((h.foldInto now x y).floor x).bank = r.bank := by rw [Floor.bank, Floor.bank, sess']
  obtain ⟨as, entries⟩ := Option.ne_none_iff_exists'.mp adopts.carrier.carries
  have placed := adopts.carrier.placed
  rw [entries] at placed short
  refine ⟨_, as, rfl, adopted'.trans entries, fun k l e => ?_, fun a m => ?_, fun z k l follows listen own => ?_⟩
  · rw [bank]
    exact adopts.listen k l (by rw [bank₀]; exact e)
  · rw [bank]
    exact (placed a m).imp_right fun place => ⟨place, steady.stands (short a m place)⟩
  · obtain ⟨member, same⟩ := source follows own
    have offered := offers z member k l (same.trans listen)
    rw [Floor.Offers, entries] at offered
    rw [bank]
    exact offered

/-- Settles O37, clause by clause: the choice of the rule, the annexation, the records, lists, channels and adopted entries of
a fold, the parts that an unfold takes off one by one, and the home sets reduced at its end. -/
theorem foldAndUnfold : Obligations.FoldAndUnfold :=
  ⟨wallEventsClassified, annexedFloor, foldRecords, foldSpeech, foldChannels, foldAdopts, unfoldedByParts, partGoneDark,
    partRevived, unfoldEndReduces⟩

end Sys2Proof
